-- ==== Sys2Proof/Word.lean ====
section
/-! DEFINITION. Sys2Proof/Word.lean: the widths of the machine's values (R46) and the causes of an illegal instruction
(R90). -/

namespace Sys2Proof

/-- A byte of memory. -/
abbrev Byte := BitVec 8
/-- A 16-bit halfword, the unit of instruction addresses (R70). -/
abbrev Half := BitVec 16
/-- A 32-bit word: a vector register of one lane (R98). -/
abbrev Word := BitVec 32
/-- A 64-bit doubleword: a scalar register (R165) or a queue entry (R287). -/
abbrev Dword := BitVec 64

/-- The causes of an illegal instruction, in the order in which the first that applies is reported (R90). -/
inductive Illegal where
  | zeroWord | onesWord | badExt | undefOp | undefFn | reservedField | badW | badType | badRound | badSpace
  | registerRange | notGridsync | notHandler
  deriving DecidableEq, Repr

end Sys2Proof
end

