-- ==== Sys2Proof/Syntax.lean ====
section
/-! DEFINITION. Sys2Proof/Syntax.lean: the instructions and events of the opcode table, one constructor each
(spec/opcode_table.json; the word formats are R70 to R89). An encoded instruction keeps every field that its
encoding leaves free; an event row carries the choices that the spec leaves to the moment it happens. -/

namespace Sys2Proof

/-- The payload of a kind-0 EXT prefix (R84), fields from high to low. -/
structure Ext0 where
  rc : BitVec 7
  px : BitVec 4
  pn : BitVec 1
  ty : BitVec 5
  rm : BitVec 3
  sn : BitVec 1
  xo : BitVec 2
  deriving DecidableEq, Repr

/-- The EXT prefixes of an instruction: at most one of each kind, kind 0 first (R86). -/
structure Pfx where
  k0 : Option Ext0
  k1 : Option (BitVec 23)
  deriving DecidableEq, Repr

/-- Format G with the W bit (R77); fields from high to low. -/
structure GForm where
  b : BitVec 7
  a : BitVec 7
  d : BitVec 7
  w : BitVec 1
  p : BitVec 2
  deriving DecidableEq, Repr

/-- Format G whose B field is a function or zero, with the W bit (R77); fields from high to low. -/
structure UForm where
  a : BitVec 7
  d : BitVec 7
  w : BitVec 1
  p : BitVec 2
  deriving DecidableEq, Repr

/-- Format C (R77); fields from high to low. -/
structure CForm where
  b : BitVec 7
  a : BitVec 7
  c : BitVec 3
  q : BitVec 4
  p : BitVec 2
  deriving DecidableEq, Repr

/-- Format G without a W bit (R77); fields from high to low. -/
structure NForm where
  b : BitVec 7
  a : BitVec 7
  d : BitVec 7
  p : BitVec 2
  deriving DecidableEq, Repr

/-- Format S, function field removed, with the W bit (R77); fields from high to low. -/
structure SForm where
  b : BitVec 6
  a : BitVec 6
  d : BitVec 6
  w : BitVec 1
  deriving DecidableEq, Repr

/-- Format M (R77); fields from high to low. -/
structure MForm where
  x : BitVec 1
  o : BitVec 7
  a : BitVec 6
  d : BitVec 7
  p : BitVec 2
  deriving DecidableEq, Repr

/-- Format A (R77); fields from high to low. -/
structure AForm where
  s : BitVec 3
  f : BitVec 4
  g : BitVec 6
  d : BitVec 7
  p : BitVec 2
  deriving DecidableEq, Repr

/-- Format M of LDA and STREL (X = 1), O split into scope and offset (R77); fields from high to low. -/
structure AqForm where
  s : BitVec 3
  k : BitVec 4
  a : BitVec 6
  d : BitVec 7
  p : BitVec 2
  deriving DecidableEq, Repr

/-- One instruction or one event of the machine: a constructor for each row of the opcode table. -/
inductive Instr where
  /-- NOP: Does nothing and counts as one instruction for the result window. (R181). -/
  | nop (e : Pfx)
  /-- VADD: Adds elements of va and operand B per active lane, with wrap or saturation. (R125). -/
  | vadd (e : Pfx) (f : GForm)
  /-- VSUB: Subtracts operand B from va per element, with wrap or saturation. (R125). -/
  | vsub (e : Pfx) (f : GForm)
  /-- VMUL: Multiplies elements and keeps the low bits or the saturated product. (R125). -/
  | vmul (e : Pfx) (f : GForm)
  /-- VMULH: Writes the high half of each element product. (R125). -/
  | vmulh (e : Pfx) (f : GForm)
  /-- VMAD: Computes va times B plus vc exactly, then wraps or clamps once. (R125). -/
  | vmad (e : Pfx) (f : GForm)
  /-- VMIN: Writes the per-element minimum, signed or unsigned by type. (R125). -/
  | vmin (e : Pfx) (f : GForm)
  /-- VMAX: Writes the per-element maximum, signed or unsigned by type. (R125). -/
  | vmax (e : Pfx) (f : GForm)
  /-- VABS: Writes the absolute value of each element, optionally saturating minT. (R128). -/
  | vabs (e : Pfx) (f : UForm)
  /-- VNEG: Negates each element, optionally saturating minT. (R128). -/
  | vneg (e : Pfx) (f : UForm)
  /-- VNOT: Writes the bitwise complement of va. (R128). -/
  | vnot (e : Pfx) (f : UForm)
  /-- VPOPC: Writes the count of one bits of va. (R128). -/
  | vpopc (e : Pfx) (f : UForm)
  /-- VCLZ: Writes the count of leading zero bits of va. (R128). -/
  | vclz (e : Pfx) (f : UForm)
  /-- VBREV: Reverses the bit order of va. (R128). -/
  | vbrev (e : Pfx) (f : UForm)
  /-- VAND: Bitwise AND of va and operand B per lane. (R126). -/
  | vand (e : Pfx) (f : GForm)
  /-- VOR: Bitwise OR of va and operand B per lane. (R126). -/
  | vor (e : Pfx) (f : GForm)
  /-- VXOR: Bitwise XOR of va and operand B per lane. (R126). -/
  | vxor (e : Pfx) (f : GForm)
  /-- VSHL: Shifts each element left by the lane's count. (R127). -/
  | vshl (e : Pfx) (f : GForm)
  /-- VSHR: Shifts each element right logically by the lane's count. (R127). -/
  | vshr (e : Pfx) (f : GForm)
  /-- VSRA: Shifts each element right arithmetically by the lane's count. (R127). -/
  | vsra (e : Pfx) (f : GForm)
  /-- VROT: Rotates each element left, or right with .R, by the count modulo width. (R127). -/
  | vrot (e : Pfx) (f : GForm)
  /-- VBFE: Extracts a bit field of va given by position and length, extending it. (R129). -/
  | vbfe (e : Pfx) (f : GForm)
  /-- VBFI: Inserts low bits of va into a field of vc and writes vd. (R129). -/
  | vbfi (e : Pfx) (f : GForm)
  /-- VSEL: Selects va or operand B per lane by a predicate named in a required kind-0 prefix. (R130). -/
  | vsel (e : Pfx) (f : GForm)
  /-- VCMP: Compares va and vb per lane and sets, ANDs or ORs the result into pd. (R131). -/
  | vcmp (e : Pfx) (f : CForm)
  /-- VSAT: Clamps each lane's value to an n-bit signed or unsigned range. (R132). -/
  | vsat (e : Pfx) (f : GForm)
  /-- VADDC: Adds with carry in and out through a predicate named in a required kind-0 prefix. (R133). -/
  | vaddc (e : Pfx) (f : GForm)
  /-- VLEA: Forms a 64-bit address from a pair plus a scaled 32-bit index. (R134). -/
  | vlea (e : Pfx) (f : GForm)
  /-- VSHF: Moves values between lanes of the group by index, up, down or XOR mode. (R136). -/
  | vshf (e : Pfx) (f : GForm)
  /-- VBCAST: Copies one lane's value, or the first active lane's, to every active lane. (R137). -/
  | vbcast (e : Pfx) (f : GForm)
  /-- VREDUCE: Reduces va over present lanes with the fixed pairwise tree and writes every active lane. (R138). -/
  | vreduce (e : Pfx) (f : GForm)
  /-- VSCAN: Writes the inclusive or exclusive scan of va over present lanes. (R138). -/
  | vscan (e : Pfx) (f : GForm)
  /-- VDOT4: Adds four byte products to a 32-bit accumulator, optionally saturating. (R139). -/
  | vdot4 (e : Pfx) (f : GForm)
  /-- VMOVI: Writes a constant into the active lanes of vd. (R140). -/
  | vmovi (e : Pfx) (i : BitVec 14) (d : BitVec 7) (w : BitVec 1) (p : BitVec 2)
  /-- FADD: Adds floating-point elements with one rounding. (R146). -/
  | fadd (e : Pfx) (f : GForm)
  /-- FSUB: Subtracts floating-point elements with one rounding. (R146). -/
  | fsub (e : Pfx) (f : GForm)
  /-- FMUL: Multiplies floating-point elements with one rounding. (R146). -/
  | fmul (e : Pfx) (f : GForm)
  /-- FFMA: Fused multiply-add with optional negations and one rounding. (R146). -/
  | ffma (e : Pfx) (f : GForm)
  /-- FMIN: Returns the smaller operand with the NaN and signed-zero rules. (R147). -/
  | fmin (e : Pfx) (f : GForm)
  /-- FMAX: Returns the larger operand with the NaN and signed-zero rules. (R147). -/
  | fmax (e : Pfx) (f : GForm)
  /-- FSGN: Builds a value from the magnitude of va and a sign selected by XO. (R148). -/
  | fsgn (e : Pfx) (f : GForm)
  /-- FCMP: Compares floating values into a predicate with the NaN rules of its condition. (R151). -/
  | fcmp (e : Pfx) (f : CForm)
  /-- FCLASS: Writes a one-hot class mask for each element. (R154). -/
  | fclass (e : Pfx) (f : UForm)
  /-- FRCP: Writes the correctly rounded reciprocal. (R153). -/
  | frcp (e : Pfx) (f : UForm)
  /-- FRSQ: Writes the correctly rounded reciprocal square root. (R153). -/
  | frsq (e : Pfx) (f : UForm)
  /-- FSQRT: Writes the correctly rounded square root. (R153). -/
  | fsqrt (e : Pfx) (f : UForm)
  /-- FEXP2: Writes 2 to the power x rounded with RNE. (R153). -/
  | fexp2 (e : Pfx) (f : UForm)
  /-- FLOG2: Writes log2 of x rounded with RNE. (R153). -/
  | flog2 (e : Pfx) (f : UForm)
  /-- FSIN: Writes sin of pi times x rounded with RNE. (R153). -/
  | fsin (e : Pfx) (f : UForm)
  /-- FCOS: Writes cos of pi times x rounded with RNE. (R153). -/
  | fcos (e : Pfx) (f : UForm)
  /-- FTANH: Writes tanh x rounded with RNE. (R153). -/
  | ftanh (e : Pfx) (f : UForm)
  /-- FCVT: Converts elements between formats, narrowing into or widening from a slot. (R156). -/
  | fcvt (e : Pfx) (s : BitVec 1) (t : BitVec 5) (a : BitVec 7) (d : BitVec 7) (w : BitVec 1) (p : BitVec 2)
  /-- FPACK: Divides F32 values by an E8M0 scale and packs them into an MX element format. (R159). -/
  | fpack (e : Pfx) (f : GForm)
  /-- FUNPACK: Unpacks MX elements times their scale into consecutive F32 registers. (R160). -/
  | funpack (e : Pfx) (f : NForm)
  /-- FSCALE: Multiplies each element by 2 to a signed count with one rounding. (R149). -/
  | fscale (e : Pfx) (f : GForm)
  /-- FRND: Rounds each element to an integral value in the given mode. (R150). -/
  | frnd (e : Pfx) (f : UForm)
  /-- FDOT2: Adds two 16-bit products to an F32 value with one rounding. (R161). -/
  | fdot2 (e : Pfx) (f : GForm)
  /-- FMXS: Computes the E8M0 block scale for an element format from an F32 magnitude. (R158). -/
  | fmxs (e : Pfx) (t : BitVec 5) (a : BitVec 7) (d : BitVec 7) (w : BitVec 1) (p : BitVec 2)
  /-- FWCVT: Converts between FW128 and another format under a window base. (R162). -/
  | fwcvt (e : Pfx) (f : GForm)
  /-- FWADD: Adds or subtracts two FW128 quads modulo 2^128. (R163). -/
  | fwadd (e : Pfx) (f : GForm)
  /-- SADD: Adds two scalar registers and sets CC. (R168). -/
  | sadd (e : Pfx) (f : SForm)
  /-- SSUB: Subtracts two scalar registers and sets CC. (R168). -/
  | ssub (e : Pfx) (f : SForm)
  /-- SMUL: Multiplies two scalar registers and sets CC. (R168). -/
  | smul (e : Pfx) (f : SForm)
  /-- SAND: Bitwise AND of two scalar registers, setting CC. (R168). -/
  | sand (e : Pfx) (f : SForm)
  /-- SOR: Bitwise OR of two scalar registers, setting CC. (R168). -/
  | sor (e : Pfx) (f : SForm)
  /-- SXOR: Bitwise XOR of two scalar registers, setting CC. (R168). -/
  | sxor (e : Pfx) (f : SForm)
  /-- SSHL: Shifts a scalar left by a count, setting CC. (R168). -/
  | sshl (e : Pfx) (f : SForm)
  /-- SSHR: Shifts a scalar right logically, setting CC. (R168). -/
  | sshr (e : Pfx) (f : SForm)
  /-- SSRA: Shifts a scalar right arithmetically, setting CC. (R168). -/
  | ssra (e : Pfx) (f : SForm)
  /-- SMIN: Writes the scalar minimum, setting CC. (R168). -/
  | smin (e : Pfx) (f : SForm)
  /-- SMAX: Writes the scalar maximum, setting CC. (R168). -/
  | smax (e : Pfx) (f : SForm)
  /-- SCMP: Subtracts two scalars and sets CC without writing a register. (R168). -/
  | scmp (e : Pfx) (b : BitVec 6) (a : BitVec 6)
  /-- SADDI: Adds a signed immediate to a scalar and sets CC. (R168). -/
  | saddi (e : Pfx) (i : BitVec 9) (a : BitVec 6) (d : BitVec 6) (w : BitVec 1)
  /-- SMOVI: Writes a sign-extended immediate, or with .HI the upper half, of a scalar. (R170). -/
  | smovi (e : Pfx) (i : BitVec 14) (d : BitVec 7) (w : BitVec 1)
  /-- PAND: ANDs two predicates into pd. (R102). -/
  | pand (e : Pfx) (b : BitVec 6) (a : BitVec 6) (d : BitVec 6)
  /-- POR: ORs two predicates into pd. (R102). -/
  | por (e : Pfx) (b : BitVec 6) (a : BitVec 6) (d : BitVec 6)
  /-- PXOR: XORs two predicates into pd. (R102). -/
  | pxor (e : Pfx) (b : BitVec 6) (a : BitVec 6) (d : BitVec 6)
  /-- PANDN: ANDs pa with the complement of pb into pd. (R102). -/
  | pandn (e : Pfx) (b : BitVec 6) (a : BitVec 6) (d : BitVec 6)
  /-- PNOT: Writes the complement of pa into pd. (R102). -/
  | pnot (e : Pfx) (a : BitVec 6) (d : BitVec 6)
  /-- PSET: Writes a scalar register masked to the width into pd. (R102). -/
  | pset (e : Pfx) (a : BitVec 6) (d : BitVec 6)
  /-- PGET: Writes a predicate into a scalar register. (R102). -/
  | pget (e : Pfx) (a : BitVec 6) (d : BitVec 6)
  /-- MOV: Copies a vector or scalar register value into the active lanes. (R106). -/
  | mov (e : Pfx) (f : GForm)
  /-- MOVIX: Reads an indexed vector register in every active lane, all or nothing. (R105). -/
  | movix (e : Pfx) (f : NForm)
  /-- STIX: Writes an indexed vector register in every active lane, all or nothing. (R105). -/
  | stix (e : Pfx) (f : NForm)
  /-- IXSET: Writes, sets the index of, or steps an index register in every active lane. (R104). -/
  | ixset (e : Pfx) (b : BitVec 7) (m : BitVec 2) (k : BitVec 2) (p : BitVec 2)
  /-- PARK: Writes consecutive vector registers into operand or accumulator rows. (R116). -/
  | park (e : Pfx) (c : BitVec 4) (a : BitVec 7) (d : BitVec 7) (p : BitVec 2)
  /-- UNPARK: Reads operand or accumulator rows back into consecutive vector registers. (R116). -/
  | unpark (e : Pfx) (c : BitVec 4) (a : BitVec 7) (d : BitVec 7) (p : BitVec 2)
  /-- WINRD: Copies a word or lane mask of a saved window entry into vd. (R114). -/
  | winrd (e : Pfx) (b : BitVec 7) (k : BitVec 3) (d : BitVec 7) (p : BitVec 2)
  /-- BR: Branches the issuing sub-group when the CC condition holds. (R172). -/
  | br (e : Pfx) (i : BitVec 16) (c : BitVec 5)
  /-- BRP: Branches when a predicate masked by p0 is zero or nonzero. (R173). -/
  | brp (e : Pfx) (i : BitVec 16) (s : BitVec 1) (k : BitVec 4)
  /-- JMP: Transfers the sub-group to a relative target. (R174). -/
  | jmp (e : Pfx) (i : BitVec 21)
  /-- CALL: Writes the return address to s63 and transfers to a relative target. (R174). -/
  | call (e : Pfx) (i : BitVec 21)
  /-- RET: Transfers to the address in a scalar register with bit 0 cleared. (R174). -/
  | ret (e : Pfx) (a : BitVec 7)
  /-- SPLIT: Saves MEET, sets a new meeting address and divides the sub-group by a mask; always carries a kind-1 prefix. (R177). -/
  | split (e : Pfx) (f : BitVec 6) (q : BitVec 4) (i : BitVec 11)
  /-- JOIN: Restores MEET from a saved pair in every lane of the sub-group. (R178). -/
  | join (e : Pfx) (a : BitVec 7)
  /-- MEETSET: Sets MEET to a relative address in every lane of the sub-group. (R179). -/
  | meetset (e : Pfx) (i : BitVec 21)
  /-- ELECT: Picks the lowest selected lane into pd and its number into sd. (R180). -/
  | elect (e : Pfx) (b : BitVec 7) (a : BitVec 7) (d : BitVec 7)
  /-- EXIT: Puts every lane of the issuing sub-group into EXITED. (R181). -/
  | exit (e : Pfx)
  /-- TCFG: Writes MCFG of the bank unless a slot is claimed or a region busy. (R267). -/
  | tcfg (e : Pfx) (a : BitVec 7)
  /-- TCLAIM: Claims and zeroes a named set of operand slots if all are free, setting CC. (R267). -/
  | tclaim (e : Pfx) (a : BitVec 7) (d : BitVec 7)
  /-- TCLAIM_ANY: Claims and zeroes the n lowest unclaimed operand slots, setting CC. (R267). -/
  | tclaimAny (e : Pfx) (n : BitVec 7) (d : BitVec 7)
  /-- TREL: Releases claimed slots after no operation references them. (R267). -/
  | trel (e : Pfx) (a : BitVec 7)
  /-- TSTATR: Reads MCFG, TSTAT or MQSTAT into a scalar register. (R267). -/
  | tstatr (e : Pfx) (s : BitVec 7) (d : BitVec 7)
  /-- LD_G: Loads from the global space into vd per active lane. (R230). -/
  | ldG (e : Pfx) (f : MForm)
  /-- LD_SP: Loads from team scratchpad into vd per active lane. (R230). -/
  | ldSp (e : Pfx) (f : MForm)
  /-- LD_CL: Loads from cluster memory into vd per active lane. (R230). -/
  | ldCl (e : Pfx) (f : MForm)
  /-- LD_CH: Loads from the chip scratchpad window into vd per active lane. (R230). -/
  | ldCh (e : Pfx) (f : MForm)
  /-- LD_LN: Loads from the lane slice into vd per active lane. (R230). -/
  | ldLn (e : Pfx) (f : MForm)
  /-- ST_G: Stores vs to the global space per active lane. (R230). -/
  | stG (e : Pfx) (f : MForm)
  /-- ST_SP: Stores vs to team scratchpad per active lane. (R230). -/
  | stSp (e : Pfx) (f : MForm)
  /-- ST_CL: Stores vs to cluster memory per active lane. (R230). -/
  | stCl (e : Pfx) (f : MForm)
  /-- ST_CH: Stores vs to the chip scratchpad window per active lane. (R230). -/
  | stCh (e : Pfx) (f : MForm)
  /-- ST_LN: Stores vs to the lane slice per active lane. (R230). -/
  | stLn (e : Pfx) (f : MForm)
  /-- GATHER: Loads each lane's element from its own address, tracking completion in a bitmap. (R231). -/
  | gather (e : Pfx) (f : AForm)
  /-- SCATTER: Stores each lane's element to its own address, tracking completion in a bitmap. (R231). -/
  | scatter (e : Pfx) (f : AForm)
  /-- ATOM: Applies an atomic function at the address's apply unit without returning a value. (R234). -/
  | atom (e : Pfx) (f : AForm)
  /-- ATOMR: Applies an atomic function and returns the old value. (R234). -/
  | atomr (e : Pfx) (f : AForm)
  /-- CAS: Compares bits with vc and swaps in vd when equal, returning the old value. (R234). -/
  | cas (e : Pfx) (s : BitVec 3) (g : BitVec 6) (d : BitVec 7) (p : BitVec 2)
  /-- LDA: Loads from the global space and acts as an acquire at its scope. (R236). -/
  | lda (e : Pfx) (f : AqForm)
  /-- STREL: Stores to the global space as a release at its scope. (R236). -/
  | strel (e : Pfx) (f : AqForm)
  /-- FENCE: Orders the group's memory accesses at a scope, full, read or write kind. (R237). -/
  | fence (e : Pfx) (b : BitVec 7) (a : BitVec 7)
  /-- ACQ_PROMOTE: Drains a victim core's write path and bumps its edition, then acts as FENCE.DEV. (R238). -/
  | acqPromote (e : Pfx) (a : BitVec 7)
  /-- PREF: Prefetches lines into L1 and L2 or L2 only, never trapping. (R239). -/
  | pref (e : Pfx) (x : BitVec 1) (o : BitVec 7) (a : BitVec 6) (l : BitVec 1) (p : BitVec 2)
  /-- CFLUSH: Invalidates or writes back lines at L1, L2 or the memory-side cache. (R240). -/
  | cflush (e : Pfx) (x : BitVec 1) (o : BitVec 7) (a : BitVec 6) (l : BitVec 2) (p : BitVec 2)
  /-- TFILL: Moves memory into claimed operand memory at an offset. (R271). -/
  | tfill (e : Pfx) (x : BitVec 1) (o : BitVec 7) (a : BitVec 6) (d : BitVec 6) (p : BitVec 2)
  /-- TROW: Writes a row of operand memory from vs or reads an accumulator row into vd. (R273). -/
  | trow (e : Pfx) (f : NForm)
  /-- QPUSH: Appends a run of lane or scalar values to a push queue, blocking for room. (R289). -/
  | qpush (e : Pfx) (f : NForm)
  /-- QPOP: Removes a run of entries from a pop queue into lanes or a scalar, blocking until present. (R290). -/
  | qpop (e : Pfx) (f : NForm)
  /-- QTRY: Removes as many entries as are present without blocking and sets CC. (R291). -/
  | qtry (e : Pfx) (f : NForm)
  /-- QSTAT: Writes a queue's capacity, room, reservations and count to a scalar. (R293). -/
  | qstat (e : Pfx) (b : BitVec 7) (d : BitVec 7)
  /-- WAIT: Blocks until the four outstanding-operation counters meet their thresholds, then acquires. (R354). -/
  | wait (e : Pfx) (t : BitVec 5) (n : BitVec 5) (s : BitVec 5) (l : BitVec 5)
  /-- BARINIT: Reinitialises a barrier object's targets, counts and phase. (R360). -/
  | barinit (e : Pfx) (b : BitVec 7) (a : BitVec 7) (d : BitVec 7)
  /-- BARARR: Adds the sub-group's lane count to a barrier's arrivals as a release. (R360). -/
  | bararr (e : Pfx) (d : BitVec 7)
  /-- BARARR_N: Adds a scalar count of arrivals to a barrier object. (R360). -/
  | bararrN (e : Pfx) (a : BitVec 7) (d : BitVec 7)
  /-- BAREXP: Raises the current phase's byte target. (R360). -/
  | barexp (e : Pfx) (a : BitVec 7) (d : BitVec 7)
  /-- BARWAIT: Blocks until a barrier's phase reaches the given number, then acquires. (R360). -/
  | barwait (e : Pfx) (a : BitVec 7) (d : BitVec 7)
  /-- BARTEST: Reads a barrier's phase and sets CC.Z if the given phase is done. (R360). -/
  | bartest (e : Pfx) (b : BitVec 7) (a : BitVec 7) (d : BitVec 7)
  /-- GBAR: Arrives at the grid barrier and blocks until every non-exited grid lane has arrived. (R364). -/
  | gbar (e : Pfx)
  /-- TRAP: Raises SOFT-TRAP with a number in TVA. (R189). -/
  | trap (e : Pfx) (i : BitVec 8)
  /-- TFENCE: Raises ARITHMETIC when an enabled AFLAGS bit is set. (R190). -/
  | tfence (e : Pfx)
  /-- RETT: Leaves handler mode, restores the window and resumes at TRETA. (R192). -/
  | rett (e : Pfx)
  /-- SPRR: Reads a special register into a scalar register. (R182). -/
  | sprr (e : Pfx) (i : BitVec 9) (d : BitVec 6)
  /-- SPRW: Writes a scalar register to a special register. (R182). -/
  | sprw (e : Pfx) (i : BitVec 9) (a : BitVec 6)
  /-- YIELD: Offers the bank for a pending swap at the following boundary. (R194). -/
  | yield (e : Pfx)
  /-- SLEEP: Blocks the sub-group until a time or team event wakes it. (R195). -/
  | sleep (e : Pfx) (a : BitVec 7)
  /-- GETID: Reads a launch or placement identity into a scalar or vector register. (R188). -/
  | getid (e : Pfx) (i : BitVec 9) (a : BitVec 6) (d : BitVec 6)
  /-- REPLACE: Writes the trapped instruction's destination and sets TRETA to skip it. (R193). -/
  | replace (e : Pfx) (b : BitVec 7) (a : BitVec 7)
  /-- VMOV: Short form of MOV.B32 vd, vb. (R81). -/
  | vmov (b : BitVec 5) (d : BitVec 6)
  /-- NOP16: A short VMOV with equal nonzero D and B that does nothing and counts once. (R82). -/
  | nop16 (r : BitVec 5)
  /-- VMOVI_SHORT: Short form writing a 5-bit signed constant into vd. (R81). -/
  | vmoviShort (i : BitVec 5) (d : BitVec 6)
  /-- VADD_SHORT: Short form of VADD.S32 vd, vd, vb. (R81). -/
  | vaddShort (b : BitVec 5) (d : BitVec 6)
  /-- VSUB_SHORT: Short form of VSUB.S32 vd, vd, vb. (R81). -/
  | vsubShort (b : BitVec 5) (d : BitVec 6)
  /-- VMUL_SHORT: Short form of VMUL.S32 vd, vd, vb. (R81). -/
  | vmulShort (b : BitVec 5) (d : BitVec 6)
  /-- VADDI: Short form adding a 5-bit signed immediate to vd. (R81). -/
  | vaddi (i : BitVec 5) (d : BitVec 6)
  /-- VAND_SHORT: Short form of VAND.B32 vd, vd, vb. (R81). -/
  | vandShort (b : BitVec 5) (d : BitVec 6)
  /-- VOR_SHORT: Short form of VOR.B32 vd, vd, vb. (R81). -/
  | vorShort (b : BitVec 5) (d : BitVec 6)
  /-- VXOR_SHORT: Short form of VXOR.B32 vd, vd, vb. (R81). -/
  | vxorShort (b : BitVec 5) (d : BitVec 6)
  /-- VSHL_I: Short form shifting vd left by an immediate. (R81). -/
  | vshlI (i : BitVec 5) (d : BitVec 6)
  /-- VSHR_I: Short form shifting vd right logically by an immediate. (R81). -/
  | vshrI (i : BitVec 5) (d : BitVec 6)
  /-- FADD_SHORT: Short form of FADD.F32 vd, vd, vb. (R81). -/
  | faddShort (b : BitVec 5) (d : BitVec 6)
  /-- FSUB_SHORT: Short form of FSUB.F32 vd, vd, vb. (R81). -/
  | fsubShort (b : BitVec 5) (d : BitVec 6)
  /-- FMUL_SHORT: Short form of FMUL.F32 vd, vd, vb. (R81). -/
  | fmulShort (b : BitVec 5) (d : BitVec 6)
  /-- FMAX_SHORT: Short form of FMAX.F32 vd, vd, vb. (R81). -/
  | fmaxShort (b : BitVec 5) (d : BitVec 6)
  /-- FMIN_SHORT: Short form of FMIN.F32 vd, vd, vb. (R81). -/
  | fminShort (b : BitVec 5) (d : BitVec 6)
  /-- ILLEGAL_INSTRUCTION: An instruction word that fails decode traps with the first applicable illegal-instruction cause and changes nothing. (R90). -/
  | illegalInstruction (cause : BitVec 8)
  /-- INSTRUCTION_FETCH_FAULT: A fetch of an instruction word that faults or reads poison parks or traps the sub-group before decode. (R72). -/
  | instructionFetchFault (code : BitVec 8) (va : BitVec 64) (inRange tpoi : Bool)
  /-- TRAP_ENTRY: At an issue boundary the group enters handler mode at THAND and writes the trap frame, or the context ends. (R389). -/
  | trapEntry (g : Nat)
  /-- TEAM_PLACEMENT: The dealer admits a team whole into a bank, zeroing its state, or completes the launch with a failure status. (R34). -/
  | teamPlacement (d p : Nat)
  /-- GROUP_RETIREMENT: A group whose lanes are all EXITED retires once its counters read zero, freeing its slot and discarding queued results. (R26). -/
  | groupRetirement (g : Nat)
  /-- LOAD_DATA_RETURN: Data for a load-class operation lands in its destination registers, marking poison, and the operation becomes done. (R230). -/
  | loadDataReturn (g n : Nat)
  /-- STORE_PERFORMED: A store-class write performs at the scope of its access and the operation becomes done. (R230). -/
  | storePerformed (core n : Nat)
  /-- WAIT_COMPLETION: A blocked WAIT whose thresholds are met delivers any pending report or completes as an acquire. (R354). -/
  | waitCompletion (g b : Nat)
  /-- SLEEP_TIMEOUT: TIME advancing by the requested count wakes a sleeping sub-group. (R195). -/
  | sleepTimeout (g b : Nat)
  /-- QUEUE_ROOM_FREED: A push blocked for room, permits or reservations appends its run when they become free. (R289). -/
  | queueRoomFreed (g b : Nat)
  /-- QUEUE_ENTRIES_ARRIVE: A QPOP blocked until enough entries are present removes its run when they arrive. (R290). -/
  | queueEntriesArrive (g b : Nat)
  /-- BYTE_CREDIT: A byte credit from a command, matrix drain, landing window or SIGNAL applies to a barrier object. (R363). -/
  | byteCredit (n : Nat)
  /-- EDITION_SWEEP_END: An edition sweep finishes invalidating lines of the opposite half and stalled bumps proceed. (R252). -/
  | editionSweepEnd (cls key : Nat)
  /-- MSC_MISS_FETCH: The memory controller reads the smallest aligned block covering the missing sectors from DRAM. (R210). -/
  | mscMissFetch (d p line : Nat) (want : BitVec 8)
  /-- RDSH: A node's read-to-share request is resolved at the home and the spine tag updated. (R214). -/
  | rdsh (q line : Nat)
  /-- RDOWN: A node's read-for-ownership request invalidates other copies and grants M. (R214). -/
  | rdown (q line : Nat)
  /-- UPGRADE: A node's request for ownership of a copy it believes it holds is resolved at the home. (R214). -/
  | upgrade (q line : Nat)
  /-- WBACK: A holder returns dirty data to the home. (R214). -/
  | wback (q line : Nat)
  /-- EVICT: A node notifies the home that it dropped a clean copy. (R214). -/
  | evict (q line : Nat)
  /-- HOST_OWNERSHIP_REQUEST: A host request for ownership invalidates every device copy, leaves I and sets HH. (R215). -/
  | hostOwnershipRequest (line : Nat)
  /-- CXL_MEM_ACCESS: A host access through CXL.mem reaches mapped host-coherent lines or returns data poison. (R415). -/
  | cxlMemAccess (d p port off len : Nat) (data : List (BitVec 8))
  /-- TRANSLATION_WALK: A page walk completes and fills the TLB or ends in a translation fault. (R317). -/
  | translationWalk (d p asid kind : Nat) (va : BitVec 64)
  /-- FREPLY_REPLAY: A REPLAY answer makes every waiting parked lane replay and engines resume. (R313). -/
  | freplyReplay (d p : Nat) (v : BitVec 64)
  /-- FREPLY_DELIVER: A DELIVER answer raises the fault to the waiting groups' handlers and completes engine commands with a fault status. (R313). -/
  | freplyDeliver (d p : Nat) (v : BitVec 64)
  /-- FREPLY_TERMINATE: A TERMINATE answer ends the owning context. (R313). -/
  | freplyTerminate (d p : Nat) (v : BitVec 64)
  /-- FREPLY_DISCARD: A FREPLY store with outcome 3, a bad format or no waiting entry is discarded. (R313). -/
  | freplyDiscard (d p : Nat) (v : BitVec 64)
  /-- XINV_GO: Writing GO starts a translation invalidation over a range and ASID set, or sets ERR if refused. (R324). -/
  | xinvGo (d p : Nat) (v : BitVec 64)
  /-- XINV_COMPLETE: An invalidation finishes its drain, clears BUSY and increments DONE. (R324). -/
  | xinvComplete (d p : Nat)
  /-- XWINV: Writing XWINV drops cached inbound and window rows for a source node or all. (R341). -/
  | xwinv (d p : Nat) (v : BitVec 64)
  /-- XWINV_COMPLETE: A window invalidation finishes draining admitted requests and clears BUSY. (R341). -/
  | xwinvComplete (d p : Nat)
  /-- MIGRATION_START: Writing STATE = 1 starts a migration entry at PTR 0 or fails it to STATE 3. (R328). -/
  | migrationStart (d p n : Nat) (v : BitVec 64)
  /-- MIGRATION_LINE_MOVE: The controller recalls, moves and marks one line and advances PTR at the entry's rate. (R329). -/
  | migrationLineMove (d p n : Nat)
  /-- MIGRATION_END: Writing STATE = 0 to a done entry ends its redirection. (R329). -/
  | migrationEnd (d p n : Nat) (v : BitVec 64)
  /-- ATS_INVALIDATION_REQUEST: An ATS invalidation arriving over CXL.io stops use of matching host translations. (R331). -/
  | atsInvalidationRequest (d pasid : Nat) (va : BitVec 64) (size : Nat)
  /-- ATS_INVALIDATION_COMPLETION: After host responses to affected requests, the host block returns the invalidation completion. (R331). -/
  | atsInvalidationCompletion (d n : Nat)
  /-- ATS_TRANSLATION_COMPLETION: An ATS completion arrives; one granting no access parks lanes and sends a PRI page request. (R418). -/
  | atsTranslationCompletion (d asid : Nat) (va hpa : BitVec 64) (granted : Bool)
  /-- PAGE_REQUEST_RESPONSE: A page-request-group response replays the parked lanes or delivers TRANSLATION. (R418). -/
  | pageRequestResponse (d n : Nat) (ok : Bool)
  /-- PAGE_REQUEST_TIMEOUT: A page request unanswered for 1 s is treated as Response Failure. (R418). -/
  | pageRequestTimeout (d n : Nat)
  /-- MATRIX_BLOCK_READ: The engine reads a pushed parameter block in bank order and checks it, completing bad operations at once. (R276). -/
  | matrixBlockRead (k : Nat)
  /-- MATRIX_OPERATION_START: The array picks the eligible head of the two banks' matrix queues and starts its products. (R405). -/
  | matrixOperationStart (core : Nat)
  /-- MATRIX_PRODUCTS: The product stage of an operation ends with its accumulator tile updated. (R279). -/
  | matrixProducts (core : Nat)
  /-- DRAIN: The drain conversion reads the tile into a drain buffer and sends its writes. (R280). -/
  | drain (core : Nat)
  /-- MATRIX_COMPLETION: When every drain write has performed, the engine credits the barrier, pushes the q1 record and retires the tile counter. (R277). -/
  | matrixCompletion (core n : Nat)
  /-- COMMAND_BLOCK_READ: A copy engine reads a pushed command block and checks it, completing bad commands at once. (R300). -/
  | commandBlockRead (src q : Nat)
  /-- COPY: Moves and converts an ND-dimensional array between spaces, marking chunks in a bitmap. (R302). -/
  | copy (u n : Nat)
  /-- READ: Copies bytes from a remote peer window or kitty address to the local side. (R304). -/
  | read (u : Nat)
  /-- WRITE: Copies bytes from the local side to a remote peer window or kitty address. (R304). -/
  | write (u : Nat)
  /-- COMMAND_ATOM: Applies one atomic at the remote apply unit and optionally returns the old value. (R304). -/
  | commandAtom (u : Nat)
  /-- COMMAND_CAS: Applies a compare-and-swap at the remote apply unit and optionally returns the old value. (R304). -/
  | commandCas (u : Nat)
  /-- REDUCE: Applies each local element as a commutative atomic at consecutive remote addresses. (R304). -/
  | reduce (u n : Nat)
  /-- KALLOC: Allocates striped, pinned or mirrored kitty memory first-fit, charging quota rows. (R305). -/
  | kalloc (u : Nat)
  /-- KFREE: Frees a kitty allocation and returns its charges. (R305). -/
  | kfree (u : Nat)
  /-- SIGNAL: After older commands complete, credits a barrier object with a byte count. (R306). -/
  | signal (u : Nat)
  /-- COMMAND_COMPLETION: A command whose writes, reads and credit are done pushes its record and retires from the copy counter. (R299). -/
  | commandCompletion (u : Nat)
  /-- SPAN_TAG_CHECK: The destination checks a span's integrity tag, granting credit or poisoning landed sectors and requesting a resend. (R423). -/
  | spanTagCheck (u n : Nat) (pass : Bool)
  /-- SPAN_TIMEOUT: A span incomplete 50 microseconds after its first packet is treated as a tag failure. (R423). -/
  | spanTimeout (u n : Nat)
  /-- INBOUND_REQUEST: A region 0x4 request arriving at the target is admitted through inbound and window rows or returns poison. (R339). -/
  | inboundRequest (d p srcNode srcPart win off kind len : Nat) (coherent : Bool) (data : List (BitVec 8))
  /-- TASK_PACKET_SEND: The sending engine reads a task packet, fills SEQ and AUTH and sends it or completes it with an error. (R309). -/
  | taskPacketSend (src : Nat)
  /-- TASK_PACKET_ARRIVAL: The target authenticates a task packet, copies its arguments and launches its kernel. (R310). -/
  | taskPacketArrival (u : Nat)
  /-- TASK_RECORD: The task's status and returned doubleword arrive and are pushed to q5. (R310). -/
  | taskRecord (u : Nat)
  /-- GRAPH_ROOT_PUSH: The stitcher takes a q7 value as a root or discards it. (R311). -/
  | graphRootPush (g : Nat)
  /-- NODE_READY: On its partition's turn the stitcher reads a node with PRED = 0 and handles it by kind. (R400). -/
  | nodeReady (d p : Nat)
  /-- NODE_COMPLETION: A finished node writes STATUS and decrements successors, launching those that reach zero. (R349). -/
  | nodeCompletion (d p : Nat)
  /-- ARMED_LINE_REREAD: After a host write invalidates an armed line, the stitcher rereads it and takes a SUBMIT root. (R350). -/
  | armedLineReread (d vif : Nat)
  /-- BANK_SWAP: A swap request is served at an instruction boundary, exchanging the active bank over 64 cycles. (R382). -/
  | bankSwap (core : Nat)
  /-- SLICE_EXPIRY: TSLICE.REMAIN reaching zero sets EXP and the scheduler serves or withdraws the swap request. (R369). -/
  | sliceExpiry (core bank : Nat)
  /-- SPILL_START: The talon starts copying an INACTIVE bank into its core's image store. (R375). -/
  | spillStart (core bank : Nat)
  /-- SPILL_COMPLETE: The talon finishes the image and the bank becomes CLEAN. (R376). -/
  | spillComplete (core bank : Nat)
  /-- IMAGE_COPY_OUT: A released image is copied to the context's save area, freeing the store. (R380). -/
  | imageCopyOut (core : Nat)
  /-- IMAGE_COPY_IN: An image is copied from a save-area slot into a core's store, freeing the slot. (R380). -/
  | imageCopyIn (k core : Nat)
  /-- FILL: The talon loads an image into an EMPTY bank, which ends INACTIVE. (R380). -/
  | fill (core bank : Nat)
  /-- CONTEXT_END: A context stops all groups, discards queued work, empties its banks and records CTXSTAT. (R395). -/
  | contextEnd (d asid : Nat)
  /-- KILL: Writing 1 to CTXSTAT.KILL ends the context. (R396). -/
  | kill (d asid : Nat)
  /-- AUDIT: Each audit period the engine snapshots every permit link and compares its sum with its total. (R366). -/
  | audit (d : Nat)
  /-- MIGCTL_GO: Writing GO freezes, spills and sends a context's images to the destination device. (R429). -/
  | migctlGo (d asid : Nat) (v : BitVec 64)
  /-- TENANT_MOVE_COMPLETE: All images have reached the destination, STATE becomes 3 and the context resumes there. (R429). -/
  | tenantMoveComplete (d asid : Nat)
  /-- TENANT_MOVE_FAILED: An unreachable or rejecting destination sets STATE 4 and the context resumes on the source. (R430). -/
  | tenantMoveFailed (d asid : Nat)
  /-- PACKET_RECEIVE: A receiver accepts the next expected packet or discards it and sends a negative acknowledgement. (R421). -/
  | packetReceive (d plane : Nat) (seq : BitVec 16) (room : Bool) (e2e : Nat)
  /-- ACKNOWLEDGEMENT: A cumulative acknowledgement frees retransmit buffer entries at the sender. (R421). -/
  | acknowledgement (d plane : Nat) (seq : BitVec 16)
  /-- NEGATIVE_ACKNOWLEDGEMENT: The sender resends from the named sequence number in order. (R421). -/
  | negativeAcknowledgement (d plane : Nat) (seq : BitVec 16)
  /-- LINK_RETRAIN: A link without acknowledgement progress for 20 microseconds retrains; three failures declare the plane down. (R422). -/
  | linkRetrain (d plane : Nat)
  /-- PEER_UNREACHABLE: A peer silent for 1 ms, or declared lost, ends commands with NO-DEVICE and poisons its M or O lines. (R424). -/
  | peerUnreachable (d q : Nat)
  /-- MIRROR_UPDATE: An update sequenced by the primary switch is sent to and applied in order by the secondary. (R426). -/
  | mirrorUpdate (n : Nat)
  /-- SWITCH_LOSS: A device learns a switch is lost and stalled accesses proceed under the allocation-loss rules. (R427). -/
  | switchLoss (d sw : Nat)
  /-- DC_ADD_EXTENT: The fabric manager adds a dynamic-capacity extent to a partition through the DC mailbox. (R416). -/
  | dcAddExtent (d p tenant base len : Nat)
  /-- DC_RELEASE_REQUEST: A release request for an extent is held until every line is idle and host-free. (R416). -/
  | dcReleaseRequest (d n : Nat)
  /-- DC_RELEASE_RESPONSE: The withheld release response is sent once the extent's lines are idle. (R416). -/
  | dcReleaseResponse (d n : Nat)
  /-- VIRAL_INDICATION: A CXL viral indication puts the port's host into the viral state and sets VIRAL. (R417). -/
  | viralIndication (d port : Nat)
  /-- CXL_RESET: A completed CXL reset on a port sets RESETSEEN. (R435). -/
  | cxlReset (d port : Nat)
  /-- VIRAL_CLEAR: Writing 1 to HOSTSTAT.VIRAL clears it only while RESETSEEN is set. (R435). -/
  | viralClear (d port : Nat)
  /-- LINECLR_GO: Writing GO starts clearing a PZ line through its in-flight table, or sets ERR. (R434). -/
  | lineclrGo (d p : Nat) (v : BitVec 64)
  /-- LINE_CLEAR_DONE: The line is recalled, zeroed with valid codes and its tag set to 0. (R434). -/
  | lineClearDone (d p : Nat)
  /-- THROTTLE_STEP_UP: Power or junction temperature over its limit raises the throttle step by one. (R437). -/
  | throttleStepUp (d : Nat) (power hot : Bool) (temp : BitVec 8)
  /-- THROTTLE_TO_FLOOR: A junction reaching 110 degrees moves the device straight to step 5. (R437). -/
  | throttleToFloor (d : Nat) (power : Bool) (temp : BitVec 8)
  /-- THROTTLE_STEP_DOWN: 10 ms under the lowered limits lowers the throttle step by one. (R437). -/
  | throttleStepDown (d : Nat) (temp : BitVec 8)
  /-- CLOCK_CHANGE: A new arithmetic clock takes effect when every core stands at an instruction boundary. (R437). -/
  | clockChange (d : Nat)
  /-- PREPARE: LAYCTL.CMD = PREPARE validates the shadow layout, setting PHASE or ERR. (R343). -/
  | prepare (d : Nat)
  /-- COMMIT: LAYCTL.CMD = COMMIT flips SEL and clears APPLIED in one write. (R344). -/
  | commit (d : Nat)
  /-- ABORT: LAYCTL.CMD = ABORT clears PHASE. (R344). -/
  | abort (d : Nat)
  /-- LAYOUT_APPLIED: The device finishes zeroing and reprogramming changed partitions and sets APPLIED. (R344). -/
  | layoutApplied (d : Nat)
  /-- SHADOW_WRITE: Any write to the shadow layout clears PHASE. (R344). -/
  | shadowWrite (d off : Nat) (v : BitVec 64)
  /-- WATCHDOG_RESET: A management-core watchdog reset clears PHASE and reruns application if APPLIED is 0. (R345). -/
  | watchdogReset (d : Nat)
  /-- POWER_ON_RESET: Power-on brings up rails and clocks, zeroes memory and runs the management core's boot. (R438). -/
  | powerOnReset (d : Nat)
  /-- RECOVERY_IMAGE: The recovery mailbox accepts a new image for the next power-on. (R439). -/
  | recoveryImage (d : Nat) (img : List (BitVec 8))
  /-- GET_VERSION: SPDM request answered with the supported versions. (R441). -/
  | getVersion (d : Nat)
  /-- GET_CAPABILITIES: SPDM request answered with the responder's capabilities. (R441). -/
  | getCapabilities (d : Nat)
  /-- NEGOTIATE_ALGORITHMS: SPDM request that selects P-384, SHA-384 and AES-256-GCM. (R441). -/
  | negotiateAlgorithms (d : Nat) (supported : Bool)
  /-- GET_DIGESTS: SPDM request answered with certificate chain digests. (R441). -/
  | getDigests (d : Nat)
  /-- GET_CERTIFICATE: SPDM request answered with the slot 0 certificate chain. (R441). -/
  | getCertificate (d slot : Nat)
  /-- CHALLENGE: SPDM request answered with a signed challenge response. (R441). -/
  | challenge (d nonce : Nat)
  /-- GET_MEASUREMENTS: SPDM request answered with measurement registers as raw digests. (R441). -/
  | getMeasurements (d : Nat) (idx : BitVec 8) (nonce : Nat)
  /-- KEY_EXCHANGE: SPDM request that starts an ECDHE session. (R441). -/
  | keyExchange (d pub : Nat)
  /-- FINISH: SPDM request that completes session establishment. (R441). -/
  | finish (d n : Nat) (proof : Nat)
  /-- KEY_UPDATE: SPDM request that updates session keys. (R441). -/
  | keyUpdate (d n : Nat)
  /-- HEARTBEAT: SPDM request that keeps a session alive. (R441). -/
  | heartbeat (d n : Nat)
  /-- END_SESSION: SPDM request that closes a session. (R441). -/
  | endSession (d n : Nat)
  /-- SENSOR_TRIP: A security sensor trips and acts by its policy: LOG, SESSION or LOCK. (R443). -/
  | sensorTrip (d k : Nat)
  /-- REGISTER_WRITE: A write to a register without behaviour of its own updates its RW, W1C and W1S fields. (R7). -/
  | registerWrite (d p sp off : Nat) (v : BitVec 64)
  /-- BACK_INVALIDATION_COMPLETION: The host's completion of a back-invalidation arrives at the home, which clears HH and goes on with the waiting grant or write. (R215). -/
  | backInvalidationCompletion (line : Nat)
  /-- INVALIDATION_ACKNOWLEDGEMENT: An acknowledgement from an invalidated copy holder arrives at the home, and the last one lets the waiting grant proceed. (R214). -/
  | invalidationAcknowledgement (q line : Nat)
  /-- INVALIDATE_REQUEST: A device holding a copy receives the home's invalidate or recall, drops its copy and, when it holds the data, supplies or writes it back. (R214). -/
  | invalidateRequest (d line : Nat)
  /-- PEER_ADMITTED: The fabric manager admits a returning peer again as a new node. (R424). -/
  | peerAdmitted (d q : Nat)
  /-- SWITCH_RETURN: A lost kitty switch comes back empty and the fabric manager rewrites its quota rows. (R427). -/
  | switchReturn (sw : Nat) (rows : List (Nat × BitVec 64))
  /-- HOST_LINK_TRAINED: A host port's CXL link trains or loses training, changing HOSTSTAT.UP. (R435). -/
  | hostLinkTrained (d port : Nat) (up : Bool)
  /-- ARMADDR_WRITE: A write to a VIF's ARMADDR arms or disarms its submission line, so that the stitcher takes or drops the line shared. (R350). -/
  | armaddrWrite (d vif : Nat) (v : BitVec 64)
  /-- IDE_KM: An IDE_KM message over an SPDM session delivers IDE stream keys to the device. (R441). -/
  | ideKm (d n stream : Nat) (key : BitVec 256)
  deriving DecidableEq, Repr

end Sys2Proof
end

