-- ==== Sys2Proof/Machine/Attr.lean ====
section
/-! DEFINITION. Sys2Proof/Machine/Attr.lean: what each instruction accepts: types, prefix fields, registers, field limits.
These are the decode checks of R75 to R90 and of the family chapters, one function per cause. -/

namespace Sys2Proof

/-- XO of the kind-0 prefix, 0 without one (R84). -/
def Pfx.xo (e : Pfx) : Nat := match e.k0 with | some x => x.xo.toNat | none => 0
/-- RM of the kind-0 prefix, RNE without one (R55). -/
def Pfx.rm (e : Pfx) : Nat := match e.k0 with | some x => x.rm.toNat | none => 0
/-- SN of the kind-0 prefix, 0 without one (R57). -/
def Pfx.sn (e : Pfx) : Bool := match e.k0 with | some x => x.sn = 1#1 | none => false
/-- RC of the kind-0 prefix, the D register without one (R84). -/
def Pfx.rc (e : Pfx) (d : BitVec 7) : BitVec 7 := match e.k0 with | some x => x.rc | none => d
/-- True when a kind-1 prefix is present. -/
def Pfx.long (e : Pfx) : Bool := e.k1.isSome

end Sys2Proof

namespace Sys2Proof.Machine
open Sys2Proof

/-- The code of an illegal-instruction cause (R90, R385). -/
def illegalCode : Illegal → BitVec 8
  | .zeroWord => 0x50#8 | .onesWord => 0x51#8 | .badExt => 0x52#8 | .undefOp => 0x53#8 | .undefFn => 0x54#8
  | .reservedField => 0x55#8 | .badW => 0x56#8 | .badType => 0x57#8 | .badRound => 0x58#8 | .badSpace => 0x59#8
  | .registerRange => 0x5A#8 | .notGridsync => 0x5B#8 | .notHandler => 0x5C#8

/-- What the checks take from the running kernel (R31, R15, R42, R192). -/
structure KCtx where
  nregs : Nat
  width : Nat
  gridsync : Bool
  handler : Bool
  deriving DecidableEq, Repr

/-- How an instruction uses the RC field of a kind-0 prefix (R84): not at all, as a fourth vector register, as VSEL's
or VADDC's predicate (R130, R133), or as the seed register of R157 when RM = 4. -/
inductive RcUse where
  | none | vreg | sel | carry | seed
  deriving DecidableEq, Repr

/-- What an instruction consumes. `np`: any prefix is BAD-EXT. `ty`: default and accepted type codes. `rm`: 0 not
consumed, 1 modes 0 to 3, 2 modes 0 to 4. `xo`: number of listed XO values, 0 not consumed. -/
structure Attr where
  np : Bool := false
  rc : RcUse := .none
  px : Bool := false
  ty : Option (Nat × List Nat) := none
  rm : Nat := 0
  sn : Bool := false
  xo : Nat := 0
  k1 : Bool := false
  deriving DecidableEq, Repr

/-- Width in bits of a type code (R45); 0 for a reserved code. -/
def tyWidth (t : Nat) : Nat :=
  match t with
  | 0x00 => 32 | 0x01 => 64 | 0x02 => 16 | 0x03 => 16 | 0x04 => 8 | 0x05 => 8 | 0x06 => 6 | 0x07 => 6 | 0x08 => 4
  | 0x09 => 8 | 0x0A => 128 | 0x10 => 32 | 0x11 => 32 | 0x12 => 64 | 0x13 => 64 | 0x14 => 16 | 0x15 => 16
  | 0x16 => 8 | 0x17 => 8 | 0x18 => 4 | 0x19 => 8 | 0x1A => 16 | 0x1B => 32 | 0x1C => 64 | 0x1D => 128
  | _ => 0

/-- A signed integer type (R50). -/
def tySigned (t : Nat) : Bool := t == 0x10 || t == 0x12 || t == 0x14 || t == 0x16 || t == 0x18
/-- An integer type, signed or unsigned (R45). -/
def tyInt (t : Nat) : Bool := 0x10 ≤ t && t ≤ 0x18
/-- A floating-point format of R47. -/
def tyFloat (t : Nat) : Bool := t ≤ 0x08
/-- A raw-bit type (R45). -/
def tyRaw (t : Nat) : Bool := 0x19 ≤ t && t ≤ 0x1D
/-- The destinations that permit stochastic rounding (R59). -/
def srAllowed (t : Nat) : Bool := [0x04, 0x05, 0x06, 0x07, 0x08, 0x16, 0x17, 0x18].contains t
/-- 32-bit registers that one operand of the type occupies (R46, R121). -/
def tyWords (t : Nat) : Nat := if tyWidth t ≤ 32 then 1 else tyWidth t / 32
/-- Elements per operand (R156). -/
def epr (t : Nat) : Nat :=
  match tyWidth t with
  | 64 => 1 | 32 => 1 | 16 => 2 | 8 => 4 | 6 => 4 | 4 => 8 | _ => 1

def tysArith : List Nat := [0x16, 0x17, 0x14, 0x15, 0x10, 0x11, 0x12, 0x13]
def tysMul : List Nat := [0x14, 0x15, 0x10, 0x11, 0x12, 0x13]
def tysWide : List Nat := [0x10, 0x11, 0x12, 0x13]
def tysBits : List Nat := [0x1B, 0x1C]
def tysF : List Nat := [0x00, 0x01, 0x02, 0x03]
def tysMx : List Nat := [0x04, 0x05, 0x06, 0x07, 0x08]
/-- The types an FCVT side may name: float formats and the integers of R155; E8M0 as a source only. -/
def tysCvt : List Nat := [0, 1, 2, 3, 4, 5, 6, 7, 8, 0x18, 0x16, 0x17, 0x14, 0x15, 0x10, 0x11, 0x12, 0x13]

/-- Types of the atomic functions (R233). -/
def atomTypes (f : Nat) : Nat × List Nat :=
  match f with
  | 0 | 1 | 2 => (0x10, tysWide)
  | 3 | 4 | 5 => (0x1B, tysBits)
  | 6 => (0x1B, [0x1B, 0x1C, 0x1D])
  | 7 | 8 | 9 => (0x00, [0x00, 0x01])
  | 10 => (0x0A, [0x0A])
  | _ => (0x10, [])

/-- Types that VREDUCE and VSCAN list for function B (R138). -/
def reduceTypes (b : Nat) : List Nat :=
  if b ≤ 2 then tysWide ++ [0x00, 0x01] else if b ≤ 5 then tysBits else []

/-- The prefixes of a 32-bit instruction; none on a short form or an event. -/
def pfxOf : Instr → Pfx
  | .nop e => e
  | .vadd e _ => e
  | .vsub e _ => e
  | .vmul e _ => e
  | .vmulh e _ => e
  | .vmad e _ => e
  | .vmin e _ => e
  | .vmax e _ => e
  | .vabs e _ => e
  | .vneg e _ => e
  | .vnot e _ => e
  | .vpopc e _ => e
  | .vclz e _ => e
  | .vbrev e _ => e
  | .vand e _ => e
  | .vor e _ => e
  | .vxor e _ => e
  | .vshl e _ => e
  | .vshr e _ => e
  | .vsra e _ => e
  | .vrot e _ => e
  | .vbfe e _ => e
  | .vbfi e _ => e
  | .vsel e _ => e
  | .vcmp e _ => e
  | .vsat e _ => e
  | .vaddc e _ => e
  | .vlea e _ => e
  | .vshf e _ => e
  | .vbcast e _ => e
  | .vreduce e _ => e
  | .vscan e _ => e
  | .vdot4 e _ => e
  | .vmovi e _ _ _ _ => e
  | .fadd e _ => e
  | .fsub e _ => e
  | .fmul e _ => e
  | .ffma e _ => e
  | .fmin e _ => e
  | .fmax e _ => e
  | .fsgn e _ => e
  | .fcmp e _ => e
  | .fclass e _ => e
  | .frcp e _ => e
  | .frsq e _ => e
  | .fsqrt e _ => e
  | .fexp2 e _ => e
  | .flog2 e _ => e
  | .fsin e _ => e
  | .fcos e _ => e
  | .ftanh e _ => e
  | .fcvt e _ _ _ _ _ _ => e
  | .fpack e _ => e
  | .funpack e _ => e
  | .fscale e _ => e
  | .frnd e _ => e
  | .fdot2 e _ => e
  | .fmxs e _ _ _ _ _ => e
  | .fwcvt e _ => e
  | .fwadd e _ => e
  | .sadd e _ => e
  | .ssub e _ => e
  | .smul e _ => e
  | .sand e _ => e
  | .sor e _ => e
  | .sxor e _ => e
  | .sshl e _ => e
  | .sshr e _ => e
  | .ssra e _ => e
  | .smin e _ => e
  | .smax e _ => e
  | .scmp e _ _ => e
  | .saddi e _ _ _ _ => e
  | .smovi e _ _ _ => e
  | .pand e _ _ _ => e
  | .por e _ _ _ => e
  | .pxor e _ _ _ => e
  | .pandn e _ _ _ => e
  | .pnot e _ _ => e
  | .pset e _ _ => e
  | .pget e _ _ => e
  | .mov e _ => e
  | .movix e _ => e
  | .stix e _ => e
  | .ixset e _ _ _ _ => e
  | .park e _ _ _ _ => e
  | .unpark e _ _ _ _ => e
  | .winrd e _ _ _ _ => e
  | .br e _ _ => e
  | .brp e _ _ _ => e
  | .jmp e _ => e
  | .call e _ => e
  | .ret e _ => e
  | .split e _ _ _ => e
  | .join e _ => e
  | .meetset e _ => e
  | .elect e _ _ _ => e
  | .exit e => e
  | .tcfg e _ => e
  | .tclaim e _ _ => e
  | .tclaimAny e _ _ => e
  | .trel e _ => e
  | .tstatr e _ _ => e
  | .ldG e _ => e
  | .ldSp e _ => e
  | .ldCl e _ => e
  | .ldCh e _ => e
  | .ldLn e _ => e
  | .stG e _ => e
  | .stSp e _ => e
  | .stCl e _ => e
  | .stCh e _ => e
  | .stLn e _ => e
  | .gather e _ => e
  | .scatter e _ => e
  | .atom e _ => e
  | .atomr e _ => e
  | .cas e _ _ _ _ => e
  | .lda e _ => e
  | .strel e _ => e
  | .fence e _ _ => e
  | .acqPromote e _ => e
  | .pref e _ _ _ _ _ => e
  | .cflush e _ _ _ _ _ => e
  | .tfill e _ _ _ _ _ => e
  | .trow e _ => e
  | .qpush e _ => e
  | .qpop e _ => e
  | .qtry e _ => e
  | .qstat e _ _ => e
  | .wait e _ _ _ _ => e
  | .barinit e _ _ _ => e
  | .bararr e _ => e
  | .bararrN e _ _ => e
  | .barexp e _ _ => e
  | .barwait e _ _ => e
  | .bartest e _ _ _ => e
  | .gbar e => e
  | .trap e _ => e
  | .tfence e => e
  | .rett e => e
  | .sprr e _ _ => e
  | .sprw e _ _ => e
  | .yield e => e
  | .sleep e _ => e
  | .getid e _ _ _ => e
  | .replace e _ _ => e
  | .vmov _ _ => ⟨none, none⟩
  | .nop16 _ => ⟨none, none⟩
  | .vmoviShort _ _ => ⟨none, none⟩
  | .vaddShort _ _ => ⟨none, none⟩
  | .vsubShort _ _ => ⟨none, none⟩
  | .vmulShort _ _ => ⟨none, none⟩
  | .vaddi _ _ => ⟨none, none⟩
  | .vandShort _ _ => ⟨none, none⟩
  | .vorShort _ _ => ⟨none, none⟩
  | .vxorShort _ _ => ⟨none, none⟩
  | .vshlI _ _ => ⟨none, none⟩
  | .vshrI _ _ => ⟨none, none⟩
  | .faddShort _ _ => ⟨none, none⟩
  | .fsubShort _ _ => ⟨none, none⟩
  | .fmulShort _ _ => ⟨none, none⟩
  | .fmaxShort _ _ => ⟨none, none⟩
  | .fminShort _ _ => ⟨none, none⟩
  | .illegalInstruction _ => ⟨none, none⟩
  | .instructionFetchFault _ _ _ _ => ⟨none, none⟩
  | .trapEntry _ => ⟨none, none⟩
  | .teamPlacement _ _ => ⟨none, none⟩
  | .groupRetirement _ => ⟨none, none⟩
  | .loadDataReturn _ _ => ⟨none, none⟩
  | .storePerformed _ _ => ⟨none, none⟩
  | .waitCompletion _ _ => ⟨none, none⟩
  | .sleepTimeout _ _ => ⟨none, none⟩
  | .queueRoomFreed _ _ => ⟨none, none⟩
  | .queueEntriesArrive _ _ => ⟨none, none⟩
  | .byteCredit _ => ⟨none, none⟩
  | .editionSweepEnd _ _ => ⟨none, none⟩
  | .mscMissFetch _ _ _ _ => ⟨none, none⟩
  | .rdsh _ _ => ⟨none, none⟩
  | .rdown _ _ => ⟨none, none⟩
  | .upgrade _ _ => ⟨none, none⟩
  | .wback _ _ => ⟨none, none⟩
  | .evict _ _ => ⟨none, none⟩
  | .hostOwnershipRequest _ => ⟨none, none⟩
  | .cxlMemAccess _ _ _ _ _ _ => ⟨none, none⟩
  | .translationWalk _ _ _ _ _ => ⟨none, none⟩
  | .freplyReplay _ _ _ => ⟨none, none⟩
  | .freplyDeliver _ _ _ => ⟨none, none⟩
  | .freplyTerminate _ _ _ => ⟨none, none⟩
  | .freplyDiscard _ _ _ => ⟨none, none⟩
  | .xinvGo _ _ _ => ⟨none, none⟩
  | .xinvComplete _ _ => ⟨none, none⟩
  | .xwinv _ _ _ => ⟨none, none⟩
  | .xwinvComplete _ _ => ⟨none, none⟩
  | .migrationStart _ _ _ _ => ⟨none, none⟩
  | .migrationLineMove _ _ _ => ⟨none, none⟩
  | .migrationEnd _ _ _ _ => ⟨none, none⟩
  | .atsInvalidationRequest _ _ _ _ => ⟨none, none⟩
  | .atsInvalidationCompletion _ _ => ⟨none, none⟩
  | .atsTranslationCompletion _ _ _ _ _ => ⟨none, none⟩
  | .pageRequestResponse _ _ _ => ⟨none, none⟩
  | .pageRequestTimeout _ _ => ⟨none, none⟩
  | .matrixBlockRead _ => ⟨none, none⟩
  | .matrixOperationStart _ => ⟨none, none⟩
  | .matrixProducts _ => ⟨none, none⟩
  | .drain _ => ⟨none, none⟩
  | .matrixCompletion _ _ => ⟨none, none⟩
  | .commandBlockRead _ _ => ⟨none, none⟩
  | .copy _ _ => ⟨none, none⟩
  | .read _ => ⟨none, none⟩
  | .write _ => ⟨none, none⟩
  | .commandAtom _ => ⟨none, none⟩
  | .commandCas _ => ⟨none, none⟩
  | .reduce _ _ => ⟨none, none⟩
  | .kalloc _ => ⟨none, none⟩
  | .kfree _ => ⟨none, none⟩
  | .signal _ => ⟨none, none⟩
  | .commandCompletion _ => ⟨none, none⟩
  | .spanTagCheck _ _ _ => ⟨none, none⟩
  | .spanTimeout _ _ => ⟨none, none⟩
  | .inboundRequest _ _ _ _ _ _ _ _ _ _ => ⟨none, none⟩
  | .taskPacketSend _ => ⟨none, none⟩
  | .taskPacketArrival _ => ⟨none, none⟩
  | .taskRecord _ => ⟨none, none⟩
  | .graphRootPush _ => ⟨none, none⟩
  | .nodeReady _ _ => ⟨none, none⟩
  | .nodeCompletion _ _ => ⟨none, none⟩
  | .armedLineReread _ _ => ⟨none, none⟩
  | .bankSwap _ => ⟨none, none⟩
  | .sliceExpiry _ _ => ⟨none, none⟩
  | .spillStart _ _ => ⟨none, none⟩
  | .spillComplete _ _ => ⟨none, none⟩
  | .imageCopyOut _ => ⟨none, none⟩
  | .imageCopyIn _ _ => ⟨none, none⟩
  | .fill _ _ => ⟨none, none⟩
  | .contextEnd _ _ => ⟨none, none⟩
  | .kill _ _ => ⟨none, none⟩
  | .audit _ => ⟨none, none⟩
  | .migctlGo _ _ _ => ⟨none, none⟩
  | .tenantMoveComplete _ _ => ⟨none, none⟩
  | .tenantMoveFailed _ _ => ⟨none, none⟩
  | .packetReceive _ _ _ _ _ => ⟨none, none⟩
  | .acknowledgement _ _ _ => ⟨none, none⟩
  | .negativeAcknowledgement _ _ _ => ⟨none, none⟩
  | .linkRetrain _ _ => ⟨none, none⟩
  | .peerUnreachable _ _ => ⟨none, none⟩
  | .mirrorUpdate _ => ⟨none, none⟩
  | .switchLoss _ _ => ⟨none, none⟩
  | .dcAddExtent _ _ _ _ _ => ⟨none, none⟩
  | .dcReleaseRequest _ _ => ⟨none, none⟩
  | .dcReleaseResponse _ _ => ⟨none, none⟩
  | .viralIndication _ _ => ⟨none, none⟩
  | .cxlReset _ _ => ⟨none, none⟩
  | .viralClear _ _ => ⟨none, none⟩
  | .lineclrGo _ _ _ => ⟨none, none⟩
  | .lineClearDone _ _ => ⟨none, none⟩
  | .throttleStepUp _ _ _ _ => ⟨none, none⟩
  | .throttleToFloor _ _ _ => ⟨none, none⟩
  | .throttleStepDown _ _ => ⟨none, none⟩
  | .clockChange _ => ⟨none, none⟩
  | .prepare _ => ⟨none, none⟩
  | .commit _ => ⟨none, none⟩
  | .abort _ => ⟨none, none⟩
  | .layoutApplied _ => ⟨none, none⟩
  | .shadowWrite _ _ _ => ⟨none, none⟩
  | .watchdogReset _ => ⟨none, none⟩
  | .powerOnReset _ => ⟨none, none⟩
  | .recoveryImage _ _ => ⟨none, none⟩
  | .getVersion _ => ⟨none, none⟩
  | .getCapabilities _ => ⟨none, none⟩
  | .negotiateAlgorithms _ _ => ⟨none, none⟩
  | .getDigests _ => ⟨none, none⟩
  | .getCertificate _ _ => ⟨none, none⟩
  | .challenge _ _ => ⟨none, none⟩
  | .getMeasurements _ _ _ => ⟨none, none⟩
  | .keyExchange _ _ => ⟨none, none⟩
  | .finish _ _ _ => ⟨none, none⟩
  | .keyUpdate _ _ => ⟨none, none⟩
  | .heartbeat _ _ => ⟨none, none⟩
  | .endSession _ _ => ⟨none, none⟩
  | .sensorTrip _ _ => ⟨none, none⟩
  | .registerWrite _ _ _ _ _ => ⟨none, none⟩
  | .backInvalidationCompletion _ => ⟨none, none⟩
  | .invalidationAcknowledgement _ _ => ⟨none, none⟩
  | .invalidateRequest _ _ => ⟨none, none⟩
  | .peerAdmitted _ _ => ⟨none, none⟩
  | .switchReturn _ _ => ⟨none, none⟩
  | .hostLinkTrained _ _ _ => ⟨none, none⟩
  | .armaddrWrite _ _ _ => ⟨none, none⟩
  | .ideKm _ _ _ _ => ⟨none, none⟩

/-- Mask of the bits that the encoding of a 32-bit instruction fixes (the opcode table). -/
def fixedMask : Instr → BitVec 32
  | .nop _ => 0xffffffff#32
  | .vadd _ _ => 0x000000ff#32
  | .vsub _ _ => 0x000000ff#32
  | .vmul _ _ => 0x000000ff#32
  | .vmulh _ _ => 0x000000ff#32
  | .vmad _ _ => 0x000000ff#32
  | .vmin _ _ => 0x000000ff#32
  | .vmax _ _ => 0x000000ff#32
  | .vabs _ _ => 0xfe0000ff#32
  | .vneg _ _ => 0xfe0000ff#32
  | .vnot _ _ => 0xfe0000ff#32
  | .vpopc _ _ => 0xfe0000ff#32
  | .vclz _ _ => 0xfe0000ff#32
  | .vbrev _ _ => 0xfe0000ff#32
  | .vand _ _ => 0x000000ff#32
  | .vor _ _ => 0x000000ff#32
  | .vxor _ _ => 0x000000ff#32
  | .vshl _ _ => 0x000000ff#32
  | .vshr _ _ => 0x000000ff#32
  | .vsra _ _ => 0x000000ff#32
  | .vrot _ _ => 0x000000ff#32
  | .vbfe _ _ => 0x000000ff#32
  | .vbfi _ _ => 0x000000ff#32
  | .vsel _ _ => 0x000000ff#32
  | .vcmp _ _ => 0x000004ff#32
  | .vsat _ _ => 0x000000ff#32
  | .vaddc _ _ => 0x000000ff#32
  | .vlea _ _ => 0x000000ff#32
  | .vshf _ _ => 0x000000ff#32
  | .vbcast _ _ => 0x000000ff#32
  | .vreduce _ _ => 0x000000ff#32
  | .vscan _ _ => 0x000000ff#32
  | .vdot4 _ _ => 0x000000ff#32
  | .vmovi _ _ _ _ _ => 0x000000ff#32
  | .fadd _ _ => 0x000000ff#32
  | .fsub _ _ => 0x000000ff#32
  | .fmul _ _ => 0x000000ff#32
  | .ffma _ _ => 0x000000ff#32
  | .fmin _ _ => 0x000000ff#32
  | .fmax _ _ => 0x000000ff#32
  | .fsgn _ _ => 0x000000ff#32
  | .fcmp _ _ => 0x000004ff#32
  | .fclass _ _ => 0xfe0000ff#32
  | .frcp _ _ => 0xfe0000ff#32
  | .frsq _ _ => 0xfe0000ff#32
  | .fsqrt _ _ => 0xfe0000ff#32
  | .fexp2 _ _ => 0xfe0000ff#32
  | .flog2 _ _ => 0xfe0000ff#32
  | .fsin _ _ => 0xfe0000ff#32
  | .fcos _ _ => 0xfe0000ff#32
  | .ftanh _ _ => 0xfe0000ff#32
  | .fcvt _ _ _ _ _ _ _ => 0x800000ff#32
  | .fpack _ _ => 0x000000ff#32
  | .funpack _ _ => 0x000004ff#32
  | .fscale _ _ => 0x000000ff#32
  | .frnd _ _ => 0xfe0000ff#32
  | .fdot2 _ _ => 0x000000ff#32
  | .fmxs _ _ _ _ _ _ => 0xc00000ff#32
  | .fwcvt _ _ => 0x000000ff#32
  | .fwadd _ _ => 0x000000ff#32
  | .sadd _ _ => 0xe00003ff#32
  | .ssub _ _ => 0xe00003ff#32
  | .smul _ _ => 0xe00003ff#32
  | .sand _ _ => 0xe00003ff#32
  | .sor _ _ => 0xe00003ff#32
  | .sxor _ _ => 0xe00003ff#32
  | .sshl _ _ => 0xe00003ff#32
  | .sshr _ _ => 0xe00003ff#32
  | .ssra _ _ => 0xe00003ff#32
  | .smin _ _ => 0xe00003ff#32
  | .smax _ _ => 0xe00003ff#32
  | .scmp _ _ _ => 0xe001ffff#32
  | .saddi _ _ _ _ _ => 0x000003ff#32
  | .smovi _ _ _ _ => 0x000003ff#32
  | .pand _ _ _ _ => 0xe00007ff#32
  | .por _ _ _ _ => 0xe00007ff#32
  | .pxor _ _ _ _ => 0xe00007ff#32
  | .pandn _ _ _ _ => 0xe00007ff#32
  | .pnot _ _ _ => 0xff8007ff#32
  | .pset _ _ _ => 0xff8007ff#32
  | .pget _ _ _ => 0xff8007ff#32
  | .mov _ _ => 0x000000ff#32
  | .movix _ _ => 0x000004ff#32
  | .stix _ _ => 0x000004ff#32
  | .ixset _ _ _ _ _ => 0x01ff84ff#32
  | .park _ _ _ _ _ => 0xe00004ff#32
  | .unpark _ _ _ _ _ => 0xe00004ff#32
  | .winrd _ _ _ _ _ => 0x01e004ff#32
  | .br _ _ _ => 0x000007ff#32
  | .brp _ _ _ _ => 0x000007ff#32
  | .jmp _ _ => 0x000007ff#32
  | .call _ _ => 0x000007ff#32
  | .ret _ _ => 0xfe03ffff#32
  | .split _ _ _ _ => 0x000007ff#32
  | .join _ _ => 0xfe03ffff#32
  | .meetset _ _ => 0x000007ff#32
  | .elect _ _ _ _ => 0x000007ff#32
  | .exit _ => 0xffffffff#32
  | .tcfg _ _ => 0xfe03ffff#32
  | .tclaim _ _ _ => 0xfe0007ff#32
  | .tclaimAny _ _ _ => 0x01fc07ff#32
  | .trel _ _ => 0xfe03ffff#32
  | .tstatr _ _ _ => 0x01fc07ff#32
  | .ldG _ _ => 0x000004ff#32
  | .ldSp _ _ => 0x000004ff#32
  | .ldCl _ _ => 0x000004ff#32
  | .ldCh _ _ => 0x000004ff#32
  | .ldLn _ _ => 0x000004ff#32
  | .stG _ _ => 0x000004ff#32
  | .stSp _ _ => 0x000004ff#32
  | .stCl _ _ => 0x000004ff#32
  | .stCh _ _ => 0x000004ff#32
  | .stLn _ _ => 0x000004ff#32
  | .gather _ _ => 0x800004ff#32
  | .scatter _ _ => 0x800004ff#32
  | .atom _ _ => 0x800004ff#32
  | .atomr _ _ => 0x800004ff#32
  | .cas _ _ _ _ _ => 0x8f0004ff#32
  | .lda _ _ => 0x800004ff#32
  | .strel _ _ => 0x800004ff#32
  | .fence _ _ _ => 0x0003ffff#32
  | .acqPromote _ _ => 0xfe03ffff#32
  | .pref _ _ _ _ _ _ => 0x0003f4ff#32
  | .cflush _ _ _ _ _ _ => 0x0003e4ff#32
  | .tfill _ _ _ _ _ _ => 0x000204ff#32
  | .trow _ _ => 0x000004ff#32
  | .qpush _ _ => 0x000004ff#32
  | .qpop _ _ => 0x000004ff#32
  | .qtry _ _ => 0x000004ff#32
  | .qstat _ _ _ => 0x01fc07ff#32
  | .wait _ _ _ _ _ => 0x800007ff#32
  | .barinit _ _ _ _ => 0x000007ff#32
  | .bararr _ _ => 0xfffc07ff#32
  | .bararrN _ _ _ => 0xfe0007ff#32
  | .barexp _ _ _ => 0xfe0007ff#32
  | .barwait _ _ _ => 0xfe0007ff#32
  | .bartest _ _ _ _ => 0x000007ff#32
  | .gbar _ => 0xffffffff#32
  | .trap _ _ => 0x807fffff#32
  | .tfence _ => 0xffffffff#32
  | .rett _ => 0xffffffff#32
  | .sprr _ _ _ => 0x007e07ff#32
  | .sprw _ _ _ => 0x0001ffff#32
  | .yield _ => 0xffffffff#32
  | .sleep _ _ => 0xfe03ffff#32
  | .getid _ _ _ _ => 0x000007ff#32
  | .replace _ _ _ => 0x0003ffff#32
  | .vmov _ _ => 0#32
  | .nop16 _ => 0#32
  | .vmoviShort _ _ => 0#32
  | .vaddShort _ _ => 0#32
  | .vsubShort _ _ => 0#32
  | .vmulShort _ _ => 0#32
  | .vaddi _ _ => 0#32
  | .vandShort _ _ => 0#32
  | .vorShort _ _ => 0#32
  | .vxorShort _ _ => 0#32
  | .vshlI _ _ => 0#32
  | .vshrI _ _ => 0#32
  | .faddShort _ _ => 0#32
  | .fsubShort _ _ => 0#32
  | .fmulShort _ _ => 0#32
  | .fmaxShort _ _ => 0#32
  | .fminShort _ _ => 0#32
  | .illegalInstruction _ => 0#32
  | .instructionFetchFault _ _ _ _ => 0#32
  | .trapEntry _ => 0#32
  | .teamPlacement _ _ => 0#32
  | .groupRetirement _ => 0#32
  | .loadDataReturn _ _ => 0#32
  | .storePerformed _ _ => 0#32
  | .waitCompletion _ _ => 0#32
  | .sleepTimeout _ _ => 0#32
  | .queueRoomFreed _ _ => 0#32
  | .queueEntriesArrive _ _ => 0#32
  | .byteCredit _ => 0#32
  | .editionSweepEnd _ _ => 0#32
  | .mscMissFetch _ _ _ _ => 0#32
  | .rdsh _ _ => 0#32
  | .rdown _ _ => 0#32
  | .upgrade _ _ => 0#32
  | .wback _ _ => 0#32
  | .evict _ _ => 0#32
  | .hostOwnershipRequest _ => 0#32
  | .cxlMemAccess _ _ _ _ _ _ => 0#32
  | .translationWalk _ _ _ _ _ => 0#32
  | .freplyReplay _ _ _ => 0#32
  | .freplyDeliver _ _ _ => 0#32
  | .freplyTerminate _ _ _ => 0#32
  | .freplyDiscard _ _ _ => 0#32
  | .xinvGo _ _ _ => 0#32
  | .xinvComplete _ _ => 0#32
  | .xwinv _ _ _ => 0#32
  | .xwinvComplete _ _ => 0#32
  | .migrationStart _ _ _ _ => 0#32
  | .migrationLineMove _ _ _ => 0#32
  | .migrationEnd _ _ _ _ => 0#32
  | .atsInvalidationRequest _ _ _ _ => 0#32
  | .atsInvalidationCompletion _ _ => 0#32
  | .atsTranslationCompletion _ _ _ _ _ => 0#32
  | .pageRequestResponse _ _ _ => 0#32
  | .pageRequestTimeout _ _ => 0#32
  | .matrixBlockRead _ => 0#32
  | .matrixOperationStart _ => 0#32
  | .matrixProducts _ => 0#32
  | .drain _ => 0#32
  | .matrixCompletion _ _ => 0#32
  | .commandBlockRead _ _ => 0#32
  | .copy _ _ => 0#32
  | .read _ => 0#32
  | .write _ => 0#32
  | .commandAtom _ => 0#32
  | .commandCas _ => 0#32
  | .reduce _ _ => 0#32
  | .kalloc _ => 0#32
  | .kfree _ => 0#32
  | .signal _ => 0#32
  | .commandCompletion _ => 0#32
  | .spanTagCheck _ _ _ => 0#32
  | .spanTimeout _ _ => 0#32
  | .inboundRequest _ _ _ _ _ _ _ _ _ _ => 0#32
  | .taskPacketSend _ => 0#32
  | .taskPacketArrival _ => 0#32
  | .taskRecord _ => 0#32
  | .graphRootPush _ => 0#32
  | .nodeReady _ _ => 0#32
  | .nodeCompletion _ _ => 0#32
  | .armedLineReread _ _ => 0#32
  | .bankSwap _ => 0#32
  | .sliceExpiry _ _ => 0#32
  | .spillStart _ _ => 0#32
  | .spillComplete _ _ => 0#32
  | .imageCopyOut _ => 0#32
  | .imageCopyIn _ _ => 0#32
  | .fill _ _ => 0#32
  | .contextEnd _ _ => 0#32
  | .kill _ _ => 0#32
  | .audit _ => 0#32
  | .migctlGo _ _ _ => 0#32
  | .tenantMoveComplete _ _ => 0#32
  | .tenantMoveFailed _ _ => 0#32
  | .packetReceive _ _ _ _ _ => 0#32
  | .acknowledgement _ _ _ => 0#32
  | .negativeAcknowledgement _ _ _ => 0#32
  | .linkRetrain _ _ => 0#32
  | .peerUnreachable _ _ => 0#32
  | .mirrorUpdate _ => 0#32
  | .switchLoss _ _ => 0#32
  | .dcAddExtent _ _ _ _ _ => 0#32
  | .dcReleaseRequest _ _ => 0#32
  | .dcReleaseResponse _ _ => 0#32
  | .viralIndication _ _ => 0#32
  | .cxlReset _ _ => 0#32
  | .viralClear _ _ => 0#32
  | .lineclrGo _ _ _ => 0#32
  | .lineClearDone _ _ => 0#32
  | .throttleStepUp _ _ _ _ => 0#32
  | .throttleToFloor _ _ _ => 0#32
  | .throttleStepDown _ _ => 0#32
  | .clockChange _ => 0#32
  | .prepare _ => 0#32
  | .commit _ => 0#32
  | .abort _ => 0#32
  | .layoutApplied _ => 0#32
  | .shadowWrite _ _ _ => 0#32
  | .watchdogReset _ => 0#32
  | .powerOnReset _ => 0#32
  | .recoveryImage _ _ => 0#32
  | .getVersion _ => 0#32
  | .getCapabilities _ => 0#32
  | .negotiateAlgorithms _ _ => 0#32
  | .getDigests _ => 0#32
  | .getCertificate _ _ => 0#32
  | .challenge _ _ => 0#32
  | .getMeasurements _ _ _ => 0#32
  | .keyExchange _ _ => 0#32
  | .finish _ _ _ => 0#32
  | .keyUpdate _ _ => 0#32
  | .heartbeat _ _ => 0#32
  | .endSession _ _ => 0#32
  | .sensorTrip _ _ => 0#32
  | .registerWrite _ _ _ _ _ => 0#32
  | .backInvalidationCompletion _ => 0#32
  | .invalidationAcknowledgement _ _ => 0#32
  | .invalidateRequest _ _ => 0#32
  | .peerAdmitted _ _ => 0#32
  | .switchReturn _ _ => 0#32
  | .hostLinkTrained _ _ _ => 0#32
  | .armaddrWrite _ _ _ => 0#32
  | .ideKm _ _ _ _ => 0#32

/-- The value of the fixed bits (the opcode table). -/
def fixedBits : Instr → BitVec 32
  | .nop _ => 0x00000001#32
  | .vadd _ _ => 0x00000003#32
  | .vsub _ _ => 0x00000005#32
  | .vmul _ _ => 0x00000007#32
  | .vmulh _ _ => 0x00000009#32
  | .vmad _ _ => 0x0000000b#32
  | .vmin _ _ => 0x0000000d#32
  | .vmax _ _ => 0x0000000f#32
  | .vabs _ _ => 0x00000011#32
  | .vneg _ _ => 0x02000011#32
  | .vnot _ _ => 0x04000011#32
  | .vpopc _ _ => 0x06000011#32
  | .vclz _ _ => 0x08000011#32
  | .vbrev _ _ => 0x0a000011#32
  | .vand _ _ => 0x00000013#32
  | .vor _ _ => 0x00000015#32
  | .vxor _ _ => 0x00000017#32
  | .vshl _ _ => 0x00000019#32
  | .vshr _ _ => 0x0000001b#32
  | .vsra _ _ => 0x0000001d#32
  | .vrot _ _ => 0x0000001f#32
  | .vbfe _ _ => 0x00000021#32
  | .vbfi _ _ => 0x00000023#32
  | .vsel _ _ => 0x00000025#32
  | .vcmp _ _ => 0x00000027#32
  | .vsat _ _ => 0x00000029#32
  | .vaddc _ _ => 0x0000002b#32
  | .vlea _ _ => 0x0000002d#32
  | .vshf _ _ => 0x0000002f#32
  | .vbcast _ _ => 0x00000031#32
  | .vreduce _ _ => 0x00000033#32
  | .vscan _ _ => 0x00000035#32
  | .vdot4 _ _ => 0x00000037#32
  | .vmovi _ _ _ _ _ => 0x00000039#32
  | .fadd _ _ => 0x00000041#32
  | .fsub _ _ => 0x00000043#32
  | .fmul _ _ => 0x00000045#32
  | .ffma _ _ => 0x00000047#32
  | .fmin _ _ => 0x00000049#32
  | .fmax _ _ => 0x0000004b#32
  | .fsgn _ _ => 0x0000004d#32
  | .fcmp _ _ => 0x0000004f#32
  | .fclass _ _ => 0x00000051#32
  | .frcp _ _ => 0x02000051#32
  | .frsq _ _ => 0x04000051#32
  | .fsqrt _ _ => 0x06000051#32
  | .fexp2 _ _ => 0x08000051#32
  | .flog2 _ _ => 0x0a000051#32
  | .fsin _ _ => 0x0c000051#32
  | .fcos _ _ => 0x0e000051#32
  | .ftanh _ _ => 0x10000051#32
  | .fcvt _ _ _ _ _ _ _ => 0x00000053#32
  | .fpack _ _ => 0x00000055#32
  | .funpack _ _ => 0x00000057#32
  | .fscale _ _ => 0x00000059#32
  | .frnd _ _ => 0x0000005b#32
  | .fdot2 _ _ => 0x0000005d#32
  | .fmxs _ _ _ _ _ _ => 0x0000005f#32
  | .fwcvt _ _ => 0x00000061#32
  | .fwadd _ _ => 0x00000063#32
  | .sadd _ _ => 0x00000069#32
  | .ssub _ _ => 0x20000069#32
  | .smul _ _ => 0x40000069#32
  | .sand _ _ => 0x60000069#32
  | .sor _ _ => 0x80000069#32
  | .sxor _ _ => 0xa0000069#32
  | .sshl _ _ => 0xc0000069#32
  | .sshr _ _ => 0xe0000069#32
  | .ssra _ _ => 0x0000006b#32
  | .smin _ _ => 0x2000006b#32
  | .smax _ _ => 0x4000006b#32
  | .scmp _ _ _ => 0x6000006b#32
  | .saddi _ _ _ _ _ => 0x0000006d#32
  | .smovi _ _ _ _ => 0x0000006f#32
  | .pand _ _ _ _ => 0x00000071#32
  | .por _ _ _ _ => 0x20000071#32
  | .pxor _ _ _ _ => 0x40000071#32
  | .pandn _ _ _ _ => 0x60000071#32
  | .pnot _ _ _ => 0x80000071#32
  | .pset _ _ _ => 0xa0000071#32
  | .pget _ _ _ => 0xc0000071#32
  | .mov _ _ => 0x00000073#32
  | .movix _ _ => 0x00000075#32
  | .stix _ _ => 0x00000077#32
  | .ixset _ _ _ _ _ => 0x00000079#32
  | .park _ _ _ _ _ => 0x0000007b#32
  | .unpark _ _ _ _ _ => 0x0000007d#32
  | .winrd _ _ _ _ _ => 0x0000007f#32
  | .br _ _ _ => 0x00000081#32
  | .brp _ _ _ _ => 0x00000083#32
  | .jmp _ _ => 0x00000085#32
  | .call _ _ => 0x00000087#32
  | .ret _ _ => 0x00000089#32
  | .split _ _ _ _ => 0x0000008b#32
  | .join _ _ => 0x0000008d#32
  | .meetset _ _ => 0x0000008f#32
  | .elect _ _ _ _ => 0x00000091#32
  | .exit _ => 0x00000093#32
  | .tcfg _ _ => 0x00000099#32
  | .tclaim _ _ _ => 0x0000009b#32
  | .tclaimAny _ _ _ => 0x0000009b#32
  | .trel _ _ => 0x0000009d#32
  | .tstatr _ _ _ => 0x0000009f#32
  | .ldG _ _ => 0x000000a1#32
  | .ldSp _ _ => 0x000000a3#32
  | .ldCl _ _ => 0x000000a5#32
  | .ldCh _ _ => 0x000000a7#32
  | .ldLn _ _ => 0x000000a9#32
  | .stG _ _ => 0x000000ab#32
  | .stSp _ _ => 0x000000ad#32
  | .stCl _ _ => 0x000000af#32
  | .stCh _ _ => 0x000000b1#32
  | .stLn _ _ => 0x000000b3#32
  | .gather _ _ => 0x000000b5#32
  | .scatter _ _ => 0x000000b7#32
  | .atom _ _ => 0x000000b9#32
  | .atomr _ _ => 0x000000bb#32
  | .cas _ _ _ _ _ => 0x000000bd#32
  | .lda _ _ => 0x800000bf#32
  | .strel _ _ => 0x800000c1#32
  | .fence _ _ _ => 0x000000c3#32
  | .acqPromote _ _ => 0x000000c5#32
  | .pref _ _ _ _ _ _ => 0x000000c7#32
  | .cflush _ _ _ _ _ _ => 0x000000c9#32
  | .tfill _ _ _ _ _ _ => 0x000000cb#32
  | .trow _ _ => 0x000000cd#32
  | .qpush _ _ => 0x000000cf#32
  | .qpop _ _ => 0x000000d1#32
  | .qtry _ _ => 0x000000d3#32
  | .qstat _ _ _ => 0x000000d5#32
  | .wait _ _ _ _ _ => 0x000000d7#32
  | .barinit _ _ _ _ => 0x000000d9#32
  | .bararr _ _ => 0x000000db#32
  | .bararrN _ _ _ => 0x020000db#32
  | .barexp _ _ _ => 0x000000dd#32
  | .barwait _ _ _ => 0x000000df#32
  | .bartest _ _ _ _ => 0x000000e1#32
  | .gbar _ => 0x000000e3#32
  | .trap _ _ => 0x000000e5#32
  | .tfence _ => 0x000000e7#32
  | .rett _ => 0x000000e9#32
  | .sprr _ _ _ => 0x000000eb#32
  | .sprw _ _ _ => 0x000000ed#32
  | .yield _ => 0x000000ef#32
  | .sleep _ _ => 0x000000f1#32
  | .getid _ _ _ _ => 0x000000f3#32
  | .replace _ _ _ => 0x000000f5#32
  | .vmov _ _ => 0#32
  | .nop16 _ => 0#32
  | .vmoviShort _ _ => 0#32
  | .vaddShort _ _ => 0#32
  | .vsubShort _ _ => 0#32
  | .vmulShort _ _ => 0#32
  | .vaddi _ _ => 0#32
  | .vandShort _ _ => 0#32
  | .vorShort _ _ => 0#32
  | .vxorShort _ _ => 0#32
  | .vshlI _ _ => 0#32
  | .vshrI _ _ => 0#32
  | .faddShort _ _ => 0#32
  | .fsubShort _ _ => 0#32
  | .fmulShort _ _ => 0#32
  | .fmaxShort _ _ => 0#32
  | .fminShort _ _ => 0#32
  | .illegalInstruction _ => 0#32
  | .instructionFetchFault _ _ _ _ => 0#32
  | .trapEntry _ => 0#32
  | .teamPlacement _ _ => 0#32
  | .groupRetirement _ => 0#32
  | .loadDataReturn _ _ => 0#32
  | .storePerformed _ _ => 0#32
  | .waitCompletion _ _ => 0#32
  | .sleepTimeout _ _ => 0#32
  | .queueRoomFreed _ _ => 0#32
  | .queueEntriesArrive _ _ => 0#32
  | .byteCredit _ => 0#32
  | .editionSweepEnd _ _ => 0#32
  | .mscMissFetch _ _ _ _ => 0#32
  | .rdsh _ _ => 0#32
  | .rdown _ _ => 0#32
  | .upgrade _ _ => 0#32
  | .wback _ _ => 0#32
  | .evict _ _ => 0#32
  | .hostOwnershipRequest _ => 0#32
  | .cxlMemAccess _ _ _ _ _ _ => 0#32
  | .translationWalk _ _ _ _ _ => 0#32
  | .freplyReplay _ _ _ => 0#32
  | .freplyDeliver _ _ _ => 0#32
  | .freplyTerminate _ _ _ => 0#32
  | .freplyDiscard _ _ _ => 0#32
  | .xinvGo _ _ _ => 0#32
  | .xinvComplete _ _ => 0#32
  | .xwinv _ _ _ => 0#32
  | .xwinvComplete _ _ => 0#32
  | .migrationStart _ _ _ _ => 0#32
  | .migrationLineMove _ _ _ => 0#32
  | .migrationEnd _ _ _ _ => 0#32
  | .atsInvalidationRequest _ _ _ _ => 0#32
  | .atsInvalidationCompletion _ _ => 0#32
  | .atsTranslationCompletion _ _ _ _ _ => 0#32
  | .pageRequestResponse _ _ _ => 0#32
  | .pageRequestTimeout _ _ => 0#32
  | .matrixBlockRead _ => 0#32
  | .matrixOperationStart _ => 0#32
  | .matrixProducts _ => 0#32
  | .drain _ => 0#32
  | .matrixCompletion _ _ => 0#32
  | .commandBlockRead _ _ => 0#32
  | .copy _ _ => 0#32
  | .read _ => 0#32
  | .write _ => 0#32
  | .commandAtom _ => 0#32
  | .commandCas _ => 0#32
  | .reduce _ _ => 0#32
  | .kalloc _ => 0#32
  | .kfree _ => 0#32
  | .signal _ => 0#32
  | .commandCompletion _ => 0#32
  | .spanTagCheck _ _ _ => 0#32
  | .spanTimeout _ _ => 0#32
  | .inboundRequest _ _ _ _ _ _ _ _ _ _ => 0#32
  | .taskPacketSend _ => 0#32
  | .taskPacketArrival _ => 0#32
  | .taskRecord _ => 0#32
  | .graphRootPush _ => 0#32
  | .nodeReady _ _ => 0#32
  | .nodeCompletion _ _ => 0#32
  | .armedLineReread _ _ => 0#32
  | .bankSwap _ => 0#32
  | .sliceExpiry _ _ => 0#32
  | .spillStart _ _ => 0#32
  | .spillComplete _ _ => 0#32
  | .imageCopyOut _ => 0#32
  | .imageCopyIn _ _ => 0#32
  | .fill _ _ => 0#32
  | .contextEnd _ _ => 0#32
  | .kill _ _ => 0#32
  | .audit _ => 0#32
  | .migctlGo _ _ _ => 0#32
  | .tenantMoveComplete _ _ => 0#32
  | .tenantMoveFailed _ _ => 0#32
  | .packetReceive _ _ _ _ _ => 0#32
  | .acknowledgement _ _ _ => 0#32
  | .negativeAcknowledgement _ _ _ => 0#32
  | .linkRetrain _ _ => 0#32
  | .peerUnreachable _ _ => 0#32
  | .mirrorUpdate _ => 0#32
  | .switchLoss _ _ => 0#32
  | .dcAddExtent _ _ _ _ _ => 0#32
  | .dcReleaseRequest _ _ => 0#32
  | .dcReleaseResponse _ _ => 0#32
  | .viralIndication _ _ => 0#32
  | .cxlReset _ _ => 0#32
  | .viralClear _ _ => 0#32
  | .lineclrGo _ _ _ => 0#32
  | .lineClearDone _ _ => 0#32
  | .throttleStepUp _ _ _ _ => 0#32
  | .throttleToFloor _ _ _ => 0#32
  | .throttleStepDown _ _ => 0#32
  | .clockChange _ => 0#32
  | .prepare _ => 0#32
  | .commit _ => 0#32
  | .abort _ => 0#32
  | .layoutApplied _ => 0#32
  | .shadowWrite _ _ _ => 0#32
  | .watchdogReset _ => 0#32
  | .powerOnReset _ => 0#32
  | .recoveryImage _ _ => 0#32
  | .getVersion _ => 0#32
  | .getCapabilities _ => 0#32
  | .negotiateAlgorithms _ _ => 0#32
  | .getDigests _ => 0#32
  | .getCertificate _ _ => 0#32
  | .challenge _ _ => 0#32
  | .getMeasurements _ _ _ => 0#32
  | .keyExchange _ _ => 0#32
  | .finish _ _ _ => 0#32
  | .keyUpdate _ _ => 0#32
  | .heartbeat _ _ => 0#32
  | .endSession _ _ => 0#32
  | .sensorTrip _ _ => 0#32
  | .registerWrite _ _ _ _ _ => 0#32
  | .backInvalidationCompletion _ => 0#32
  | .invalidationAcknowledgement _ _ => 0#32
  | .invalidateRequest _ _ => 0#32
  | .peerAdmitted _ _ => 0#32
  | .switchReturn _ _ => 0#32
  | .hostLinkTrained _ _ _ => 0#32
  | .armaddrWrite _ _ _ => 0#32
  | .ideKm _ _ _ _ => 0#32

/-- Bits [17:11] of the 32-bit word of an instruction, the neutral value of RC (R84). -/
def bits1711 : Instr → BitVec 7
  | .nop _ => 0#7
  | .vadd _ f => f.d
  | .vsub _ f => f.d
  | .vmul _ f => f.d
  | .vmulh _ f => f.d
  | .vmad _ f => f.d
  | .vmin _ f => f.d
  | .vmax _ f => f.d
  | .vabs _ f => f.d
  | .vneg _ f => f.d
  | .vnot _ f => f.d
  | .vpopc _ f => f.d
  | .vclz _ f => f.d
  | .vbrev _ f => f.d
  | .vand _ f => f.d
  | .vor _ f => f.d
  | .vxor _ f => f.d
  | .vshl _ f => f.d
  | .vshr _ f => f.d
  | .vsra _ f => f.d
  | .vrot _ f => f.d
  | .vbfe _ f => f.d
  | .vbfi _ f => f.d
  | .vsel _ f => f.d
  | .vcmp _ f => f.c ++ f.q
  | .vsat _ f => f.d
  | .vaddc _ f => f.d
  | .vlea _ f => f.d
  | .vshf _ f => f.d
  | .vbcast _ f => f.d
  | .vreduce _ f => f.d
  | .vscan _ f => f.d
  | .vdot4 _ f => f.d
  | .vmovi _ _ d _ _ => d
  | .fadd _ f => f.d
  | .fsub _ f => f.d
  | .fmul _ f => f.d
  | .ffma _ f => f.d
  | .fmin _ f => f.d
  | .fmax _ f => f.d
  | .fsgn _ f => f.d
  | .fcmp _ f => f.c ++ f.q
  | .fclass _ f => f.d
  | .frcp _ f => f.d
  | .frsq _ f => f.d
  | .fsqrt _ f => f.d
  | .fexp2 _ f => f.d
  | .flog2 _ f => f.d
  | .fsin _ f => f.d
  | .fcos _ f => f.d
  | .ftanh _ f => f.d
  | .fcvt _ _ _ _ d _ _ => d
  | .fpack _ f => f.d
  | .funpack _ f => f.d
  | .fscale _ f => f.d
  | .frnd _ f => f.d
  | .fdot2 _ f => f.d
  | .fmxs _ _ _ d _ _ => d
  | .fwcvt _ f => f.d
  | .fwadd _ f => f.d
  | .sadd _ f => (f.a).extractLsb' 0 1 ++ f.d
  | .ssub _ f => (f.a).extractLsb' 0 1 ++ f.d
  | .smul _ f => (f.a).extractLsb' 0 1 ++ f.d
  | .sand _ f => (f.a).extractLsb' 0 1 ++ f.d
  | .sor _ f => (f.a).extractLsb' 0 1 ++ f.d
  | .sxor _ f => (f.a).extractLsb' 0 1 ++ f.d
  | .sshl _ f => (f.a).extractLsb' 0 1 ++ f.d
  | .sshr _ f => (f.a).extractLsb' 0 1 ++ f.d
  | .ssra _ f => (f.a).extractLsb' 0 1 ++ f.d
  | .smin _ f => (f.a).extractLsb' 0 1 ++ f.d
  | .smax _ f => (f.a).extractLsb' 0 1 ++ f.d
  | .scmp _ _ a => (a).extractLsb' 0 1 ++ 0#6
  | .saddi _ _ a d _ => (a).extractLsb' 0 1 ++ d
  | .smovi _ _ d _ => d
  | .pand _ _ a d => (a).extractLsb' 0 1 ++ d
  | .por _ _ a d => (a).extractLsb' 0 1 ++ d
  | .pxor _ _ a d => (a).extractLsb' 0 1 ++ d
  | .pandn _ _ a d => (a).extractLsb' 0 1 ++ d
  | .pnot _ a d => (a).extractLsb' 0 1 ++ d
  | .pset _ a d => (a).extractLsb' 0 1 ++ d
  | .pget _ a d => (a).extractLsb' 0 1 ++ d
  | .mov _ f => f.d
  | .movix _ f => f.d
  | .stix _ f => f.d
  | .ixset _ _ m k _ => 0#3 ++ m ++ k
  | .park _ _ _ d _ => d
  | .unpark _ _ _ d _ => d
  | .winrd _ _ _ d _ => d
  | .br _ i c => (i).extractLsb' 0 2 ++ c
  | .brp _ i s k => (i).extractLsb' 0 2 ++ s ++ k
  | .jmp _ i => (i).extractLsb' 0 7
  | .call _ i => (i).extractLsb' 0 7
  | .ret _ _ => 0#7
  | .split _ _ _ i => (i).extractLsb' 0 7
  | .join _ _ => 0#7
  | .meetset _ i => (i).extractLsb' 0 7
  | .elect _ _ _ d => d
  | .exit _ => 0#7
  | .tcfg _ _ => 0#7
  | .tclaim _ _ d => d
  | .tclaimAny _ _ d => d
  | .trel _ _ => 0#7
  | .tstatr _ _ d => d
  | .ldG _ f => f.d
  | .ldSp _ f => f.d
  | .ldCl _ f => f.d
  | .ldCh _ f => f.d
  | .ldLn _ f => f.d
  | .stG _ f => f.d
  | .stSp _ f => f.d
  | .stCl _ f => f.d
  | .stCh _ f => f.d
  | .stLn _ f => f.d
  | .gather _ f => f.d
  | .scatter _ f => f.d
  | .atom _ f => f.d
  | .atomr _ f => f.d
  | .cas _ _ _ d _ => d
  | .lda _ f => f.d
  | .strel _ f => f.d
  | .fence _ _ _ => 0#7
  | .acqPromote _ _ => 0#7
  | .pref _ _ _ _ l _ => 0#6 ++ l
  | .cflush _ _ _ _ l _ => 0#5 ++ l
  | .tfill _ _ _ _ d _ => 0#1 ++ d
  | .trow _ f => f.d
  | .qpush _ f => f.d
  | .qpop _ f => f.d
  | .qtry _ f => f.d
  | .qstat _ _ d => d
  | .wait _ _ _ s l => (s).extractLsb' 0 2 ++ l
  | .barinit _ _ _ d => d
  | .bararr _ d => d
  | .bararrN _ _ d => d
  | .barexp _ _ d => d
  | .barwait _ _ d => d
  | .bartest _ _ _ d => d
  | .gbar _ => 0#7
  | .trap _ _ => 0#7
  | .tfence _ => 0#7
  | .rett _ => 0#7
  | .sprr _ _ d => 0#1 ++ d
  | .sprw _ _ a => (a).extractLsb' 0 1 ++ 0#6
  | .yield _ => 0#7
  | .sleep _ _ => 0#7
  | .getid _ _ a d => (a).extractLsb' 0 1 ++ d
  | .replace _ _ _ => 0#7
  | .vmov _ _ => 0#7
  | .nop16 _ => 0#7
  | .vmoviShort _ _ => 0#7
  | .vaddShort _ _ => 0#7
  | .vsubShort _ _ => 0#7
  | .vmulShort _ _ => 0#7
  | .vaddi _ _ => 0#7
  | .vandShort _ _ => 0#7
  | .vorShort _ _ => 0#7
  | .vxorShort _ _ => 0#7
  | .vshlI _ _ => 0#7
  | .vshrI _ _ => 0#7
  | .faddShort _ _ => 0#7
  | .fsubShort _ _ => 0#7
  | .fmulShort _ _ => 0#7
  | .fmaxShort _ _ => 0#7
  | .fminShort _ _ => 0#7
  | .illegalInstruction _ => 0#7
  | .instructionFetchFault _ _ _ _ => 0#7
  | .trapEntry _ => 0#7
  | .teamPlacement _ _ => 0#7
  | .groupRetirement _ => 0#7
  | .loadDataReturn _ _ => 0#7
  | .storePerformed _ _ => 0#7
  | .waitCompletion _ _ => 0#7
  | .sleepTimeout _ _ => 0#7
  | .queueRoomFreed _ _ => 0#7
  | .queueEntriesArrive _ _ => 0#7
  | .byteCredit _ => 0#7
  | .editionSweepEnd _ _ => 0#7
  | .mscMissFetch _ _ _ _ => 0#7
  | .rdsh _ _ => 0#7
  | .rdown _ _ => 0#7
  | .upgrade _ _ => 0#7
  | .wback _ _ => 0#7
  | .evict _ _ => 0#7
  | .hostOwnershipRequest _ => 0#7
  | .cxlMemAccess _ _ _ _ _ _ => 0#7
  | .translationWalk _ _ _ _ _ => 0#7
  | .freplyReplay _ _ _ => 0#7
  | .freplyDeliver _ _ _ => 0#7
  | .freplyTerminate _ _ _ => 0#7
  | .freplyDiscard _ _ _ => 0#7
  | .xinvGo _ _ _ => 0#7
  | .xinvComplete _ _ => 0#7
  | .xwinv _ _ _ => 0#7
  | .xwinvComplete _ _ => 0#7
  | .migrationStart _ _ _ _ => 0#7
  | .migrationLineMove _ _ _ => 0#7
  | .migrationEnd _ _ _ _ => 0#7
  | .atsInvalidationRequest _ _ _ _ => 0#7
  | .atsInvalidationCompletion _ _ => 0#7
  | .atsTranslationCompletion _ _ _ _ _ => 0#7
  | .pageRequestResponse _ _ _ => 0#7
  | .pageRequestTimeout _ _ => 0#7
  | .matrixBlockRead _ => 0#7
  | .matrixOperationStart _ => 0#7
  | .matrixProducts _ => 0#7
  | .drain _ => 0#7
  | .matrixCompletion _ _ => 0#7
  | .commandBlockRead _ _ => 0#7
  | .copy _ _ => 0#7
  | .read _ => 0#7
  | .write _ => 0#7
  | .commandAtom _ => 0#7
  | .commandCas _ => 0#7
  | .reduce _ _ => 0#7
  | .kalloc _ => 0#7
  | .kfree _ => 0#7
  | .signal _ => 0#7
  | .commandCompletion _ => 0#7
  | .spanTagCheck _ _ _ => 0#7
  | .spanTimeout _ _ => 0#7
  | .inboundRequest _ _ _ _ _ _ _ _ _ _ => 0#7
  | .taskPacketSend _ => 0#7
  | .taskPacketArrival _ => 0#7
  | .taskRecord _ => 0#7
  | .graphRootPush _ => 0#7
  | .nodeReady _ _ => 0#7
  | .nodeCompletion _ _ => 0#7
  | .armedLineReread _ _ => 0#7
  | .bankSwap _ => 0#7
  | .sliceExpiry _ _ => 0#7
  | .spillStart _ _ => 0#7
  | .spillComplete _ _ => 0#7
  | .imageCopyOut _ => 0#7
  | .imageCopyIn _ _ => 0#7
  | .fill _ _ => 0#7
  | .contextEnd _ _ => 0#7
  | .kill _ _ => 0#7
  | .audit _ => 0#7
  | .migctlGo _ _ _ => 0#7
  | .tenantMoveComplete _ _ => 0#7
  | .tenantMoveFailed _ _ => 0#7
  | .packetReceive _ _ _ _ _ => 0#7
  | .acknowledgement _ _ _ => 0#7
  | .negativeAcknowledgement _ _ _ => 0#7
  | .linkRetrain _ _ => 0#7
  | .peerUnreachable _ _ => 0#7
  | .mirrorUpdate _ => 0#7
  | .switchLoss _ _ => 0#7
  | .dcAddExtent _ _ _ _ _ => 0#7
  | .dcReleaseRequest _ _ => 0#7
  | .dcReleaseResponse _ _ => 0#7
  | .viralIndication _ _ => 0#7
  | .cxlReset _ _ => 0#7
  | .viralClear _ _ => 0#7
  | .lineclrGo _ _ _ => 0#7
  | .lineClearDone _ _ => 0#7
  | .throttleStepUp _ _ _ _ => 0#7
  | .throttleToFloor _ _ _ => 0#7
  | .throttleStepDown _ _ => 0#7
  | .clockChange _ => 0#7
  | .prepare _ => 0#7
  | .commit _ => 0#7
  | .abort _ => 0#7
  | .layoutApplied _ => 0#7
  | .shadowWrite _ _ _ => 0#7
  | .watchdogReset _ => 0#7
  | .powerOnReset _ => 0#7
  | .recoveryImage _ _ => 0#7
  | .getVersion _ => 0#7
  | .getCapabilities _ => 0#7
  | .negotiateAlgorithms _ _ => 0#7
  | .getDigests _ => 0#7
  | .getCertificate _ _ => 0#7
  | .challenge _ _ => 0#7
  | .getMeasurements _ _ _ => 0#7
  | .keyExchange _ _ => 0#7
  | .finish _ _ _ => 0#7
  | .keyUpdate _ _ => 0#7
  | .heartbeat _ _ => 0#7
  | .endSession _ _ => 0#7
  | .sensorTrip _ _ => 0#7
  | .registerWrite _ _ _ _ _ => 0#7
  | .backInvalidationCompletion _ => 0#7
  | .invalidationAcknowledgement _ _ => 0#7
  | .invalidateRequest _ _ => 0#7
  | .peerAdmitted _ _ => 0#7
  | .switchReturn _ _ => 0#7
  | .hostLinkTrained _ _ _ => 0#7
  | .armaddrWrite _ _ _ => 0#7
  | .ideKm _ _ _ _ => 0#7

/-- The rounding field of VREDUCE and VSCAN is consumed for the float types only (R138). -/
def reduceRm (e : Pfx) : Nat :=
  match e.k0 with
  | some x => if x.ty = 0x00#5 ∨ x.ty = 0x01#5 then 1 else 0
  | none => 0

/-- FWCVT: the types of St for XO = 0 and of Dt for XO = 1 (R162). -/
def fwTypes (e : Pfx) : List Nat :=
  match e.k0 with
  | some x => if x.xo = 0#2 then [0x00, 0x01] ++ tysWide else [0x00, 0x01, 0x02, 0x03] ++ tysWide
  | none => [0x00, 0x01] ++ tysWide

/-- The attributes of each instruction (R75, R84, R85 and the tables of the family chapters). -/
def attr : Instr → Attr
  | .nop _ => {  }
  | .vadd _ _ => { px := true, ty := some (0x10, tysArith), xo := 2, k1 := true }
  | .vsub _ _ => { px := true, ty := some (0x10, tysArith), xo := 2, k1 := true }
  | .vmul _ _ => { px := true, ty := some (0x10, tysMul), xo := 2, k1 := true }
  | .vmulh _ _ => { px := true, ty := some (0x10, tysWide), k1 := true }
  | .vmad _ _ => { rc := .vreg, px := true, ty := some (0x10, tysWide), xo := 2, k1 := true }
  | .vmin _ _ => { px := true, ty := some (0x10, tysArith), k1 := true }
  | .vmax _ _ => { px := true, ty := some (0x10, tysArith), k1 := true }
  | .vabs _ _ => { px := true, ty := some (0x10, [0x16, 0x14, 0x10, 0x12]), xo := 2 }
  | .vneg _ _ => { px := true, ty := some (0x10, [0x16, 0x14, 0x10, 0x12]), xo := 2 }
  | .vnot _ _ => { px := true, ty := some (0x1B, tysBits) }
  | .vpopc _ _ => { px := true, ty := some (0x1B, tysBits) }
  | .vclz _ _ => { px := true, ty := some (0x1B, tysBits) }
  | .vbrev _ _ => { px := true, ty := some (0x1B, tysBits) }
  | .vand _ _ => { px := true, ty := some (0x1B, tysBits), k1 := true }
  | .vor _ _ => { px := true, ty := some (0x1B, tysBits), k1 := true }
  | .vxor _ _ => { px := true, ty := some (0x1B, tysBits), k1 := true }
  | .vshl _ _ => { px := true, ty := some (0x1B, tysBits), k1 := true }
  | .vshr _ _ => { px := true, ty := some (0x1B, tysBits), k1 := true }
  | .vsra _ _ => { px := true, ty := some (0x10, [0x10, 0x12]), k1 := true }
  | .vrot _ _ => { px := true, ty := some (0x1B, tysBits), xo := 2, k1 := true }
  | .vbfe _ _ => { px := true, ty := some (0x11, tysWide), k1 := true }
  | .vbfi _ _ => { rc := .vreg, px := true, ty := some (0x1B, tysBits), k1 := true }
  | .vsel _ _ => { rc := .sel, px := true, ty := some (0x1B, tysBits), k1 := true }
  | .vcmp _ _ => { px := true, ty := some (0x10, tysWide ++ tysBits), xo := 3 }
  | .vsat _ _ => { px := true, ty := some (0x10, tysWide) }
  | .vaddc _ _ => { rc := .carry, px := true, ty := some (0x11, [0x11, 0x13]), xo := 2, k1 := true }
  | .vlea _ _ => { px := true, ty := some (0x11, [0x11, 0x10]), xo := 4, k1 := true }
  | .vshf _ _ => { px := true, ty := some (0x1B, tysBits), xo := 4, k1 := true }
  | .vbcast _ _ => { px := true, ty := some (0x1B, tysBits), xo := 2 }
  | .vreduce e f => { px := true, ty := some (0x10, reduceTypes f.b.toNat), rm := reduceRm e }
  | .vscan e f => { px := true, ty := some (0x10, reduceTypes f.b.toNat), rm := reduceRm e, xo := 2 }
  | .vdot4 _ _ => { rc := .vreg, px := true, ty := some (0x16, [0x16, 0x17]), xo := 4, k1 := true }
  | .vmovi _ _ _ _ _ => { px := true, ty := some (0x1B, [0x1B, 0x10, 0x11]), k1 := true }
  | .fadd _ _ => { px := true, ty := some (0x00, tysF), rm := 1, k1 := true }
  | .fsub _ _ => { px := true, ty := some (0x00, tysF), rm := 1, k1 := true }
  | .fmul _ _ => { px := true, ty := some (0x00, tysF), rm := 1, k1 := true }
  | .ffma _ _ => { rc := .vreg, px := true, ty := some (0x00, tysF), rm := 1, xo := 4, k1 := true }
  | .fmin _ _ => { px := true, ty := some (0x00, tysF), k1 := true }
  | .fmax _ _ => { px := true, ty := some (0x00, tysF), k1 := true }
  | .fsgn _ _ => { px := true, ty := some (0x00, tysF), xo := 3, k1 := true }
  | .fcmp _ _ => { px := true, ty := some (0x00, [0x00, 0x01]), xo := 3 }
  | .fclass _ _ => { px := true, ty := some (0x00, tysF) }
  | .frcp _ _ => { px := true, ty := some (0x00, [0x00, 0x01, 0x02]), rm := 1 }
  | .frsq _ _ => { px := true, ty := some (0x00, [0x00, 0x01, 0x02]), rm := 1 }
  | .fsqrt _ _ => { px := true, ty := some (0x00, [0x00, 0x01, 0x02]), rm := 1 }
  | .fexp2 _ _ => { px := true, ty := some (0x00, [0x00, 0x02]) }
  | .flog2 _ _ => { px := true, ty := some (0x00, [0x00, 0x02]) }
  | .fsin _ _ => { px := true, ty := some (0x00, [0x00, 0x02]) }
  | .fcos _ _ => { px := true, ty := some (0x00, [0x00, 0x02]) }
  | .ftanh _ _ => { px := true, ty := some (0x00, [0x00, 0x02]) }
  | .fcvt _ _ _ _ _ _ _ => { rc := .seed, px := true, ty := some (0x00, tysCvt), rm := 2, sn := true, xo := 4 }
  | .fpack _ _ => { rc := .seed, px := true, ty := some (0x05, tysMx), rm := 2, sn := true, k1 := true }
  | .funpack _ _ => { px := true, ty := some (0x05, tysMx), rm := 1, k1 := true }
  | .fscale _ _ => { px := true, ty := some (0x00, tysF), rm := 1, k1 := true }
  | .frnd _ _ => { px := true, ty := some (0x00, tysF), rm := 1, xo := 2 }
  | .fdot2 _ _ => { rc := .vreg, px := true, ty := some (0x03, [0x03, 0x02]), rm := 1, k1 := true }
  | .fmxs _ _ _ _ _ _ => { px := true, ty := some (0x00, [0x00]) }
  | .fwcvt e _ => { px := true, ty := some (0x00, fwTypes e), rm := 1, xo := 2, k1 := true }
  | .fwadd _ _ => { px := true, ty := some (0x0A, [0x0A]), xo := 2, k1 := true }
  | .sadd _ _ => { ty := some (0x12, tysWide) }
  | .ssub _ _ => { ty := some (0x12, tysWide) }
  | .smul _ _ => { ty := some (0x12, tysWide) }
  | .sand _ _ => { ty := some (0x12, tysWide) }
  | .sor _ _ => { ty := some (0x12, tysWide) }
  | .sxor _ _ => { ty := some (0x12, tysWide) }
  | .sshl _ _ => { ty := some (0x12, tysWide) }
  | .sshr _ _ => { ty := some (0x12, tysWide) }
  | .ssra _ _ => { ty := some (0x12, tysWide) }
  | .smin _ _ => { ty := some (0x12, tysWide) }
  | .smax _ _ => { ty := some (0x12, tysWide) }
  | .scmp _ _ _ => { ty := some (0x12, tysWide) }
  | .saddi _ _ _ _ _ => { ty := some (0x12, tysWide), k1 := true }
  | .smovi _ _ _ _ => { ty := some (0x12, tysWide), xo := 2, k1 := true }
  | .pand _ _ _ _ => {  }
  | .por _ _ _ _ => {  }
  | .pxor _ _ _ _ => {  }
  | .pandn _ _ _ _ => {  }
  | .pnot _ _ _ => {  }
  | .pset _ _ _ => {  }
  | .pget _ _ _ => {  }
  | .mov _ f => { px := true, ty := some (0x1B, if f.a = 1#7 then [0x1B, 0x1C] else [0x1B, 0x1C, 0x1D]) }
  | .movix _ _ => { px := true, ty := some (0x1B, [0x1B]) }
  | .stix _ _ => { px := true, ty := some (0x1B, [0x1B]) }
  | .ixset _ _ _ _ _ => { px := true, k1 := true }
  | .park _ _ _ _ _ => { px := true, ty := some (0x1B, [0x1B]) }
  | .unpark _ _ _ _ _ => { px := true, ty := some (0x1B, [0x1B]) }
  | .winrd _ _ _ _ _ => { px := true }
  | .br _ _ _ => { k1 := true }
  | .brp _ _ _ _ => { k1 := true }
  | .jmp _ _ => { k1 := true }
  | .call _ _ => { k1 := true }
  | .ret _ _ => {  }
  | .split _ _ _ _ => { k1 := true }
  | .join _ _ => {  }
  | .meetset _ _ => { k1 := true }
  | .elect _ _ _ _ => {  }
  | .exit _ => {  }
  | .tcfg _ _ => { np := true }
  | .tclaim _ _ _ => { np := true }
  | .tclaimAny _ _ _ => { np := true }
  | .trel _ _ => { np := true }
  | .tstatr _ _ _ => { np := true }
  | .ldG _ _ => { px := true, ty := some (0x1B, [0x16, 0x17, 0x14, 0x15, 0x1B, 0x1C, 0x1D]), k1 := true }
  | .ldSp _ _ => { px := true, ty := some (0x1B, [0x16, 0x17, 0x14, 0x15, 0x1B, 0x1C, 0x1D]), k1 := true }
  | .ldCl _ _ => { px := true, ty := some (0x1B, [0x16, 0x17, 0x14, 0x15, 0x1B, 0x1C, 0x1D]), k1 := true }
  | .ldCh _ _ => { px := true, ty := some (0x1B, [0x16, 0x17, 0x14, 0x15, 0x1B, 0x1C, 0x1D]), k1 := true }
  | .ldLn _ _ => { px := true, ty := some (0x1B, [0x16, 0x17, 0x14, 0x15, 0x1B, 0x1C, 0x1D]), k1 := true }
  | .stG _ _ => { px := true, ty := some (0x1B, [0x19, 0x1A, 0x1B, 0x1C, 0x1D]), k1 := true }
  | .stSp _ _ => { px := true, ty := some (0x1B, [0x19, 0x1A, 0x1B, 0x1C, 0x1D]), k1 := true }
  | .stCl _ _ => { px := true, ty := some (0x1B, [0x19, 0x1A, 0x1B, 0x1C, 0x1D]), k1 := true }
  | .stCh _ _ => { px := true, ty := some (0x1B, [0x19, 0x1A, 0x1B, 0x1C, 0x1D]), k1 := true }
  | .stLn _ _ => { px := true, ty := some (0x1B, [0x19, 0x1A, 0x1B, 0x1C, 0x1D]), k1 := true }
  | .gather _ _ => { px := true, ty := some (0x1B, [0x16, 0x17, 0x14, 0x15, 0x1B, 0x1C]) }
  | .scatter _ _ => { px := true, ty := some (0x1B, [0x19, 0x1A, 0x1B, 0x1C]) }
  | .atom _ f => { px := true, ty := some (atomTypes f.f.toNat), xo := 2 }
  | .atomr _ f => { rc := .vreg, px := true, ty := some (atomTypes f.f.toNat), xo := 2 }
  | .cas _ _ _ _ _ => { rc := .vreg, px := true, ty := some (0x1B, [0x1B, 0x1C, 0x1D]) }
  | .lda _ _ => { px := true, ty := some (0x1B, [0x1B, 0x1C]), k1 := true }
  | .strel _ _ => { px := true, ty := some (0x1B, [0x1B, 0x1C]), k1 := true }
  | .fence _ _ _ => { np := true }
  | .acqPromote _ _ => {  }
  | .pref _ _ _ _ _ _ => { px := true, ty := some (0x1B, [0x19, 0x1A, 0x1B, 0x1C, 0x1D]), k1 := true }
  | .cflush _ _ _ _ _ _ => { px := true, ty := some (0x1B, [0x19, 0x1A, 0x1B, 0x1C, 0x1D]), k1 := true }
  | .tfill _ _ _ _ _ _ => { px := true, ty := some (0x1B, [0x1B, 0x1C, 0x1D]), xo := 4, k1 := true }
  | .trow _ _ => { px := true, ty := some (0x1B, [0x1B, 0x1C]), xo := 2 }
  | .qpush _ f => { px := true, ty := some (0x1C, if f.a = 0#7 then [0x1C, 0x1B] else [0x1C]) }
  | .qpop _ f => { px := true, ty := some (0x1C, if f.a = 0#7 then [0x1C, 0x1B] else [0x1C]) }
  | .qtry _ f => { px := true, ty := some (0x1C, if f.a = 0#7 then [0x1C, 0x1B] else [0x1C]) }
  | .qstat _ _ _ => {  }
  | .wait _ _ _ _ _ => {  }
  | .barinit _ _ _ _ => { np := true }
  | .bararr _ _ => { np := true }
  | .bararrN _ _ _ => { np := true }
  | .barexp _ _ _ => { np := true }
  | .barwait _ _ _ => { np := true }
  | .bartest _ _ _ _ => { np := true }
  | .gbar _ => {  }
  | .trap _ _ => {  }
  | .tfence _ => {  }
  | .rett _ => {  }
  | .sprr _ _ _ => {  }
  | .sprw _ _ _ => {  }
  | .yield _ => {  }
  | .sleep _ _ => {  }
  | .getid _ _ _ _ => {  }
  | .replace _ _ _ => {  }
  | .vmov _ _ => {}
  | .nop16 _ => {}
  | .vmoviShort _ _ => {}
  | .vaddShort _ _ => {}
  | .vsubShort _ _ => {}
  | .vmulShort _ _ => {}
  | .vaddi _ _ => {}
  | .vandShort _ _ => {}
  | .vorShort _ _ => {}
  | .vxorShort _ _ => {}
  | .vshlI _ _ => {}
  | .vshrI _ _ => {}
  | .faddShort _ _ => {}
  | .fsubShort _ _ => {}
  | .fmulShort _ _ => {}
  | .fmaxShort _ _ => {}
  | .fminShort _ _ => {}
  | .illegalInstruction _ => {}
  | .instructionFetchFault _ _ _ _ => {}
  | .trapEntry _ => {}
  | .teamPlacement _ _ => {}
  | .groupRetirement _ => {}
  | .loadDataReturn _ _ => {}
  | .storePerformed _ _ => {}
  | .waitCompletion _ _ => {}
  | .sleepTimeout _ _ => {}
  | .queueRoomFreed _ _ => {}
  | .queueEntriesArrive _ _ => {}
  | .byteCredit _ => {}
  | .editionSweepEnd _ _ => {}
  | .mscMissFetch _ _ _ _ => {}
  | .rdsh _ _ => {}
  | .rdown _ _ => {}
  | .upgrade _ _ => {}
  | .wback _ _ => {}
  | .evict _ _ => {}
  | .hostOwnershipRequest _ => {}
  | .cxlMemAccess _ _ _ _ _ _ => {}
  | .translationWalk _ _ _ _ _ => {}
  | .freplyReplay _ _ _ => {}
  | .freplyDeliver _ _ _ => {}
  | .freplyTerminate _ _ _ => {}
  | .freplyDiscard _ _ _ => {}
  | .xinvGo _ _ _ => {}
  | .xinvComplete _ _ => {}
  | .xwinv _ _ _ => {}
  | .xwinvComplete _ _ => {}
  | .migrationStart _ _ _ _ => {}
  | .migrationLineMove _ _ _ => {}
  | .migrationEnd _ _ _ _ => {}
  | .atsInvalidationRequest _ _ _ _ => {}
  | .atsInvalidationCompletion _ _ => {}
  | .atsTranslationCompletion _ _ _ _ _ => {}
  | .pageRequestResponse _ _ _ => {}
  | .pageRequestTimeout _ _ => {}
  | .matrixBlockRead _ => {}
  | .matrixOperationStart _ => {}
  | .matrixProducts _ => {}
  | .drain _ => {}
  | .matrixCompletion _ _ => {}
  | .commandBlockRead _ _ => {}
  | .copy _ _ => {}
  | .read _ => {}
  | .write _ => {}
  | .commandAtom _ => {}
  | .commandCas _ => {}
  | .reduce _ _ => {}
  | .kalloc _ => {}
  | .kfree _ => {}
  | .signal _ => {}
  | .commandCompletion _ => {}
  | .spanTagCheck _ _ _ => {}
  | .spanTimeout _ _ => {}
  | .inboundRequest _ _ _ _ _ _ _ _ _ _ => {}
  | .taskPacketSend _ => {}
  | .taskPacketArrival _ => {}
  | .taskRecord _ => {}
  | .graphRootPush _ => {}
  | .nodeReady _ _ => {}
  | .nodeCompletion _ _ => {}
  | .armedLineReread _ _ => {}
  | .bankSwap _ => {}
  | .sliceExpiry _ _ => {}
  | .spillStart _ _ => {}
  | .spillComplete _ _ => {}
  | .imageCopyOut _ => {}
  | .imageCopyIn _ _ => {}
  | .fill _ _ => {}
  | .contextEnd _ _ => {}
  | .kill _ _ => {}
  | .audit _ => {}
  | .migctlGo _ _ _ => {}
  | .tenantMoveComplete _ _ => {}
  | .tenantMoveFailed _ _ => {}
  | .packetReceive _ _ _ _ _ => {}
  | .acknowledgement _ _ _ => {}
  | .negativeAcknowledgement _ _ _ => {}
  | .linkRetrain _ _ => {}
  | .peerUnreachable _ _ => {}
  | .mirrorUpdate _ => {}
  | .switchLoss _ _ => {}
  | .dcAddExtent _ _ _ _ _ => {}
  | .dcReleaseRequest _ _ => {}
  | .dcReleaseResponse _ _ => {}
  | .viralIndication _ _ => {}
  | .cxlReset _ _ => {}
  | .viralClear _ _ => {}
  | .lineclrGo _ _ _ => {}
  | .lineClearDone _ _ => {}
  | .throttleStepUp _ _ _ _ => {}
  | .throttleToFloor _ _ _ => {}
  | .throttleStepDown _ _ => {}
  | .clockChange _ => {}
  | .prepare _ => {}
  | .commit _ => {}
  | .abort _ => {}
  | .layoutApplied _ => {}
  | .shadowWrite _ _ _ => {}
  | .watchdogReset _ => {}
  | .powerOnReset _ => {}
  | .recoveryImage _ _ => {}
  | .getVersion _ => {}
  | .getCapabilities _ => {}
  | .negotiateAlgorithms _ _ => {}
  | .getDigests _ => {}
  | .getCertificate _ _ => {}
  | .challenge _ _ => {}
  | .getMeasurements _ _ _ => {}
  | .keyExchange _ _ => {}
  | .finish _ _ _ => {}
  | .keyUpdate _ _ => {}
  | .heartbeat _ _ => {}
  | .endSession _ _ => {}
  | .sensorTrip _ _ => {}
  | .registerWrite _ _ _ _ _ => {}
  | .backInvalidationCompletion _ => {}
  | .invalidationAcknowledgement _ _ => {}
  | .invalidateRequest _ _ => {}
  | .peerAdmitted _ _ => {}
  | .switchReturn _ _ => {}
  | .hostLinkTrained _ _ _ => {}
  | .armaddrWrite _ _ _ => {}
  | .ideKm _ _ _ _ => {}

/-- The type of an instruction: TY of a kind-0 prefix unless it is 0x1F, else the default (R84, R121). -/
def effTy (i : Instr) : Nat :=
  match (attr i).ty with
  | none => 0x1B
  | some (dflt, _) =>
    match (pfxOf i).k0 with
    | some x => if x.ty = 0x1F#5 then dflt else x.ty.toNat
    | none => dflt

/-- Registers an instruction names (R78, R31): the first one, how many, whether a pair or quad must be aligned,
whether it is written. -/
structure VReg where
  first : Nat
  cnt : Nat
  al : Bool
  dst : Bool
  deriving DecidableEq, Repr

/-- A source operand of `n` registers, aligned as a pair or quad. -/
def vsrc (r : BitVec 7) (n : Nat) : VReg := ⟨r.toNat, n, true, false⟩
/-- A destination operand of `n` registers, aligned as a pair or quad. -/
def vdst (r : BitVec 7) (n : Nat) : VReg := ⟨r.toNat, n, true, true⟩
/-- Operand B as a register of `n` words, or nothing when a kind-1 prefix supplies it (R85, R122). -/
def vsrcB (e : Pfx) (r : BitVec 7) (n : Nat) : List VReg := if e.long then [] else [vsrc r n]

/-- Operands of a three-register format-G instruction whose B has `nb` words. -/
def regsG (e : Pfx) (f : GForm) (n nb : Nat) : List VReg := [vdst f.d n, vsrc f.a n] ++ vsrcB e f.b nb
/-- The same with the fourth operand RC. -/
def regsG4 (e : Pfx) (f : GForm) (n nb : Nat) : List VReg := regsG e f n nb ++ [vsrc (e.rc f.d) n]
/-- Address register of a format-M access (R92, R221). -/
def regsO (x : BitVec 1) (o : BitVec 7) : List VReg := if x = 0#1 then [vsrc o 1] else []
/-- Address pair of a format-A access (R222). -/
def pairAB (g : BitVec 6) : VReg := ⟨2 * g.toNat, 2, true, false⟩

/-- The vector registers an instruction names, with its own type (the family chapters). -/
def regs (i : Instr) : List VReg :=
  let n := tyWords (effTy i)
  match i with
  | .vadd e f | .vsub e f | .vmul e f | .vmulh e f | .vmin e f | .vmax e f | .vand e f | .vor e f | .vxor e f
  | .vsel e f | .vaddc e f | .fadd e f | .fsub e f | .fmul e f | .fmin e f | .fmax e f | .fsgn e f
  | .fwadd e f => regsG e f n n
  | .vmad e f | .ffma e f => regsG4 e f n n
  | .vbfi e f => regsG4 e f n 1
  | .vshl e f | .vshr e f | .vsra e f | .vrot e f | .vbfe e f | .vshf e f | .fscale e f => regsG e f n 1
  | .vsat _ f | .vbcast _ f | .vreduce _ f | .vscan _ f => [vdst f.d n, vsrc f.a n]
  | .vlea e f => [vdst f.d 2, vsrc f.a 2] ++ vsrcB e f.b 1
  | .vdot4 e f | .fdot2 e f => regsG4 e f 1 1
  | .vabs _ f | .vneg _ f | .vnot _ f | .vbrev _ f | .frcp _ f | .frsq _ f | .fsqrt _ f | .fexp2 _ f | .flog2 _ f
  | .fsin _ f | .fcos _ f | .ftanh _ f | .frnd _ f => [vdst f.d n, vsrc f.a n]
  | .vpopc _ f | .vclz _ f | .fclass _ f => [vdst f.d 1, vsrc f.a n]
  | .vmovi _ _ d _ _ => [vdst d 1]
  | .vcmp _ f | .fcmp _ f => [vsrc f.a n, vsrc f.b n]
  | .fcvt _ _ t a d _ _ => [vdst d n, vsrc a (tyWords t.toNat)]
  | .fmxs _ _ a d _ _ => [vdst d 1, vsrc a 1]
  | .fpack e f => [vdst f.d 1, ⟨f.a.toNat, epr (effTy i), false, false⟩] ++ vsrcB e f.b 1
  | .funpack e f => [⟨f.d.toNat, epr (effTy i), false, true⟩, vsrc f.a 1] ++ vsrcB e f.b 1
  | .fwcvt e f => if e.xo = 0 then [vdst f.d 4, vsrc f.a n] else [vdst f.d n, vsrc f.a 4]
  | .mov _ f => [vdst f.d n] ++ (if f.a = 0#7 then [vsrc f.b n] else [])
  | .movix _ f => [vdst f.d 1]
  | .stix _ f => [vsrc f.d 1]
  | .ixset e b _ _ _ => vsrcB e b 1
  | .park _ c _ d _ => [⟨d.toNat, c.toNat + 1, false, false⟩]
  | .unpark _ c _ d _ => [⟨d.toNat, c.toNat + 1, false, true⟩]
  | .winrd _ _ _ d _ => [vdst d 1]
  | .split _ f _ _ => [⟨2 * f.toNat, 2, true, true⟩]
  | .join _ a => [vsrc a 2]
  | .ldG _ f | .ldSp _ f | .ldCl _ f | .ldCh _ f | .ldLn _ f => [vdst f.d n] ++ regsO f.x f.o
  | .stG _ f | .stSp _ f | .stCl _ f | .stCh _ f | .stLn _ f => [vsrc f.d n] ++ regsO f.x f.o
  | .gather _ f => [vdst f.d n, pairAB f.g]
  | .scatter _ f | .atom _ f => [vsrc f.d n, pairAB f.g]
  | .atomr e f => [vdst f.d n, pairAB f.g, vsrc (e.rc f.d) n]
  | .cas e _ g d _ => [vdst d n, vsrc d n, pairAB g, vsrc (e.rc d) n]
  | .lda _ f => [vdst f.d n]
  | .strel _ f => [vsrc f.d n]
  | .pref _ x o _ _ _ | .cflush _ x o _ _ _ | .tfill _ x o _ _ _ => regsO x o
  | .trow e f => if e.xo = 0 then [vsrc f.b n] else [vdst f.d n]
  | .qpush _ f => if f.a = 0#7 then [vsrc f.b n] else []
  | .qpop _ f | .qtry _ f => if f.a = 0#7 then [vdst f.d n] else []
  | .getid _ _ a d => if a = 1#6 then [⟨d.toNat, 1, true, true⟩] else []
  | .replace _ _ a => [vsrc a 1]
  | .vmov b d => [⟨d.toNat, 1, true, true⟩, ⟨b.toNat, 1, true, false⟩]
  | .vaddShort b d | .vsubShort b d | .vmulShort b d | .vandShort b d | .vorShort b d | .vxorShort b d
  | .faddShort b d | .fsubShort b d | .fmulShort b d | .fmaxShort b d | .fminShort b d =>
    [⟨d.toNat, 1, true, true⟩, ⟨d.toNat, 1, true, false⟩, ⟨b.toNat, 1, true, false⟩]
  | .vmoviShort _ d => [⟨d.toNat, 1, true, true⟩]
  | .vaddi _ d | .vshlI _ d | .vshrI _ d => [⟨d.toNat, 1, true, true⟩, ⟨d.toNat, 1, true, false⟩]
  | _ => []

/-- Push queues accept QPUSH (R286). -/
def pushQueue (k : Nat) : Bool := k = 0 || k = 2 || k = 4 || k = 6 || k = 7 || (8 ≤ k && k ≤ 15)
/-- Pop queues accept QPOP and QTRY (R286). -/
def popQueue (k : Nat) : Bool := k = 1 || k = 3 || k = 5 || (8 ≤ k && k ≤ 15)

/-- A kind-1 immediate as operand B: imm30 := IMM23 : B (R85). -/
def imm30 (e : Pfx) (b : BitVec 7) : BitVec 30 := match e.k1 with | some m => m ++ b | none => 0#23 ++ b

/-- The special registers that SPRR and SPRW name (R182). -/
def sprKnown (n : Nat) : Bool :=
  n ≤ 7 || n = 0x10 || n = 0x11 || n = 0x12 || n = 0x18 || n = 0x19 || n = 0x1A || (0x20 ≤ n && n ≤ 0x23) || n = 0x30

/-- GETID selectors that name a lane value, and the highest selector (R188). -/
def getidVector (n : Nat) : Bool := n ≤ 1

/-- The ratio of R156 between the element counts of an FCVT's two types; its slots are below it. -/
def cvtRatio (dt st : Nat) : Nat := max (epr dt) (epr st) / min (epr dt) (epr st)
/-- The slot of an FCVT: B[5] : XO (R155). -/
def cvtSlot (s : BitVec 1) (e : Pfx) : Nat := 4 * s.toNat + e.xo

/-- The family's own limits on fields (R78 and the family chapters); false gives RESERVED-FIELD. A width that VSAT's type
gives limits n when the instruction accepts the type; else only that no accepted type is wider than 64 (log entry 6). -/
def fieldsOk (k : KCtx) (i : Instr) : Bool :=
  match i with
  | .vsel e _ => match e.k0 with | some x => x.rc.toNat < 16 | none => false
  | .vaddc e _ => match e.k0 with | some x => x.rc.toNat < 16 && x.rc.toNat ≠ 0 | none => false
  | .vcmp _ f | .fcmp _ f => f.q ≠ 0#4
  | .vsat _ f => f.b ≠ 0#7 && f.b.toNat ≤ (if tysWide.contains (effTy i) then tyWidth (effTy i) else 64)
  | .vbcast e f => if e.xo = 0 then f.b.toNat < k.width else f.b = 0#7
  | .vreduce _ f | .vscan _ f => f.b.toNat ≤ 5
  | .vmovi e i14 _ _ _ => !e.long || i14.toNat < 512
  | .fcvt e s t _ _ _ _ =>
    let dt := effTy i
    (tyWidth dt = 0 || tyWidth t.toNat = 0 || cvtSlot s e < cvtRatio dt t.toNat)
      && (e.rm ≠ 4 || (match e.k0 with | some x => x.rc.toNat % 2 = 0 && 2 ≤ x.rc.toNat && x.rc.toNat ≤ 62 | none => true))
  | .fpack e _ =>
    e.rm ≠ 4 || (match e.k0 with | some x => x.rc.toNat % 2 = 0 && 2 ≤ x.rc.toNat && x.rc.toNat ≤ 62 | none => true)
  | .fwcvt e f =>
    if e.long then -512 ≤ (imm30 e f.b).toInt && (imm30 e f.b).toInt ≤ 511 else f.b.toNat < 64
  | .smovi e i14 d _ => d.toNat < 64 && (!e.long || i14.toNat < 512)
  | .pand _ b a d | .por _ b a d | .pxor _ b a d | .pandn _ b a d =>
    b.toNat < 16 && a.toNat < 16 && d.toNat < 16 && d ≠ 0#6
  | .pnot _ a d => a.toNat < 16 && d.toNat < 16 && d ≠ 0#6
  | .pset _ _ d => d.toNat < 16 && d ≠ 0#6
  | .pget _ a _ => a.toNat < 16
  | .mov _ f => f.a.toNat ≤ 1 && (f.a = 0#7 || f.b.toNat < 64)
  | .movix _ f | .stix _ f => f.a.toNat ≤ 3
  | .ixset _ _ m _ _ => m ≠ 3#2
  | .park _ _ a _ _ | .unpark _ _ a _ _ => a.toNat < 64
  | .winrd _ b _ _ _ => b.toNat ≤ 4
  | .br _ _ c => c.toNat ≤ 14
  | .ret _ a | .tcfg _ a | .trel _ a | .sleep _ a | .acqPromote _ a => a.toNat < 64
  | .elect _ b a d => b.toNat < 16 && a.toNat < 64 && d.toNat < 16 && d ≠ 0#7
  | .tclaim _ a d => a.toNat < 64 && d.toNat < 64
  | .tclaimAny _ n d => 1 ≤ n.toNat && n.toNat ≤ 16 && d.toNat < 64
  | .tstatr _ s d => s.toNat ≤ 2 && d.toNat < 64
  | .atom e f | .atomr e f => f.f.toNat ≤ 10 && !(f.f = 6#4 && e.xo = 1)
  | .lda _ f | .strel _ f => f.s.toNat ≤ 5
  | .fence _ b a => b.toNat ≤ 2 && a.toNat ≤ 5
  | .cflush _ _ _ _ l _ => l ≠ 3#2
  | .trow e f => if e.xo = 0 then f.d = 0#7 && f.a.toNat < 64 else f.b = 0#7 && f.a.toNat < 64
  | .qpush _ f => f.a.toNat ≤ 1 && (f.a = 0#7 || f.b.toNat < 64) && pushQueue f.d.toNat
  | .qpop _ f | .qtry _ f => f.a.toNat ≤ 1 && (f.a = 0#7 || f.d.toNat < 64) && popQueue f.b.toNat
  | .qstat _ b d => b.toNat ≤ 15 && d.toNat < 64
  | .barinit _ b a _ => b.toNat < 64 && a.toNat < 64
  | .bararrN _ a _ | .barexp _ a _ | .barwait _ a _ => a.toNat < 64
  | .bartest _ _ a d => a.toNat < 64 && d.toNat < 64
  | .sprr _ n _ | .sprw _ n _ => sprKnown n.toNat
  | .getid _ n a _ => n.toNat ≤ 15 && ((a = 0#6 && !getidVector n.toNat) || (a = 1#6 && getidVector n.toNat))
  | .replace _ b _ => b.toNat ≤ 3
  | _ => true

/-- XO values that are consumed but not listed raise RESERVED-FIELD (R123, R143, R233). -/
def xoListed (i : Instr) : Bool := (attr i).xo = 0 || (pfxOf i).xo < (attr i).xo

/-- The kind-1 prefix must be there for SPLIT (R86) and may be there where the attributes say so. -/
def longOk (i : Instr) : Bool :=
  match i with
  | .split e _ _ _ => e.long
  | _ => !(pfxOf i).long || (attr i).k1

/-- PR of a 32-bit word that has the field (R74). -/
def prOf : Instr → Nat
  | .vadd _ f | .vsub _ f | .vmul _ f | .vmulh _ f | .vmad _ f | .vmin _ f | .vmax _ f | .vand _ f | .vor _ f
  | .vxor _ f | .vshl _ f | .vshr _ f | .vsra _ f | .vrot _ f | .vbfe _ f | .vbfi _ f | .vsel _ f | .vsat _ f
  | .vaddc _ f | .vlea _ f | .vshf _ f | .vbcast _ f | .vreduce _ f | .vscan _ f | .vdot4 _ f | .fadd _ f
  | .fsub _ f | .fmul _ f | .ffma _ f | .fmin _ f | .fmax _ f | .fsgn _ f | .fpack _ f | .fscale _ f | .fdot2 _ f
  | .fwcvt _ f | .fwadd _ f | .mov _ f => f.p.toNat
  | .vabs _ f | .vneg _ f | .vnot _ f | .vpopc _ f | .vclz _ f | .vbrev _ f | .fclass _ f | .frcp _ f | .frsq _ f
  | .fsqrt _ f | .fexp2 _ f | .flog2 _ f | .fsin _ f | .fcos _ f | .ftanh _ f | .frnd _ f => f.p.toNat
  | .vcmp _ f | .fcmp _ f => f.p.toNat
  | .funpack _ f | .movix _ f | .stix _ f | .trow _ f | .qpush _ f | .qpop _ f | .qtry _ f => f.p.toNat
  | .ldG _ f | .ldSp _ f | .ldCl _ f | .ldCh _ f | .ldLn _ f | .stG _ f | .stSp _ f | .stCl _ f | .stCh _ f
  | .stLn _ f => f.p.toNat
  | .gather _ f | .scatter _ f | .atom _ f | .atomr _ f => f.p.toNat
  | .lda _ f | .strel _ f => f.p.toNat
  | .vmovi _ _ _ _ p | .fcvt _ _ _ _ _ _ p | .fmxs _ _ _ _ _ p | .ixset _ _ _ _ p | .park _ _ _ _ p
  | .unpark _ _ _ _ p | .winrd _ _ _ _ p | .cas _ _ _ _ p | .pref _ _ _ _ _ p | .cflush _ _ _ _ _ p
  | .tfill _ _ _ _ _ p => p.toNat
  | _ => 0

/-- A kind-0 prefix in front of `i`, whose bits [17:11] are `n`, holds a non-neutral value in a field that `i` does not
consume, or `i` has a nonzero PR under it (R84, R86); `diff` tells a nonzero PR of an instruction without a predicate. -/
def k0Bad (n : BitVec 7) (i : Instr) (diff : BitVec 32) : Bool :=
  let t := attr i
  match (pfxOf i).k0 with
  | none => false
  | some x =>
    let rcUsed := match t.rc with | .none => false | .vreg => true | .sel => true | .carry => true | .seed => x.rm = 4#3
    (!rcUsed && x.rc ≠ n) || (!t.px && (x.px ≠ 0#4 || x.pn ≠ 0#1)) || (t.ty.isNone && x.ty ≠ 0x1F#5)
      || (t.rm = 0 && x.rm ≠ 0#3) || (!t.sn && x.sn ≠ 0#1) || (t.xo = 0 && x.xo ≠ 0#2) || prOf i ≠ 0
      || diff.extractLsb' 8 2 ≠ 0#2

/-- BAD-EXT for the fields of the prefixes (R86). -/
def badExt (n : BitVec 7) (i : Instr) (diff : BitVec 32) : Bool :=
  k0Bad n i diff || !longOk i || ((attr i).np && ((pfxOf i).k0.isSome || (pfxOf i).long))

/-- BAD-TYPE (R45, R121, R131, R155, R158). -/
def typeOk (i : Instr) : Bool :=
  (match (attr i).ty with | none => true | some (_, ts) => ts.contains (effTy i)) &&
  match i with
  | .vcmp _ f => !(tyRaw (effTy i) && 2 ≤ f.c.toNat && f.c.toNat ≤ 5)
  | .fcvt _ _ t _ _ _ _ =>
    (tysCvt.contains t.toNat || t = 0x09#5) && (tyFloat (effTy i) || tyFloat t.toNat)
  | .fmxs _ t _ _ _ _ => tysMx.contains t.toNat
  | _ => true

/-- BAD-ROUND (R55, R59). -/
def roundOk (i : Instr) : Bool :=
  match (attr i).rm with
  | 0 => true
  | 1 => (pfxOf i).rm ≤ 3
  | _ => (pfxOf i).rm ≤ 3 || ((pfxOf i).rm = 4 && srAllowed (effTy i))

/-- BAD-SPACE (R78, R222). -/
def spaceOk (i : Instr) : Bool :=
  match i with
  | .gather _ f | .scatter _ f | .atom _ f | .atomr _ f => f.s.toNat ≤ 4
  | .cas _ s _ _ _ => s.toNat ≤ 4
  | _ => true

/-- Operands whose size no type gives: VLEA's address pairs (R134) and FWCVT's FW side (R162); and FCVT's sides, each with
the type that it names itself (R155). -/
def typedApart (i : Instr) : List VReg :=
  match i with
  | .vlea _ f => [vdst f.d 2, vsrc f.a 2]
  | .fwcvt e f => if e.xo = 0 then [vdst f.d 4] else [vsrc f.a 4]
  | .fcvt _ _ t a d _ _ =>
    (if tysCvt.contains (effTy i) && effTy i ≠ 0x09 then [vdst d (tyWords (effTy i))] else [])
      ++ (if tysCvt.contains t.toNat || t = 0x09#5 then [vsrc a (tyWords t.toNat)] else [])
  | .gather _ f | .scatter _ f | .atom _ f | .atomr _ f => [pairAB f.g]
  | .cas _ _ g _ _ => [pairAB g]
  | _ => []
/-- Pairs and quads are aligned (R78); a size that the type gives is judged for an accepted type (log entry 6). -/
def alignOk (i : Instr) : Bool :=
  (if typeOk i then regs i else typedApart i).all fun r => !r.al || r.cnt = 0 || r.first % r.cnt = 0

/-- Every vector register named is below the declared count (R31). -/
def rangeOk (k : KCtx) (i : Instr) : Bool := (regs i).all fun r => r.first + r.cnt ≤ k.nregs

/-- GBAR in a kernel without `.gridsync` (R42). -/
def gridOk (k : KCtx) (i : Instr) : Bool := match i with | .gbar _ => k.gridsync | _ => true
/-- RETT and REPLACE outside handler mode (R192, R193). -/
def handlerOk (k : KCtx) (i : Instr) : Bool := match i with | .rett _ | .replace _ _ _ => k.handler | _ => true

/-- The first cause of R90 that applies to an instruction with bits [17:11] `n` whose fixed bits differ from the
opcode table in the positions `diff`; bit 10 is the W bit (R76), every other fixed bit is a reserved field. -/
def semCheck (k : KCtx) (n : BitVec 7) (diff : BitVec 32) (i : Instr) : Option Illegal :=
  if badExt n i diff then some .badExt
  else if diff &&& 0xFFFFFBFF#32 ≠ 0#32 || !fieldsOk k i || !xoListed i || !alignOk i then some .reservedField
  else if diff ≠ 0#32 then some .badW
  else if !typeOk i then some .badType
  else if !roundOk i then some .badRound
  else if !spaceOk i then some .badSpace
  else if !rangeOk k i then some .registerRange
  else if !gridOk k i then some .notGridsync
  else if !handlerOk k i then some .notHandler
  else none

end Sys2Proof.Machine
end

