-- ==== Sys2Proof/Decode.lean ====
section
/-! DEFINITION. Sys2Proof/Decode.lean: from halfwords to an instruction or a cause (R70 to R90), then the encoder. -/

namespace Sys2Proof
open Sys2Proof.Machine

/-- The fields of GForm at their places in a 32-bit word (R77). -/
def toGForm (w : BitVec 32) : GForm :=
  { b := w.extractLsb' 25 7, a := w.extractLsb' 18 7, d := w.extractLsb' 11 7, w := w.extractLsb' 10 1, p := w.extractLsb' 8 2 }

/-- The fields of UForm at their places in a 32-bit word (R77). -/
def toUForm (w : BitVec 32) : UForm :=
  { a := w.extractLsb' 18 7, d := w.extractLsb' 11 7, w := w.extractLsb' 10 1, p := w.extractLsb' 8 2 }

/-- The fields of CForm at their places in a 32-bit word (R77). -/
def toCForm (w : BitVec 32) : CForm :=
  { b := w.extractLsb' 25 7, a := w.extractLsb' 18 7, c := w.extractLsb' 15 3, q := w.extractLsb' 11 4, p := w.extractLsb' 8 2 }

/-- The fields of NForm at their places in a 32-bit word (R77). -/
def toNForm (w : BitVec 32) : NForm :=
  { b := w.extractLsb' 25 7, a := w.extractLsb' 18 7, d := w.extractLsb' 11 7, p := w.extractLsb' 8 2 }

/-- The fields of SForm at their places in a 32-bit word (R77). -/
def toSForm (w : BitVec 32) : SForm :=
  { b := w.extractLsb' 23 6, a := w.extractLsb' 17 6, d := w.extractLsb' 11 6, w := w.extractLsb' 10 1 }

/-- The fields of MForm at their places in a 32-bit word (R77). -/
def toMForm (w : BitVec 32) : MForm :=
  { x := w.extractLsb' 31 1, o := w.extractLsb' 24 7, a := w.extractLsb' 18 6, d := w.extractLsb' 11 7, p := w.extractLsb' 8 2 }

/-- The fields of AForm at their places in a 32-bit word (R77). -/
def toAForm (w : BitVec 32) : AForm :=
  { s := w.extractLsb' 28 3, f := w.extractLsb' 24 4, g := w.extractLsb' 18 6, d := w.extractLsb' 11 7, p := w.extractLsb' 8 2 }

/-- The fields of AqForm at their places in a 32-bit word (R77). -/
def toAqForm (w : BitVec 32) : AqForm :=
  { s := w.extractLsb' 28 3, k := w.extractLsb' 24 4, a := w.extractLsb' 18 6, d := w.extractLsb' 11 7, p := w.extractLsb' 8 2 }

/-- The VUN function page (R88); an unlisted function value is UNDEF-FN (R89). -/
def parseVun (e : Pfx) (w : BitVec 32) : Except Illegal Instr :=
  match (w.extractLsb' 25 7).toNat with
  | 0 => .ok (.vabs e (toUForm w))
  | 1 => .ok (.vneg e (toUForm w))
  | 2 => .ok (.vnot e (toUForm w))
  | 3 => .ok (.vpopc e (toUForm w))
  | 4 => .ok (.vclz e (toUForm w))
  | 5 => .ok (.vbrev e (toUForm w))
  | _ => .error .undefFn

/-- The FUN function page (R88); an unlisted function value is UNDEF-FN (R89). -/
def parseFun (e : Pfx) (w : BitVec 32) : Except Illegal Instr :=
  match (w.extractLsb' 25 7).toNat with
  | 0 => .ok (.fclass e (toUForm w))
  | 1 => .ok (.frcp e (toUForm w))
  | 2 => .ok (.frsq e (toUForm w))
  | 3 => .ok (.fsqrt e (toUForm w))
  | 4 => .ok (.fexp2 e (toUForm w))
  | 5 => .ok (.flog2 e (toUForm w))
  | 6 => .ok (.fsin e (toUForm w))
  | 7 => .ok (.fcos e (toUForm w))
  | 8 => .ok (.ftanh e (toUForm w))
  | _ => .error .undefFn

/-- The SALU function page (R88); an unlisted function value is UNDEF-FN (R89). -/
def parseSalu (e : Pfx) (w : BitVec 32) : Except Illegal Instr :=
  match (w.extractLsb' 29 3).toNat with
  | 0 => .ok (.sadd e (toSForm w))
  | 1 => .ok (.ssub e (toSForm w))
  | 2 => .ok (.smul e (toSForm w))
  | 3 => .ok (.sand e (toSForm w))
  | 4 => .ok (.sor e (toSForm w))
  | 5 => .ok (.sxor e (toSForm w))
  | 6 => .ok (.sshl e (toSForm w))
  | _ => .ok (.sshr e (toSForm w))

/-- The SALU2 function page (R88); an unlisted function value is UNDEF-FN (R89). -/
def parseSalu2 (e : Pfx) (w : BitVec 32) : Except Illegal Instr :=
  match (w.extractLsb' 29 3).toNat with
  | 0 => .ok (.ssra e (toSForm w))
  | 1 => .ok (.smin e (toSForm w))
  | 2 => .ok (.smax e (toSForm w))
  | 3 => .ok (.scmp e (w.extractLsb' 23 6) (w.extractLsb' 17 6))
  | _ => .error .undefFn

/-- The PRED function page (R88); an unlisted function value is UNDEF-FN (R89). -/
def parsePred (e : Pfx) (w : BitVec 32) : Except Illegal Instr :=
  match (w.extractLsb' 29 3).toNat with
  | 0 => .ok (.pand e (w.extractLsb' 23 6) (w.extractLsb' 17 6) (w.extractLsb' 11 6))
  | 1 => .ok (.por e (w.extractLsb' 23 6) (w.extractLsb' 17 6) (w.extractLsb' 11 6))
  | 2 => .ok (.pxor e (w.extractLsb' 23 6) (w.extractLsb' 17 6) (w.extractLsb' 11 6))
  | 3 => .ok (.pandn e (w.extractLsb' 23 6) (w.extractLsb' 17 6) (w.extractLsb' 11 6))
  | 4 => .ok (.pnot e (w.extractLsb' 17 6) (w.extractLsb' 11 6))
  | 5 => .ok (.pset e (w.extractLsb' 17 6) (w.extractLsb' 11 6))
  | 6 => .ok (.pget e (w.extractLsb' 17 6) (w.extractLsb' 11 6))
  | _ => .error .undefFn

/-- A 32-bit word read by its major opcode (R87); an unassigned opcode is UNDEF-OP (R89). The fixed bits are
checked afterwards. -/
def parseWord (e : Pfx) (w : BitVec 32) : Except Illegal Instr :=
  match (w.extractLsb' 1 7).toNat with
  | 0x00 => .ok (.nop e)
  | 0x01 => .ok (.vadd e (toGForm w))
  | 0x02 => .ok (.vsub e (toGForm w))
  | 0x03 => .ok (.vmul e (toGForm w))
  | 0x04 => .ok (.vmulh e (toGForm w))
  | 0x05 => .ok (.vmad e (toGForm w))
  | 0x06 => .ok (.vmin e (toGForm w))
  | 0x07 => .ok (.vmax e (toGForm w))
  | 0x08 => parseVun e w
  | 0x09 => .ok (.vand e (toGForm w))
  | 0x0a => .ok (.vor e (toGForm w))
  | 0x0b => .ok (.vxor e (toGForm w))
  | 0x0c => .ok (.vshl e (toGForm w))
  | 0x0d => .ok (.vshr e (toGForm w))
  | 0x0e => .ok (.vsra e (toGForm w))
  | 0x0f => .ok (.vrot e (toGForm w))
  | 0x10 => .ok (.vbfe e (toGForm w))
  | 0x11 => .ok (.vbfi e (toGForm w))
  | 0x12 => .ok (.vsel e (toGForm w))
  | 0x13 => .ok (.vcmp e (toCForm w))
  | 0x14 => .ok (.vsat e (toGForm w))
  | 0x15 => .ok (.vaddc e (toGForm w))
  | 0x16 => .ok (.vlea e (toGForm w))
  | 0x17 => .ok (.vshf e (toGForm w))
  | 0x18 => .ok (.vbcast e (toGForm w))
  | 0x19 => .ok (.vreduce e (toGForm w))
  | 0x1a => .ok (.vscan e (toGForm w))
  | 0x1b => .ok (.vdot4 e (toGForm w))
  | 0x1c => .ok (.vmovi e (w.extractLsb' 18 14) (w.extractLsb' 11 7) (w.extractLsb' 10 1) (w.extractLsb' 8 2))
  | 0x20 => .ok (.fadd e (toGForm w))
  | 0x21 => .ok (.fsub e (toGForm w))
  | 0x22 => .ok (.fmul e (toGForm w))
  | 0x23 => .ok (.ffma e (toGForm w))
  | 0x24 => .ok (.fmin e (toGForm w))
  | 0x25 => .ok (.fmax e (toGForm w))
  | 0x26 => .ok (.fsgn e (toGForm w))
  | 0x27 => .ok (.fcmp e (toCForm w))
  | 0x28 => parseFun e w
  | 0x29 => .ok (.fcvt e (w.extractLsb' 30 1) (w.extractLsb' 25 5) (w.extractLsb' 18 7) (w.extractLsb' 11 7) (w.extractLsb' 10 1) (w.extractLsb' 8 2))
  | 0x2a => .ok (.fpack e (toGForm w))
  | 0x2b => .ok (.funpack e (toNForm w))
  | 0x2c => .ok (.fscale e (toGForm w))
  | 0x2d => .ok (.frnd e (toUForm w))
  | 0x2e => .ok (.fdot2 e (toGForm w))
  | 0x2f => .ok (.fmxs e (w.extractLsb' 25 5) (w.extractLsb' 18 7) (w.extractLsb' 11 7) (w.extractLsb' 10 1) (w.extractLsb' 8 2))
  | 0x30 => .ok (.fwcvt e (toGForm w))
  | 0x31 => .ok (.fwadd e (toGForm w))
  | 0x34 => parseSalu e w
  | 0x35 => parseSalu2 e w
  | 0x36 => .ok (.saddi e (w.extractLsb' 23 9) (w.extractLsb' 17 6) (w.extractLsb' 11 6) (w.extractLsb' 10 1))
  | 0x37 => .ok (.smovi e (w.extractLsb' 18 14) (w.extractLsb' 11 7) (w.extractLsb' 10 1))
  | 0x38 => parsePred e w
  | 0x39 => .ok (.mov e (toGForm w))
  | 0x3a => .ok (.movix e (toNForm w))
  | 0x3b => .ok (.stix e (toNForm w))
  | 0x3c => .ok (.ixset e (w.extractLsb' 25 7) (w.extractLsb' 13 2) (w.extractLsb' 11 2) (w.extractLsb' 8 2))
  | 0x3d => .ok (.park e (w.extractLsb' 25 4) (w.extractLsb' 18 7) (w.extractLsb' 11 7) (w.extractLsb' 8 2))
  | 0x3e => .ok (.unpark e (w.extractLsb' 25 4) (w.extractLsb' 18 7) (w.extractLsb' 11 7) (w.extractLsb' 8 2))
  | 0x3f => .ok (.winrd e (w.extractLsb' 25 7) (w.extractLsb' 18 3) (w.extractLsb' 11 7) (w.extractLsb' 8 2))
  | 0x40 => .ok (.br e (w.extractLsb' 16 16) (w.extractLsb' 11 5))
  | 0x41 => .ok (.brp e (w.extractLsb' 16 16) (w.extractLsb' 15 1) (w.extractLsb' 11 4))
  | 0x42 => .ok (.jmp e (w.extractLsb' 11 21))
  | 0x43 => .ok (.call e (w.extractLsb' 11 21))
  | 0x44 => .ok (.ret e (w.extractLsb' 18 7))
  | 0x45 => .ok (.split e (w.extractLsb' 26 6) (w.extractLsb' 22 4) (w.extractLsb' 11 11))
  | 0x46 => .ok (.join e (w.extractLsb' 18 7))
  | 0x47 => .ok (.meetset e (w.extractLsb' 11 21))
  | 0x48 => .ok (.elect e (w.extractLsb' 25 7) (w.extractLsb' 18 7) (w.extractLsb' 11 7))
  | 0x49 => .ok (.exit e)
  | 0x4c => .ok (.tcfg e (w.extractLsb' 18 7))
  | 0x4d => if w.extractLsb' 25 7 = 0#7 then .ok (.tclaim e (w.extractLsb' 18 7) (w.extractLsb' 11 7)) else .ok (.tclaimAny e (w.extractLsb' 25 7) (w.extractLsb' 11 7))
  | 0x4e => .ok (.trel e (w.extractLsb' 18 7))
  | 0x4f => .ok (.tstatr e (w.extractLsb' 25 7) (w.extractLsb' 11 7))
  | 0x50 => .ok (.ldG e (toMForm w))
  | 0x51 => .ok (.ldSp e (toMForm w))
  | 0x52 => .ok (.ldCl e (toMForm w))
  | 0x53 => .ok (.ldCh e (toMForm w))
  | 0x54 => .ok (.ldLn e (toMForm w))
  | 0x55 => .ok (.stG e (toMForm w))
  | 0x56 => .ok (.stSp e (toMForm w))
  | 0x57 => .ok (.stCl e (toMForm w))
  | 0x58 => .ok (.stCh e (toMForm w))
  | 0x59 => .ok (.stLn e (toMForm w))
  | 0x5a => .ok (.gather e (toAForm w))
  | 0x5b => .ok (.scatter e (toAForm w))
  | 0x5c => .ok (.atom e (toAForm w))
  | 0x5d => .ok (.atomr e (toAForm w))
  | 0x5e => .ok (.cas e (w.extractLsb' 28 3) (w.extractLsb' 18 6) (w.extractLsb' 11 7) (w.extractLsb' 8 2))
  | 0x5f => .ok (.lda e (toAqForm w))
  | 0x60 => .ok (.strel e (toAqForm w))
  | 0x61 => .ok (.fence e (w.extractLsb' 25 7) (w.extractLsb' 18 7))
  | 0x62 => .ok (.acqPromote e (w.extractLsb' 18 7))
  | 0x63 => .ok (.pref e (w.extractLsb' 31 1) (w.extractLsb' 24 7) (w.extractLsb' 18 6) (w.extractLsb' 11 1) (w.extractLsb' 8 2))
  | 0x64 => .ok (.cflush e (w.extractLsb' 31 1) (w.extractLsb' 24 7) (w.extractLsb' 18 6) (w.extractLsb' 11 2) (w.extractLsb' 8 2))
  | 0x65 => .ok (.tfill e (w.extractLsb' 31 1) (w.extractLsb' 24 7) (w.extractLsb' 18 6) (w.extractLsb' 11 6) (w.extractLsb' 8 2))
  | 0x66 => .ok (.trow e (toNForm w))
  | 0x67 => .ok (.qpush e (toNForm w))
  | 0x68 => .ok (.qpop e (toNForm w))
  | 0x69 => .ok (.qtry e (toNForm w))
  | 0x6a => .ok (.qstat e (w.extractLsb' 25 7) (w.extractLsb' 11 7))
  | 0x6b => .ok (.wait e (w.extractLsb' 26 5) (w.extractLsb' 21 5) (w.extractLsb' 16 5) (w.extractLsb' 11 5))
  | 0x6c => .ok (.barinit e (w.extractLsb' 25 7) (w.extractLsb' 18 7) (w.extractLsb' 11 7))
  | 0x6d => if w.extractLsb' 25 1 = 0#1 then .ok (.bararr e (w.extractLsb' 11 7)) else .ok (.bararrN e (w.extractLsb' 18 7) (w.extractLsb' 11 7))
  | 0x6e => .ok (.barexp e (w.extractLsb' 18 7) (w.extractLsb' 11 7))
  | 0x6f => .ok (.barwait e (w.extractLsb' 18 7) (w.extractLsb' 11 7))
  | 0x70 => .ok (.bartest e (w.extractLsb' 25 7) (w.extractLsb' 18 7) (w.extractLsb' 11 7))
  | 0x71 => .ok (.gbar e)
  | 0x72 => .ok (.trap e (w.extractLsb' 23 8))
  | 0x73 => .ok (.tfence e)
  | 0x74 => .ok (.rett e)
  | 0x75 => .ok (.sprr e (w.extractLsb' 23 9) (w.extractLsb' 11 6))
  | 0x76 => .ok (.sprw e (w.extractLsb' 23 9) (w.extractLsb' 17 6))
  | 0x77 => .ok (.yield e)
  | 0x78 => .ok (.sleep e (w.extractLsb' 18 7))
  | 0x79 => .ok (.getid e (w.extractLsb' 23 9) (w.extractLsb' 17 6) (w.extractLsb' 11 6))
  | 0x7a => .ok (.replace e (w.extractLsb' 25 7) (w.extractLsb' 18 7))
  | _ => .error .undefOp

/-- A 16-bit word read by OP4 (R80 to R82). -/
def parseShort (h : BitVec 16) : Except Illegal Instr :=
  if h = 0#16 then .error .zeroWord else
  let b := h.extractLsb' 11 5
  let d := h.extractLsb' 5 6
  match (h.extractLsb' 1 4).toNat with
  | 0 => if b.zeroExtend 6 = d then .ok (.nop16 b) else .ok (.vmov b d)
  | 1 => .ok (.vmoviShort b d)
  | 2 => .ok (.vaddShort b d)
  | 3 => .ok (.vsubShort b d)
  | 4 => .ok (.vmulShort b d)
  | 5 => .ok (.vaddi b d)
  | 6 => .ok (.vandShort b d)
  | 7 => .ok (.vorShort b d)
  | 8 => .ok (.vxorShort b d)
  | 9 => .ok (.vshlI b d)
  | 10 => .ok (.vshrI b d)
  | 11 => .ok (.faddShort b d)
  | 12 => .ok (.fsubShort b d)
  | 13 => .ok (.fmulShort b d)
  | 14 => .ok (.fmaxShort b d)
  | _ => .ok (.fminShort b d)

/-- A 32-bit word is an EXT prefix (R83). -/
def isExt (w : Word) : Bool := w.extractLsb' 0 8 = 0xFF#8

/-- The payload of a kind-0 EXT (R84). -/
def toExt0 (w : Word) : Ext0 :=
  { rc := w.extractLsb' 25 7, px := w.extractLsb' 21 4, pn := w.extractLsb' 20 1, ty := w.extractLsb' 15 5,
    rm := w.extractLsb' 12 3, sn := w.extractLsb' 11 1, xo := w.extractLsb' 9 2 }

/-- What the halfwords seen so far are: too few, a bad sequence, a 16-bit word, or a prefixed 32-bit word; with the
number of halfwords of the instruction. -/
inductive Scan where
  | more
  | stop (c : Illegal) (n : Nat)
  | short (h : Half)
  | word (e : Pfx) (w : Word) (n : Nat)
  deriving DecidableEq, Repr

/-- Reads prefixes and the prefixed word (R70 to R72, R83, R86). Every word of the instruction is read before any is
judged: `bad` tells that a prefix before broke R86. -/
def scan (e : Pfx) (bad : Bool) (n : Nat) : List Half → Scan
  | [] => .more
  | h :: t =>
    if h.getLsbD 0 = false then
      if h = 0#16 then .stop .zeroWord (n + 1)
      else if bad || e.k0.isSome || e.k1.isSome then .stop .badExt (n + 1) else .short h
    else
      match t with
      | [] => .more
      | h2 :: t2 =>
        let w : Word := h2 ++ h
        if w = 0xFFFFFFFF#32 then .stop .onesWord (n + 2)
        else if isExt w then
          if w.getLsbD 8 = false then
            scan { e with k0 := some (toExt0 w) } (bad || e.k0.isSome || e.k1.isSome) (n + 2) t2
          else scan { e with k1 := some (w.extractLsb' 9 23) } (bad || e.k1.isSome) (n + 2) t2
        else if bad then .stop .badExt (n + 2)
        else .word e w (n + 2)

/-- A prefixed 32-bit word decoded for a kernel: the instruction, or the first cause of R90. -/
def decodeWord (k : KCtx) (e : Pfx) (w : Word) : Except Illegal Instr :=
  match parseWord e w with
  | .error c => if e.k0.isSome && w.extractLsb' 8 2 ≠ 0#2 then .error .badExt else .error c
  | .ok i =>
    match semCheck k (w.extractLsb' 11 7) ((w ^^^ fixedBits i) &&& fixedMask i) i with
    | some c => .error c
    | none => .ok i

/-- A 16-bit word decoded for a kernel (R80 to R82). -/
def decodeShort (k : KCtx) (h : Half) : Except Illegal Instr :=
  match parseShort h with
  | .error c => .error c
  | .ok i => if rangeOk k i then .ok i else .error .registerRange

/-- The outcome of decoding: more halfwords are needed, an illegal instruction, or an instruction; with its length in
halfwords. -/
inductive Decoded where
  | more
  | bad (c : Illegal) (n : Nat)
  | ok (i : Instr) (n : Nat)
  deriving DecidableEq, Repr

/-- Decodes the instruction that starts a list of halfwords. -/
def decode (k : KCtx) (hs : List Half) : Decoded :=
  match scan ⟨none, none⟩ false 0 hs with
  | .more => .more
  | .stop c n => .bad c n
  | .short h => match decodeShort k h with | .ok i => .ok i 1 | .error c => .bad c 1
  | .word e w n => match decodeWord k e w with | .ok i => .ok i n | .error c => .bad c n

/-- A kernel that shuts no instruction out: 128 registers, 64 lanes, `.gridsync`, in a handler. -/
def anyKernel : KCtx := ⟨128, 64, true, true⟩

/-- Halfwords of the instruction whose bits are `w`, numbered as the opcode table numbers them: `n` of them, the first
at the lowest address. -/
def halvesOf (w : Nat) : Nat → List Half
  | 0 => []
  | n + 1 => BitVec.ofNat 16 w :: halvesOf (w / 65536) n

/-- The instruction the decoder reads from the table's bits; bits at and above `nbits` are zero. -/
def decodeTableWord (nbits w : Nat) : Option Instr :=
  match decode anyKernel (halvesOf (w % 2 ^ nbits) 6) with
  | .ok i _ => some i
  | _ => none

/-- The 32-bit word of an instruction, fields from high to low (R77 and the family chapters); none for a short form
or an event. -/
def encodeWord : Instr → Option (BitVec 32)
  | .nop _ => some (0x1#32)
  | .vadd _ f => some (f.b ++ f.a ++ f.d ++ f.w ++ f.p ++ 0x3#8)
  | .vsub _ f => some (f.b ++ f.a ++ f.d ++ f.w ++ f.p ++ 0x5#8)
  | .vmul _ f => some (f.b ++ f.a ++ f.d ++ f.w ++ f.p ++ 0x7#8)
  | .vmulh _ f => some (f.b ++ f.a ++ f.d ++ f.w ++ f.p ++ 0x9#8)
  | .vmad _ f => some (f.b ++ f.a ++ f.d ++ f.w ++ f.p ++ 0xb#8)
  | .vmin _ f => some (f.b ++ f.a ++ f.d ++ f.w ++ f.p ++ 0xd#8)
  | .vmax _ f => some (f.b ++ f.a ++ f.d ++ f.w ++ f.p ++ 0xf#8)
  | .vabs _ f => some (0x0#7 ++ f.a ++ f.d ++ f.w ++ f.p ++ 0x11#8)
  | .vneg _ f => some (0x1#7 ++ f.a ++ f.d ++ f.w ++ f.p ++ 0x11#8)
  | .vnot _ f => some (0x2#7 ++ f.a ++ f.d ++ f.w ++ f.p ++ 0x11#8)
  | .vpopc _ f => some (0x3#7 ++ f.a ++ f.d ++ f.w ++ f.p ++ 0x11#8)
  | .vclz _ f => some (0x4#7 ++ f.a ++ f.d ++ f.w ++ f.p ++ 0x11#8)
  | .vbrev _ f => some (0x5#7 ++ f.a ++ f.d ++ f.w ++ f.p ++ 0x11#8)
  | .vand _ f => some (f.b ++ f.a ++ f.d ++ f.w ++ f.p ++ 0x13#8)
  | .vor _ f => some (f.b ++ f.a ++ f.d ++ f.w ++ f.p ++ 0x15#8)
  | .vxor _ f => some (f.b ++ f.a ++ f.d ++ f.w ++ f.p ++ 0x17#8)
  | .vshl _ f => some (f.b ++ f.a ++ f.d ++ f.w ++ f.p ++ 0x19#8)
  | .vshr _ f => some (f.b ++ f.a ++ f.d ++ f.w ++ f.p ++ 0x1b#8)
  | .vsra _ f => some (f.b ++ f.a ++ f.d ++ f.w ++ f.p ++ 0x1d#8)
  | .vrot _ f => some (f.b ++ f.a ++ f.d ++ f.w ++ f.p ++ 0x1f#8)
  | .vbfe _ f => some (f.b ++ f.a ++ f.d ++ f.w ++ f.p ++ 0x21#8)
  | .vbfi _ f => some (f.b ++ f.a ++ f.d ++ f.w ++ f.p ++ 0x23#8)
  | .vsel _ f => some (f.b ++ f.a ++ f.d ++ f.w ++ f.p ++ 0x25#8)
  | .vcmp _ f => some (f.b ++ f.a ++ f.c ++ f.q ++ 0x0#1 ++ f.p ++ 0x27#8)
  | .vsat _ f => some (f.b ++ f.a ++ f.d ++ f.w ++ f.p ++ 0x29#8)
  | .vaddc _ f => some (f.b ++ f.a ++ f.d ++ f.w ++ f.p ++ 0x2b#8)
  | .vlea _ f => some (f.b ++ f.a ++ f.d ++ f.w ++ f.p ++ 0x2d#8)
  | .vshf _ f => some (f.b ++ f.a ++ f.d ++ f.w ++ f.p ++ 0x2f#8)
  | .vbcast _ f => some (f.b ++ f.a ++ f.d ++ f.w ++ f.p ++ 0x31#8)
  | .vreduce _ f => some (f.b ++ f.a ++ f.d ++ f.w ++ f.p ++ 0x33#8)
  | .vscan _ f => some (f.b ++ f.a ++ f.d ++ f.w ++ f.p ++ 0x35#8)
  | .vdot4 _ f => some (f.b ++ f.a ++ f.d ++ f.w ++ f.p ++ 0x37#8)
  | .vmovi _ i d w p => some (i ++ d ++ w ++ p ++ 0x39#8)
  | .fadd _ f => some (f.b ++ f.a ++ f.d ++ f.w ++ f.p ++ 0x41#8)
  | .fsub _ f => some (f.b ++ f.a ++ f.d ++ f.w ++ f.p ++ 0x43#8)
  | .fmul _ f => some (f.b ++ f.a ++ f.d ++ f.w ++ f.p ++ 0x45#8)
  | .ffma _ f => some (f.b ++ f.a ++ f.d ++ f.w ++ f.p ++ 0x47#8)
  | .fmin _ f => some (f.b ++ f.a ++ f.d ++ f.w ++ f.p ++ 0x49#8)
  | .fmax _ f => some (f.b ++ f.a ++ f.d ++ f.w ++ f.p ++ 0x4b#8)
  | .fsgn _ f => some (f.b ++ f.a ++ f.d ++ f.w ++ f.p ++ 0x4d#8)
  | .fcmp _ f => some (f.b ++ f.a ++ f.c ++ f.q ++ 0x0#1 ++ f.p ++ 0x4f#8)
  | .fclass _ f => some (0x0#7 ++ f.a ++ f.d ++ f.w ++ f.p ++ 0x51#8)
  | .frcp _ f => some (0x1#7 ++ f.a ++ f.d ++ f.w ++ f.p ++ 0x51#8)
  | .frsq _ f => some (0x2#7 ++ f.a ++ f.d ++ f.w ++ f.p ++ 0x51#8)
  | .fsqrt _ f => some (0x3#7 ++ f.a ++ f.d ++ f.w ++ f.p ++ 0x51#8)
  | .fexp2 _ f => some (0x4#7 ++ f.a ++ f.d ++ f.w ++ f.p ++ 0x51#8)
  | .flog2 _ f => some (0x5#7 ++ f.a ++ f.d ++ f.w ++ f.p ++ 0x51#8)
  | .fsin _ f => some (0x6#7 ++ f.a ++ f.d ++ f.w ++ f.p ++ 0x51#8)
  | .fcos _ f => some (0x7#7 ++ f.a ++ f.d ++ f.w ++ f.p ++ 0x51#8)
  | .ftanh _ f => some (0x8#7 ++ f.a ++ f.d ++ f.w ++ f.p ++ 0x51#8)
  | .fcvt _ s t a d w p => some (0x0#1 ++ s ++ t ++ a ++ d ++ w ++ p ++ 0x53#8)
  | .fpack _ f => some (f.b ++ f.a ++ f.d ++ f.w ++ f.p ++ 0x55#8)
  | .funpack _ f => some (f.b ++ f.a ++ f.d ++ 0x0#1 ++ f.p ++ 0x57#8)
  | .fscale _ f => some (f.b ++ f.a ++ f.d ++ f.w ++ f.p ++ 0x59#8)
  | .frnd _ f => some (0x0#7 ++ f.a ++ f.d ++ f.w ++ f.p ++ 0x5b#8)
  | .fdot2 _ f => some (f.b ++ f.a ++ f.d ++ f.w ++ f.p ++ 0x5d#8)
  | .fmxs _ t a d w p => some (0x0#2 ++ t ++ a ++ d ++ w ++ p ++ 0x5f#8)
  | .fwcvt _ f => some (f.b ++ f.a ++ f.d ++ f.w ++ f.p ++ 0x61#8)
  | .fwadd _ f => some (f.b ++ f.a ++ f.d ++ f.w ++ f.p ++ 0x63#8)
  | .sadd _ f => some (0x0#3 ++ f.b ++ f.a ++ f.d ++ f.w ++ 0x69#10)
  | .ssub _ f => some (0x1#3 ++ f.b ++ f.a ++ f.d ++ f.w ++ 0x69#10)
  | .smul _ f => some (0x2#3 ++ f.b ++ f.a ++ f.d ++ f.w ++ 0x69#10)
  | .sand _ f => some (0x3#3 ++ f.b ++ f.a ++ f.d ++ f.w ++ 0x69#10)
  | .sor _ f => some (0x4#3 ++ f.b ++ f.a ++ f.d ++ f.w ++ 0x69#10)
  | .sxor _ f => some (0x5#3 ++ f.b ++ f.a ++ f.d ++ f.w ++ 0x69#10)
  | .sshl _ f => some (0x6#3 ++ f.b ++ f.a ++ f.d ++ f.w ++ 0x69#10)
  | .sshr _ f => some (0x7#3 ++ f.b ++ f.a ++ f.d ++ f.w ++ 0x69#10)
  | .ssra _ f => some (0x0#3 ++ f.b ++ f.a ++ f.d ++ f.w ++ 0x6b#10)
  | .smin _ f => some (0x1#3 ++ f.b ++ f.a ++ f.d ++ f.w ++ 0x6b#10)
  | .smax _ f => some (0x2#3 ++ f.b ++ f.a ++ f.d ++ f.w ++ 0x6b#10)
  | .scmp _ b a => some (0x3#3 ++ b ++ a ++ 0x6b#17)
  | .saddi _ i a d w => some (i ++ a ++ d ++ w ++ 0x6d#10)
  | .smovi _ i d w => some (i ++ d ++ w ++ 0x6f#10)
  | .pand _ b a d => some (0x0#3 ++ b ++ a ++ d ++ 0x71#11)
  | .por _ b a d => some (0x1#3 ++ b ++ a ++ d ++ 0x71#11)
  | .pxor _ b a d => some (0x2#3 ++ b ++ a ++ d ++ 0x71#11)
  | .pandn _ b a d => some (0x3#3 ++ b ++ a ++ d ++ 0x71#11)
  | .pnot _ a d => some (0x100#9 ++ a ++ d ++ 0x71#11)
  | .pset _ a d => some (0x140#9 ++ a ++ d ++ 0x71#11)
  | .pget _ a d => some (0x180#9 ++ a ++ d ++ 0x71#11)
  | .mov _ f => some (f.b ++ f.a ++ f.d ++ f.w ++ f.p ++ 0x73#8)
  | .movix _ f => some (f.b ++ f.a ++ f.d ++ 0x0#1 ++ f.p ++ 0x75#8)
  | .stix _ f => some (f.b ++ f.a ++ f.d ++ 0x0#1 ++ f.p ++ 0x77#8)
  | .ixset _ b m k p => some (b ++ 0x0#10 ++ m ++ k ++ 0x0#1 ++ p ++ 0x79#8)
  | .park _ c a d p => some (0x0#3 ++ c ++ a ++ d ++ 0x0#1 ++ p ++ 0x7b#8)
  | .unpark _ c a d p => some (0x0#3 ++ c ++ a ++ d ++ 0x0#1 ++ p ++ 0x7d#8)
  | .winrd _ b k d p => some (b ++ 0x0#4 ++ k ++ d ++ 0x0#1 ++ p ++ 0x7f#8)
  | .br _ i c => some (i ++ c ++ 0x81#11)
  | .brp _ i s k => some (i ++ s ++ k ++ 0x83#11)
  | .jmp _ i => some (i ++ 0x85#11)
  | .call _ i => some (i ++ 0x87#11)
  | .ret _ a => some (0x0#7 ++ a ++ 0x89#18)
  | .split _ f q i => some (f ++ q ++ i ++ 0x8b#11)
  | .join _ a => some (0x0#7 ++ a ++ 0x8d#18)
  | .meetset _ i => some (i ++ 0x8f#11)
  | .elect _ b a d => some (b ++ a ++ d ++ 0x91#11)
  | .exit _ => some (0x93#32)
  | .tcfg _ a => some (0x0#7 ++ a ++ 0x99#18)
  | .tclaim _ a d => some (0x0#7 ++ a ++ d ++ 0x9b#11)
  | .tclaimAny _ n d => some (n ++ 0x0#7 ++ d ++ 0x9b#11)
  | .trel _ a => some (0x0#7 ++ a ++ 0x9d#18)
  | .tstatr _ s d => some (s ++ 0x0#7 ++ d ++ 0x9f#11)
  | .ldG _ f => some (f.x ++ f.o ++ f.a ++ f.d ++ 0x0#1 ++ f.p ++ 0xa1#8)
  | .ldSp _ f => some (f.x ++ f.o ++ f.a ++ f.d ++ 0x0#1 ++ f.p ++ 0xa3#8)
  | .ldCl _ f => some (f.x ++ f.o ++ f.a ++ f.d ++ 0x0#1 ++ f.p ++ 0xa5#8)
  | .ldCh _ f => some (f.x ++ f.o ++ f.a ++ f.d ++ 0x0#1 ++ f.p ++ 0xa7#8)
  | .ldLn _ f => some (f.x ++ f.o ++ f.a ++ f.d ++ 0x0#1 ++ f.p ++ 0xa9#8)
  | .stG _ f => some (f.x ++ f.o ++ f.a ++ f.d ++ 0x0#1 ++ f.p ++ 0xab#8)
  | .stSp _ f => some (f.x ++ f.o ++ f.a ++ f.d ++ 0x0#1 ++ f.p ++ 0xad#8)
  | .stCl _ f => some (f.x ++ f.o ++ f.a ++ f.d ++ 0x0#1 ++ f.p ++ 0xaf#8)
  | .stCh _ f => some (f.x ++ f.o ++ f.a ++ f.d ++ 0x0#1 ++ f.p ++ 0xb1#8)
  | .stLn _ f => some (f.x ++ f.o ++ f.a ++ f.d ++ 0x0#1 ++ f.p ++ 0xb3#8)
  | .gather _ f => some (0x0#1 ++ f.s ++ f.f ++ f.g ++ f.d ++ 0x0#1 ++ f.p ++ 0xb5#8)
  | .scatter _ f => some (0x0#1 ++ f.s ++ f.f ++ f.g ++ f.d ++ 0x0#1 ++ f.p ++ 0xb7#8)
  | .atom _ f => some (0x0#1 ++ f.s ++ f.f ++ f.g ++ f.d ++ 0x0#1 ++ f.p ++ 0xb9#8)
  | .atomr _ f => some (0x0#1 ++ f.s ++ f.f ++ f.g ++ f.d ++ 0x0#1 ++ f.p ++ 0xbb#8)
  | .cas _ s g d p => some (0x0#1 ++ s ++ 0x0#4 ++ g ++ d ++ 0x0#1 ++ p ++ 0xbd#8)
  | .lda _ f => some (0x1#1 ++ f.s ++ f.k ++ f.a ++ f.d ++ 0x0#1 ++ f.p ++ 0xbf#8)
  | .strel _ f => some (0x1#1 ++ f.s ++ f.k ++ f.a ++ f.d ++ 0x0#1 ++ f.p ++ 0xc1#8)
  | .fence _ b a => some (b ++ a ++ 0xc3#18)
  | .acqPromote _ a => some (0x0#7 ++ a ++ 0xc5#18)
  | .pref _ x o a l p => some (x ++ o ++ a ++ 0x0#6 ++ l ++ 0x0#1 ++ p ++ 0xc7#8)
  | .cflush _ x o a l p => some (x ++ o ++ a ++ 0x0#5 ++ l ++ 0x0#1 ++ p ++ 0xc9#8)
  | .tfill _ x o a d p => some (x ++ o ++ a ++ 0x0#1 ++ d ++ 0x0#1 ++ p ++ 0xcb#8)
  | .trow _ f => some (f.b ++ f.a ++ f.d ++ 0x0#1 ++ f.p ++ 0xcd#8)
  | .qpush _ f => some (f.b ++ f.a ++ f.d ++ 0x0#1 ++ f.p ++ 0xcf#8)
  | .qpop _ f => some (f.b ++ f.a ++ f.d ++ 0x0#1 ++ f.p ++ 0xd1#8)
  | .qtry _ f => some (f.b ++ f.a ++ f.d ++ 0x0#1 ++ f.p ++ 0xd3#8)
  | .qstat _ b d => some (b ++ 0x0#7 ++ d ++ 0xd5#11)
  | .wait _ t n s l => some (0x0#1 ++ t ++ n ++ s ++ l ++ 0xd7#11)
  | .barinit _ b a d => some (b ++ a ++ d ++ 0xd9#11)
  | .bararr _ d => some (0x0#14 ++ d ++ 0xdb#11)
  | .bararrN _ a d => some (0x1#7 ++ a ++ d ++ 0xdb#11)
  | .barexp _ a d => some (0x0#7 ++ a ++ d ++ 0xdd#11)
  | .barwait _ a d => some (0x0#7 ++ a ++ d ++ 0xdf#11)
  | .bartest _ b a d => some (b ++ a ++ d ++ 0xe1#11)
  | .gbar _ => some (0xe3#32)
  | .trap _ i => some (0x0#1 ++ i ++ 0xe5#23)
  | .tfence _ => some (0xe7#32)
  | .rett _ => some (0xe9#32)
  | .sprr _ i d => some (i ++ 0x0#6 ++ d ++ 0xeb#11)
  | .sprw _ i a => some (i ++ a ++ 0xed#17)
  | .yield _ => some (0xef#32)
  | .sleep _ a => some (0x0#7 ++ a ++ 0xf1#18)
  | .getid _ i a d => some (i ++ a ++ d ++ 0xf3#11)
  | .replace _ b a => some (b ++ a ++ 0xf5#18)
  | .vmov _ _ => none
  | .nop16 _ => none
  | .vmoviShort _ _ => none
  | .vaddShort _ _ => none
  | .vsubShort _ _ => none
  | .vmulShort _ _ => none
  | .vaddi _ _ => none
  | .vandShort _ _ => none
  | .vorShort _ _ => none
  | .vxorShort _ _ => none
  | .vshlI _ _ => none
  | .vshrI _ _ => none
  | .faddShort _ _ => none
  | .fsubShort _ _ => none
  | .fmulShort _ _ => none
  | .fmaxShort _ _ => none
  | .fminShort _ _ => none
  | .illegalInstruction _ => none
  | .instructionFetchFault _ _ _ _ => none
  | .trapEntry _ => none
  | .teamPlacement _ _ => none
  | .groupRetirement _ => none
  | .loadDataReturn _ _ => none
  | .storePerformed _ _ => none
  | .waitCompletion _ _ => none
  | .sleepTimeout _ _ => none
  | .queueRoomFreed _ _ => none
  | .queueEntriesArrive _ _ => none
  | .byteCredit _ => none
  | .editionSweepEnd _ _ => none
  | .mscMissFetch _ _ _ _ => none
  | .rdsh _ _ => none
  | .rdown _ _ => none
  | .upgrade _ _ => none
  | .wback _ _ => none
  | .evict _ _ => none
  | .hostOwnershipRequest _ => none
  | .cxlMemAccess _ _ _ _ _ _ => none
  | .translationWalk _ _ _ _ _ => none
  | .freplyReplay _ _ _ => none
  | .freplyDeliver _ _ _ => none
  | .freplyTerminate _ _ _ => none
  | .freplyDiscard _ _ _ => none
  | .xinvGo _ _ _ => none
  | .xinvComplete _ _ => none
  | .xwinv _ _ _ => none
  | .xwinvComplete _ _ => none
  | .migrationStart _ _ _ _ => none
  | .migrationLineMove _ _ _ => none
  | .migrationEnd _ _ _ _ => none
  | .atsInvalidationRequest _ _ _ _ => none
  | .atsInvalidationCompletion _ _ => none
  | .atsTranslationCompletion _ _ _ _ _ => none
  | .pageRequestResponse _ _ _ => none
  | .pageRequestTimeout _ _ => none
  | .matrixBlockRead _ => none
  | .matrixOperationStart _ => none
  | .matrixProducts _ => none
  | .drain _ => none
  | .matrixCompletion _ _ => none
  | .commandBlockRead _ _ => none
  | .copy _ _ => none
  | .read _ => none
  | .write _ => none
  | .commandAtom _ => none
  | .commandCas _ => none
  | .reduce _ _ => none
  | .kalloc _ => none
  | .kfree _ => none
  | .signal _ => none
  | .commandCompletion _ => none
  | .spanTagCheck _ _ _ => none
  | .spanTimeout _ _ => none
  | .inboundRequest _ _ _ _ _ _ _ _ _ _ => none
  | .taskPacketSend _ => none
  | .taskPacketArrival _ => none
  | .taskRecord _ => none
  | .graphRootPush _ => none
  | .nodeReady _ _ => none
  | .nodeCompletion _ _ => none
  | .armedLineReread _ _ => none
  | .bankSwap _ => none
  | .sliceExpiry _ _ => none
  | .spillStart _ _ => none
  | .spillComplete _ _ => none
  | .imageCopyOut _ => none
  | .imageCopyIn _ _ => none
  | .fill _ _ => none
  | .contextEnd _ _ => none
  | .kill _ _ => none
  | .audit _ => none
  | .migctlGo _ _ _ => none
  | .tenantMoveComplete _ _ => none
  | .tenantMoveFailed _ _ => none
  | .packetReceive _ _ _ _ _ => none
  | .acknowledgement _ _ _ => none
  | .negativeAcknowledgement _ _ _ => none
  | .linkRetrain _ _ => none
  | .peerUnreachable _ _ => none
  | .mirrorUpdate _ => none
  | .switchLoss _ _ => none
  | .dcAddExtent _ _ _ _ _ => none
  | .dcReleaseRequest _ _ => none
  | .dcReleaseResponse _ _ => none
  | .viralIndication _ _ => none
  | .cxlReset _ _ => none
  | .viralClear _ _ => none
  | .lineclrGo _ _ _ => none
  | .lineClearDone _ _ => none
  | .throttleStepUp _ _ _ _ => none
  | .throttleToFloor _ _ _ => none
  | .throttleStepDown _ _ => none
  | .clockChange _ => none
  | .prepare _ => none
  | .commit _ => none
  | .abort _ => none
  | .layoutApplied _ => none
  | .shadowWrite _ _ _ => none
  | .watchdogReset _ => none
  | .powerOnReset _ => none
  | .recoveryImage _ _ => none
  | .getVersion _ => none
  | .getCapabilities _ => none
  | .negotiateAlgorithms _ _ => none
  | .getDigests _ => none
  | .getCertificate _ _ => none
  | .challenge _ _ => none
  | .getMeasurements _ _ _ => none
  | .keyExchange _ _ => none
  | .finish _ _ _ => none
  | .keyUpdate _ _ => none
  | .heartbeat _ _ => none
  | .endSession _ _ => none
  | .sensorTrip _ _ => none
  | .registerWrite _ _ _ _ _ => none
  | .backInvalidationCompletion _ => none
  | .invalidationAcknowledgement _ _ => none
  | .invalidateRequest _ _ => none
  | .peerAdmitted _ _ => none
  | .switchReturn _ _ => none
  | .hostLinkTrained _ _ _ => none
  | .armaddrWrite _ _ _ => none
  | .ideKm _ _ _ _ => none

/-- The 16-bit word of a short form (R80, R81); none for any other instruction. -/
def encodeShort : Instr → Option (BitVec 16)
  | .nop _ => none
  | .vadd _ _ => none
  | .vsub _ _ => none
  | .vmul _ _ => none
  | .vmulh _ _ => none
  | .vmad _ _ => none
  | .vmin _ _ => none
  | .vmax _ _ => none
  | .vabs _ _ => none
  | .vneg _ _ => none
  | .vnot _ _ => none
  | .vpopc _ _ => none
  | .vclz _ _ => none
  | .vbrev _ _ => none
  | .vand _ _ => none
  | .vor _ _ => none
  | .vxor _ _ => none
  | .vshl _ _ => none
  | .vshr _ _ => none
  | .vsra _ _ => none
  | .vrot _ _ => none
  | .vbfe _ _ => none
  | .vbfi _ _ => none
  | .vsel _ _ => none
  | .vcmp _ _ => none
  | .vsat _ _ => none
  | .vaddc _ _ => none
  | .vlea _ _ => none
  | .vshf _ _ => none
  | .vbcast _ _ => none
  | .vreduce _ _ => none
  | .vscan _ _ => none
  | .vdot4 _ _ => none
  | .vmovi _ _ _ _ _ => none
  | .fadd _ _ => none
  | .fsub _ _ => none
  | .fmul _ _ => none
  | .ffma _ _ => none
  | .fmin _ _ => none
  | .fmax _ _ => none
  | .fsgn _ _ => none
  | .fcmp _ _ => none
  | .fclass _ _ => none
  | .frcp _ _ => none
  | .frsq _ _ => none
  | .fsqrt _ _ => none
  | .fexp2 _ _ => none
  | .flog2 _ _ => none
  | .fsin _ _ => none
  | .fcos _ _ => none
  | .ftanh _ _ => none
  | .fcvt _ _ _ _ _ _ _ => none
  | .fpack _ _ => none
  | .funpack _ _ => none
  | .fscale _ _ => none
  | .frnd _ _ => none
  | .fdot2 _ _ => none
  | .fmxs _ _ _ _ _ _ => none
  | .fwcvt _ _ => none
  | .fwadd _ _ => none
  | .sadd _ _ => none
  | .ssub _ _ => none
  | .smul _ _ => none
  | .sand _ _ => none
  | .sor _ _ => none
  | .sxor _ _ => none
  | .sshl _ _ => none
  | .sshr _ _ => none
  | .ssra _ _ => none
  | .smin _ _ => none
  | .smax _ _ => none
  | .scmp _ _ _ => none
  | .saddi _ _ _ _ _ => none
  | .smovi _ _ _ _ => none
  | .pand _ _ _ _ => none
  | .por _ _ _ _ => none
  | .pxor _ _ _ _ => none
  | .pandn _ _ _ _ => none
  | .pnot _ _ _ => none
  | .pset _ _ _ => none
  | .pget _ _ _ => none
  | .mov _ _ => none
  | .movix _ _ => none
  | .stix _ _ => none
  | .ixset _ _ _ _ _ => none
  | .park _ _ _ _ _ => none
  | .unpark _ _ _ _ _ => none
  | .winrd _ _ _ _ _ => none
  | .br _ _ _ => none
  | .brp _ _ _ _ => none
  | .jmp _ _ => none
  | .call _ _ => none
  | .ret _ _ => none
  | .split _ _ _ _ => none
  | .join _ _ => none
  | .meetset _ _ => none
  | .elect _ _ _ _ => none
  | .exit _ => none
  | .tcfg _ _ => none
  | .tclaim _ _ _ => none
  | .tclaimAny _ _ _ => none
  | .trel _ _ => none
  | .tstatr _ _ _ => none
  | .ldG _ _ => none
  | .ldSp _ _ => none
  | .ldCl _ _ => none
  | .ldCh _ _ => none
  | .ldLn _ _ => none
  | .stG _ _ => none
  | .stSp _ _ => none
  | .stCl _ _ => none
  | .stCh _ _ => none
  | .stLn _ _ => none
  | .gather _ _ => none
  | .scatter _ _ => none
  | .atom _ _ => none
  | .atomr _ _ => none
  | .cas _ _ _ _ _ => none
  | .lda _ _ => none
  | .strel _ _ => none
  | .fence _ _ _ => none
  | .acqPromote _ _ => none
  | .pref _ _ _ _ _ _ => none
  | .cflush _ _ _ _ _ _ => none
  | .tfill _ _ _ _ _ _ => none
  | .trow _ _ => none
  | .qpush _ _ => none
  | .qpop _ _ => none
  | .qtry _ _ => none
  | .qstat _ _ _ => none
  | .wait _ _ _ _ _ => none
  | .barinit _ _ _ _ => none
  | .bararr _ _ => none
  | .bararrN _ _ _ => none
  | .barexp _ _ _ => none
  | .barwait _ _ _ => none
  | .bartest _ _ _ _ => none
  | .gbar _ => none
  | .trap _ _ => none
  | .tfence _ => none
  | .rett _ => none
  | .sprr _ _ _ => none
  | .sprw _ _ _ => none
  | .yield _ => none
  | .sleep _ _ => none
  | .getid _ _ _ _ => none
  | .replace _ _ _ => none
  | .vmov b d => some (b ++ d ++ 0x0#4 ++ 0#1)
  | .nop16 r => some (r ++ r.zeroExtend 6 ++ 0x0#4 ++ 0#1)
  | .vmoviShort i d => some (i ++ d ++ 0x1#4 ++ 0#1)
  | .vaddShort b d => some (b ++ d ++ 0x2#4 ++ 0#1)
  | .vsubShort b d => some (b ++ d ++ 0x3#4 ++ 0#1)
  | .vmulShort b d => some (b ++ d ++ 0x4#4 ++ 0#1)
  | .vaddi i d => some (i ++ d ++ 0x5#4 ++ 0#1)
  | .vandShort b d => some (b ++ d ++ 0x6#4 ++ 0#1)
  | .vorShort b d => some (b ++ d ++ 0x7#4 ++ 0#1)
  | .vxorShort b d => some (b ++ d ++ 0x8#4 ++ 0#1)
  | .vshlI i d => some (i ++ d ++ 0x9#4 ++ 0#1)
  | .vshrI i d => some (i ++ d ++ 0xa#4 ++ 0#1)
  | .faddShort b d => some (b ++ d ++ 0xb#4 ++ 0#1)
  | .fsubShort b d => some (b ++ d ++ 0xc#4 ++ 0#1)
  | .fmulShort b d => some (b ++ d ++ 0xd#4 ++ 0#1)
  | .fmaxShort b d => some (b ++ d ++ 0xe#4 ++ 0#1)
  | .fminShort b d => some (b ++ d ++ 0xf#4 ++ 0#1)
  | .illegalInstruction _ => none
  | .instructionFetchFault _ _ _ _ => none
  | .trapEntry _ => none
  | .teamPlacement _ _ => none
  | .groupRetirement _ => none
  | .loadDataReturn _ _ => none
  | .storePerformed _ _ => none
  | .waitCompletion _ _ => none
  | .sleepTimeout _ _ => none
  | .queueRoomFreed _ _ => none
  | .queueEntriesArrive _ _ => none
  | .byteCredit _ => none
  | .editionSweepEnd _ _ => none
  | .mscMissFetch _ _ _ _ => none
  | .rdsh _ _ => none
  | .rdown _ _ => none
  | .upgrade _ _ => none
  | .wback _ _ => none
  | .evict _ _ => none
  | .hostOwnershipRequest _ => none
  | .cxlMemAccess _ _ _ _ _ _ => none
  | .translationWalk _ _ _ _ _ => none
  | .freplyReplay _ _ _ => none
  | .freplyDeliver _ _ _ => none
  | .freplyTerminate _ _ _ => none
  | .freplyDiscard _ _ _ => none
  | .xinvGo _ _ _ => none
  | .xinvComplete _ _ => none
  | .xwinv _ _ _ => none
  | .xwinvComplete _ _ => none
  | .migrationStart _ _ _ _ => none
  | .migrationLineMove _ _ _ => none
  | .migrationEnd _ _ _ _ => none
  | .atsInvalidationRequest _ _ _ _ => none
  | .atsInvalidationCompletion _ _ => none
  | .atsTranslationCompletion _ _ _ _ _ => none
  | .pageRequestResponse _ _ _ => none
  | .pageRequestTimeout _ _ => none
  | .matrixBlockRead _ => none
  | .matrixOperationStart _ => none
  | .matrixProducts _ => none
  | .drain _ => none
  | .matrixCompletion _ _ => none
  | .commandBlockRead _ _ => none
  | .copy _ _ => none
  | .read _ => none
  | .write _ => none
  | .commandAtom _ => none
  | .commandCas _ => none
  | .reduce _ _ => none
  | .kalloc _ => none
  | .kfree _ => none
  | .signal _ => none
  | .commandCompletion _ => none
  | .spanTagCheck _ _ _ => none
  | .spanTimeout _ _ => none
  | .inboundRequest _ _ _ _ _ _ _ _ _ _ => none
  | .taskPacketSend _ => none
  | .taskPacketArrival _ => none
  | .taskRecord _ => none
  | .graphRootPush _ => none
  | .nodeReady _ _ => none
  | .nodeCompletion _ _ => none
  | .armedLineReread _ _ => none
  | .bankSwap _ => none
  | .sliceExpiry _ _ => none
  | .spillStart _ _ => none
  | .spillComplete _ _ => none
  | .imageCopyOut _ => none
  | .imageCopyIn _ _ => none
  | .fill _ _ => none
  | .contextEnd _ _ => none
  | .kill _ _ => none
  | .audit _ => none
  | .migctlGo _ _ _ => none
  | .tenantMoveComplete _ _ => none
  | .tenantMoveFailed _ _ => none
  | .packetReceive _ _ _ _ _ => none
  | .acknowledgement _ _ _ => none
  | .negativeAcknowledgement _ _ _ => none
  | .linkRetrain _ _ => none
  | .peerUnreachable _ _ => none
  | .mirrorUpdate _ => none
  | .switchLoss _ _ => none
  | .dcAddExtent _ _ _ _ _ => none
  | .dcReleaseRequest _ _ => none
  | .dcReleaseResponse _ _ => none
  | .viralIndication _ _ => none
  | .cxlReset _ _ => none
  | .viralClear _ _ => none
  | .lineclrGo _ _ _ => none
  | .lineClearDone _ _ => none
  | .throttleStepUp _ _ _ _ => none
  | .throttleToFloor _ _ _ => none
  | .throttleStepDown _ _ => none
  | .clockChange _ => none
  | .prepare _ => none
  | .commit _ => none
  | .abort _ => none
  | .layoutApplied _ => none
  | .shadowWrite _ _ _ => none
  | .watchdogReset _ => none
  | .powerOnReset _ => none
  | .recoveryImage _ _ => none
  | .getVersion _ => none
  | .getCapabilities _ => none
  | .negotiateAlgorithms _ _ => none
  | .getDigests _ => none
  | .getCertificate _ _ => none
  | .challenge _ _ => none
  | .getMeasurements _ _ _ => none
  | .keyExchange _ _ => none
  | .finish _ _ _ => none
  | .keyUpdate _ _ => none
  | .heartbeat _ _ => none
  | .endSession _ _ => none
  | .sensorTrip _ _ => none
  | .registerWrite _ _ _ _ _ => none
  | .backInvalidationCompletion _ => none
  | .invalidationAcknowledgement _ _ => none
  | .invalidateRequest _ _ => none
  | .peerAdmitted _ _ => none
  | .switchReturn _ _ => none
  | .hostLinkTrained _ _ _ => none
  | .armaddrWrite _ _ _ => none
  | .ideKm _ _ _ _ => none

/-- The word of a kind-0 EXT (R83, R84). -/
def encodeExt0 (x : Ext0) : Word := x.rc ++ x.px ++ x.pn ++ x.ty ++ x.rm ++ x.sn ++ x.xo ++ 0x0#1 ++ 0xFF#8
/-- The word of a kind-1 EXT (R83). -/
def encodeExt1 (m : BitVec 23) : Word := m ++ 0x1#1 ++ 0xFF#8

/-- The two halfwords of a 32-bit word, the one at the lower address first (R70). -/
def halves (w : Word) : List Half := [w.extractLsb' 0 16, w.extractLsb' 16 16]

/-- The halfwords of the prefixes, kind 0 first (R86). -/
def encodePfx (e : Pfx) : List Half :=
  (match e.k0 with | some x => halves (encodeExt0 x) | none => []) ++
  (match e.k1 with | some m => halves (encodeExt1 m) | none => [])

/-- The halfwords of an instruction, prefixes first; none for an event. -/
def encode (i : Instr) : List Half :=
  match encodeShort i with
  | some h => [h]
  | none => match encodeWord i with | some w => encodePfx (pfxOf i) ++ halves w | none => []

end Sys2Proof
end

