-- ==== Sys2Proof/Config.lean ====
section
/-! DEFINITION. Sys2Proof/Config.lean: values that the spec leaves open. Each is a constant without a body, so no proof
can use a particular value; State.free counts the uses, so that two uses need not agree. -/

namespace Sys2Proof.Config

/-- Nanoseconds that pass in one step (R187; the spec ties no instruction to a time). Log entry 7. -/
opaque elapsed : Nat → BitVec 16
/-- What a performance counter whose event counts cycles or gangs adds in one step (R371), by the use of free values, the
core and the counter. Log entry 121. -/
opaque cycleEvents : Nat → Nat → Nat → BitVec 16
/-- Cycles of a core's active bank in one step (R369), by the use of free values and the core. Log entry 121. -/
opaque sliceCycles : Nat → Nat → BitVec 32
/-- SHA-384 of a byte string (R439, R440), the named standard. Log entry 8. -/
opaque sha384 : List (BitVec 8) → BitVec 384
/-- HMAC-SHA-384 of a byte string under a key (R309), the named standard. Log entry 8. -/
opaque hmacSha384 : BitVec 256 → List (BitVec 8) → BitVec 384
/-- The parts of a boot image (R439): public key, security version, signature, body; none when its format or its read is
bad. The spec does not give the image's layout. Log entry 14. -/
opaque imageParts : List (BitVec 8) → Option (List (BitVec 8) × BitVec 8 × List (BitVec 8) × List (BitVec 8))
/-- The ECDSA check of an image (R439): public key, body digest, signature. Log entry 8. -/
opaque ecdsaOk : List (BitVec 8) → BitVec 384 → List (BitVec 8) → Bool
/-- The virtual address at which a target places the arguments of a task (R310). Log entry 13. -/
opaque taskArgs : Nat → BitVec 54
/-- A key agreed by SPDM (R309, R441): the session's number or tenant, and the peer's value or the pair. Log entry 8. -/
opaque sessionKey : Nat → Nat → BitVec 256
/-- SPDM answers that depend on keys or certificates (R441): request code and its arguments. Log entry 8. -/
opaque spdmAnswer : Nat → List Nat → List (BitVec 8)
/-- The SPDM FINISH check (R441): session and the value the requester sent. Log entry 8. -/
opaque finishOk : Nat → Nat → Bool
/-- The copy engine that runs a command (R312, R406: any of the 32). Log entry 12. -/
opaque copyEngine : Nat → BitVec 5

/-- The line that a full cache gives up (R204, R219; the spec names no rule of replacement): by the use of free values and
the number of its lines. Log entry 131. -/
opaque victim : Nat → Nat → Nat
/-- A byte of cluster memory that a retired team has given back (R200, R26), by the use of free values and the byte. Log
entry 128. -/
opaque freedScratch : Nat → Nat → BitVec 8

/-- The host port through which a host holds an address or a line of a device (R417; the spec does not map them). Log entry
21. -/
opaque hostPort : Nat → Nat → BitVec 2
/-- A byte of a save area that holds an image (R376, R379: only the talon reads the image's layout), by the use of free
values and the byte. Log entry 90. -/
opaque imageByte : Nat → Nat → BitVec 8

end Sys2Proof.Config
end

