-- ==== Sys2Proof/Machine/Maps.lean ====
section
/-! DEFINITION. Sys2Proof/Machine/Maps.lean: finite maps as sorted lists, the byte memory in its canonical form, and
bit-field helpers. -/

namespace Sys2Proof.Machine
open Sys2Proof

/-- A finite map from numbers: pairs with rising keys. -/
abbrev KV (α : Type) := List (Nat × α)

/-- The value stored under a key. -/
def kget {α : Type} : KV α → Nat → Option α
  | [], _ => none
  | (k, v) :: t, i => if k = i then some v else kget t i

/-- Stores a value under a key; keys stay in rising order. -/
def kput {α : Type} (m : KV α) (i : Nat) (v : α) : KV α :=
  match m with
  | [] => [(i, v)]
  | (k, w) :: t => if i < k then (i, v) :: (k, w) :: t else if i = k then (i, v) :: t else (k, w) :: kput t i v

/-- Stores a value under a key; a new key goes to the end. -/
def aput {α : Type} : KV α → Nat → α → KV α
  | [], i, v => [(i, v)]
  | (k, w) :: t, i, v => if i = k then (i, v) :: t else (k, w) :: aput t i v

/-- Removes a key. -/
def kdel {α : Type} (m : KV α) (i : Nat) : KV α := m.filter fun e => e.1 ≠ i

/-- The value of a register or table word; an unlisted one reads zero. -/
def rget {n : Nat} (m : KV (BitVec n)) (i : Nat) : BitVec n := (kget m i).getD 0

/-- Applies a function to a stored value, if there is one. -/
def kmod {α : Type} (m : KV α) (i : Nat) (f : α → α) : KV α :=
  match kget m i with | some v => kput m i (f v) | none => m

/-- Memory: byte cells at rising keys; no cell holds zero, which is what an unlisted byte reads as (log entry 3). -/
abbrev Mem := List (Nat × BitVec 8)

/-- Reads one byte. -/
def memGet : Mem → Nat → Byte
  | [], _ => 0#8
  | (k, v) :: t, a => if k = a then v else if a < k then 0#8 else memGet t a

/-- Removes the cell of a byte. -/
def memDel : Mem → Nat → Mem
  | [], _ => []
  | (k, v) :: t, a => if a < k then (k, v) :: t else if a = k then t else (k, v) :: memDel t a

/-- Adds or replaces the cell of a byte. -/
def memIns (m : Mem) (a : Nat) (b : Byte) : Mem :=
  match m with
  | [] => [(a, b)]
  | (k, v) :: t => if a < k then (a, b) :: (k, v) :: t else if a = k then (a, b) :: t else (k, v) :: memIns t a b

/-- Writes one byte, keeping the canonical form: a zero byte has no cell. -/
def memSet (m : Mem) (a : Nat) (b : Byte) : Mem := if b = 0#8 then memDel m a else memIns m a b

/-- The canonical form: keys strictly rising from `lo`, no zero cell. -/
def memWfFrom (lo : Nat) : Mem → Bool
  | [] => true
  | (k, v) :: t => decide (lo ≤ k) && decide (v ≠ 0#8) && memWfFrom (k + 1) t

/-- The canonical form of a memory. -/
def Memory.wf (m : Mem) : Bool := memWfFrom 0 m

/-- Removes every cell with `lo ≤ key < hi`: those bytes then read zero. -/
def memClear (m : Mem) (lo hi : Nat) : Mem := m.filter fun c => c.1 < lo || hi ≤ c.1

/-- Reads `n` bytes from key `a`, the byte at the lowest key least significant (R46). -/
def memLe (m : Mem) (a : Nat) : Nat → Nat
  | 0 => 0
  | n + 1 => (memGet m a).toNat + 256 * memLe m (a + 1) n

/-- Byte `i` of a number, little-endian (R46). -/
def byteOf (v i : Nat) : Byte := BitVec.ofNat 8 (v / 256 ^ i)

/-- The number whose little-endian bytes are `bs` (R46). -/
def leNat : List Byte → Nat
  | [] => 0
  | b :: t => b.toNat + 256 * leNat t

/-- The `n` little-endian bytes of a number (R46). -/
def leBytes (v : Nat) : Nat → List Byte
  | 0 => []
  | n + 1 => BitVec.ofNat 8 v :: leBytes (v / 256) n

/-- Bits [hi:lo] of a value as a number (R9). -/
def bf {n : Nat} (x : BitVec n) (hi lo : Nat) : Nat := x.toNat / 2 ^ lo % 2 ^ (hi + 1 - lo)

/-- Sign extension of the low `w` bits of a number (R9). -/
def sextNat (w v : Nat) : Int := let u := v % 2 ^ w; if u < 2 ^ (w - 1) then (u : Int) else (u : Int) - 2 ^ w

/-- An integer modulo 2^w. -/
def wrapNat (w : Nat) (t : Int) : Nat := (t % (2 ^ w : Int)).toNat

/-- The lanes of a mask in ascending order, below `n`. -/
def lanesOf (n : Nat) (m : Dword) : List Nat := (List.range n).filter fun i => m.getLsbD i

/-- The mask of a list of lanes. -/
def maskOf : List Nat → Dword
  | [] => 0#64
  | i :: t => (1#64 <<< i) ||| maskOf t

/-- The number of one bits. -/
def popcount (m : Dword) : Nat := (lanesOf 64 m).length

/-- The position of the lowest one bit, 64 when there is none. -/
def lowBit (m : Dword) : Nat := ((lanesOf 64 m).head?).getD 64

end Sys2Proof.Machine
end

