-- ==== Sys2Proof/Machine/State.lean ====
section
/-! DEFINITION. Sys2Proof/Machine/State.lean: the state of the machine as plain data, its reasons to stop, and the state
after power-on reset. Maps that list nothing read as the reset value of their entries. -/

namespace Sys2Proof.Machine
open Sys2Proof

/-- Faults that stop the machine: none is raised. Every fault of the spec is a trap, a parked lane, a status or a
discarded access, after which the machine goes on (R385 to R396). -/
inductive Fault where
  /-- Raised by no meaning; it keeps the type inhabited. Safe. -/
  | halted
  deriving DecidableEq, Repr

/-- Reasons for a refusal. -/
inductive Refusal where
  /-- An arm of exec that has no meaning yet. Safe. -/
  | notModelled (mnemonic : String)
  /-- An event asked for in a state in which the spec does not let it happen; raised by the events' meanings. Safe. -/
  | notEnabled (mnemonic : String)
  deriving DecidableEq, Repr

/-- The states of a lane (R12). -/
inductive LaneSt where
  | running | held | parked | exited
  deriving DecidableEq, Repr

/-- A lane's own control state (R11, R13, R18, R22). `copy`: 0 is the main copy of scalar state. `blk`: 0, or the
number of the issued instruction it waits in. -/
structure Lane where
  pc : BitVec 57
  meet : Dword
  st : LaneSt
  copy : Nat
  blk : Nat
  deriving DecidableEq, Repr

/-- A copy of scalar state (R22): s1 to s63, CC as N Z C V from bit 3 down, p1 to p15. -/
structure SCopy where
  s : KV Dword
  cc : BitVec 4
  p : KV Dword
  deriving DecidableEq, Repr

/-- One entry of the result window (R107, R113). `vals`: 128 × lane + register for a vector, word number for a scalar.
`late`: number of the operation whose values have not arrived, 0 when they have. `ended`: lanes for which a scalar
window-only result has ended (R110). -/
structure WinEntry where
  wr : Bool
  sc : Bool
  wd : Nat
  wb : Bool
  reg : Nat
  copy : Nat
  lanes : Dword
  vals : KV Word
  late : Nat
  ended : Dword
  deriving DecidableEq, Repr

/-- An issued instruction in which a sub-group waits (R18). `data`: what it keeps from its issue. `sdst`: the scalar
register it will write, as 64 × copy + register + 1, or 0. `watch`: the watchpoints at its issue (R182). -/
structure Block where
  instr : Instr
  mask : Dword
  pc : BitVec 57
  len : Nat
  data : List Nat
  sdst : Nat
  watch : KV Dword
  deriving DecidableEq, Repr

/-- A register word that a late operation will write (R99): lane, register, value, poison reason (0 none), and whether a
younger bank write has overtaken it. -/
structure LateWord where
  lane : Nat
  reg : Nat
  val : Word
  mark : Nat
  dead : Bool
  deriving DecidableEq, Repr

/-- The access of one lane: address, data and comparand. -/
structure LaneAcc where
  lane : Nat
  addr : Nat
  x : Nat
  y : Nat
  deriving DecidableEq, Repr

/-- An L1 line (R204, R250): virtual line, ASID, physical line, folio scope, edition (none when it carries none), valid
sectors, data by physical key. -/
structure L1Line where
  vline : Nat
  asid : Nat
  line : Nat
  scope : Nat
  ed : Option Nat
  valid : BitVec 8
  data : Mem
  deriving DecidableEq, Repr

/-- A piece of a .G access after its checks: virtual and physical address, length, folio kind and scope, and the L1
line that serves it. -/
structure Piece where
  va : Nat
  pa : Nat
  len : Nat
  kind : Nat
  scope : Nat
  hit : Option L1Line
  deriving DecidableEq, Repr

/-- The outcome of the checks of one lane (R223): the pieces of a .G access, the keys of any other, a cause with its
address, or a wait. -/
inductive LaneR where
  | global (ps : List Piece)
  | keys (ks : List Nat)
  | fail (cause va : Nat) (tpoi : Bool)
  | wait
  deriving DecidableEq, Repr

/-- A memory instruction that has issued and whose accesses have not been made, because an older one of the group, an
ordering instruction or a home holds them (R229, R236, R237). `seq`: its place in the group's issue order; `op`: its place
in its counter; `pend`: its entry among the loads, or 0; `acc`: the accesses of its completing lanes. -/
structure Held where
  seq : Nat
  instr : Instr
  op : Nat
  pend : Nat
  acc : List (LaneAcc × LaneR)
  deriving DecidableEq, Repr

/-- A request with its miss-status entries, and what its return installs in the L1 (R207, R208, R251): virtual line,
partition's physical line, sector mask, folio kind and scope, the edition of its issue, and whether it installs anything:
an atomic's does not. -/
structure Fill where
  vline : Nat
  line : Nat
  mask : Nat
  kind : Nat
  scope : Nat
  ed : Option Nat
  inst : Bool
  deriving DecidableEq, Repr

/-- A load-class operation whose data has not landed (R230). `op`: its place in the load counter. `made`: its accesses
have been made. `keeps`: sector
addresses of the poison it brings, by reason (R224). `om`: operand bytes with the reason of their poison (TFILL).
`cbk`: a GATHER's completion bitmap plus 1, and `cbm` the lanes whose elements carry no poison (R231). -/
structure Pend where
  op : Nat
  made : Bool
  words : List LateWord
  keeps : List (Nat × Dword)
  fill : List Fill
  om : List (Nat × Byte × Nat)
  cbk : Nat
  cbm : Dword
  deriving DecidableEq, Repr

/-- A SCATTER whose writes have not all performed (R231, R232): its place in the store counter, its bitmap, the lanes
that still wait for a sector, and the lanes that met a failure. -/
structure Scat where
  op : Nat
  k : Nat
  secs : List (Nat × Dword)
  bad : Dword
  deriving DecidableEq, Repr

/-- An outstanding-operation counter (R353): operations entered and retired, and the finished ones still held. `scp`:
the scopes of operations; `top`: the widest scope of operations far behind the youngest (R258). -/
structure OpCount where
  iss : BitVec 32
  ret : BitVec 32
  held : List Nat
  scp : KV Nat
  top : Nat
  deriving DecidableEq, Repr

/-- A queue entry (R287, R298): value, poison reason (0 none), recorded address. -/
structure QEntry where
  val : Dword
  mark : Nat
  va : Dword
  deriving DecidableEq, Repr

/-- An entry of an engine queue (R286): value, its place in the copy or tile counter, the watchpoints at its push, poison
reason (0 none, R287). -/
structure Push where
  val : Dword
  op : Nat
  watch : List Dword
  mark : Nat
  deriving DecidableEq, Repr

/-- A parking record (R21 to R24, R390). `kind`: 0 read, 1 write, 2 atomic, 3 fetch. `seq`: the fault-ring entry it
waits on; `pri`: the page request it waits on. `woken`: a DELIVER answer woke it. `clanes`: the lanes that have the
recorded cause (R223). -/
structure Rec where
  lanes : Dword
  clanes : Dword
  pc : BitVec 57
  len : Nat
  dest : BitVec 16
  va : Dword
  kind : Nat
  perm : Bool
  tpoi : Bool
  seq : Option Nat
  pri : Option Nat
  woken : Bool
  ownCopy : Bool
  deriving DecidableEq, Repr

/-- The trap frame and what trap entry saved (R112, R183, R191, R193). `at_`, `held`: address of the trapping sub-group at
the trap, and whether it was HELD there. `past`: older entries behind the window. -/
structure Frame where
  cause : BitVec 8
  tlanes : Dword
  tva : Dword
  treta : BitVec 57
  tdest : BitVec 16
  sub : Dword
  next : BitVec 57
  decoded : Bool
  retire : Bool
  at_ : BitVec 57
  held : Bool
  win : List WinEntry
  past : List WinEntry
  count : Nat
  deriving DecidableEq, Repr

/-- A pending failed-write report (R226): place in the store counter, cause, first failed virtual byte. -/
structure FailRep where
  op : Nat
  cause : BitVec 8
  va : Dword
  deriving DecidableEq, Repr

/-- A resident or saved group (R11, R372). `xmask`: lanes of its last EXIT (R226). `past`: entries that younger ones have
moved out of the window, youngest first; they come back when a waiting instruction that traps is taken back (R108). `smk`:
words of the scalar file that are marked for an error (R431). -/
structure Group where
  team : Nat
  slot : Nat
  idx : Nat
  width : Nat
  nregs : Nat
  lanes : KV Lane
  v : KV Word
  pz : KV Nat
  smk : KV Nat
  ix : KV Word
  copies : KV SCopy
  cb : KV Dword
  q1 : List QEntry
  q3 : List QEntry
  q5 : List QEntry
  q2 : List Push
  q4 : List Push
  q6 : List Push
  q7 : List QEntry
  res : KV Nat
  lost : KV Nat
  oc : KV OpCount
  win : List WinEntry
  past : List WinEntry
  count : Nat
  aflags : BitVec 6
  aen : BitVec 9
  thand : BitVec 57
  tsa : Dword
  tsb : Dword
  watch : KV Dword
  frame : Option Frame
  recs : KV Rec
  nrec : Nat
  fails : List FailRep
  watchRep : Option (Nat × Dword × Dword)
  cwatch : List FailRep
  lostRep : List Nat
  kept : KV Dword
  pend : KV Pend
  defer : List Held
  scat : List Scat
  blocks : KV Block
  xmask : Dword
  age : Nat
  rr : Nat
  deriving DecidableEq, Repr

/-- A barrier object (R357). `sat`: saturated; `err`: it holds an uncorrectable error (R431). -/
structure Bar where
  phase : BitVec 32
  at_ : BitVec 16
  bt0 : BitVec 48
  bt : BitVec 48
  ca : BitVec 32
  cb : BitVec 56
  sat : Bool
  err : Bool
  deriving DecidableEq, Repr

/-- A resident or saved team (R37, R295, R397). -/
structure Team where
  cont : Nat
  launch : Nat
  idx : Nat
  groups : List Nat
  cls : Nat
  bars : KV Bar
  tq : KV (List QEntry)
  tlost : KV Nat
  deriving DecidableEq, Repr

/-- The stages of a matrix operation (R269, R276, R284). -/
inductive MStage where
  | pushed | queued | products | convert | drain | finished
  deriving DecidableEq, Repr

/-- A piece of an engine's .G or remote access: its address for the record, its physical address, length, folio kind. -/
structure EPiece where
  va : Nat
  pa : Nat
  len : Nat
  kind : Nat
  deriving DecidableEq, Repr

/-- A matrix operation from its push to its completion (R274 to R282). `core`: the core whose array runs it; `dst`: the
checked pieces of its destination in .G, row by row; `landed`: destination bytes written or applied; `mark`: the poison reason
of its queue entry, 0 none (R287); `quiet`: an audit has made it done without a result (R367). -/
structure MOp where
  grp : Nat
  op : Nat
  val : Dword
  stage : MStage
  blk : List Dword
  status : Nat
  flags : BitVec 6
  core : Nat
  dst : List EPiece
  landed : Nat
  mark : Nat
  quiet : Bool
  deriving DecidableEq, Repr

/-- Where the content of a bank stands (R375, R376, R380, R429): a core's bank, a core's image store, a slot of the
context's save area, or on its way there; `ended`: its context has ended on that core, and what it had started runs to
completion (R395). -/
inductive Loc where
  | bank (core b : Nat)
  | store (core : Nat)
  | slot (i : Nat)
  | moving (d p asid i : Nat)
  | ended (core : Nat)
  deriving DecidableEq, Repr

/-- The content of a bank: one context's teams and the bank's own state (R372). `last`: the core it was last resident on
(R261); `relTime`: when it was released (R401). -/
structure Cont where
  d : Nat
  p : Nat
  asid : Nat
  loc : Loc
  teams : List Nat
  claims : BitVec 16
  mcfg : Dword
  mq : KV MOp
  accErr : List Nat
  relTime : Nat
  last : Nat
  deriving DecidableEq, Repr

/-- The fields of a kernel descriptor (R97). -/
structure Desc where
  entry : BitVec 57
  codesz : Nat
  gs : Bool
  bo : Nat
  ls : Nat
  sc : Nat
  ec : Nat
  rg : Nat
  clh : Nat
  clw : Nat
  tg : Nat
  gw : Nat
  deriving DecidableEq, Repr

/-- A launch: one grid (R40, R346, R364). `node`: the graph node, 0 for a task. `task`: the sending command of a task
packet. `cls`: the class its node asks for; `top`: the class of its submitter, 8 for the CLMAX of its virtual interface
(R397). `daddr`: descriptor address; `desc.rg` is 0 until it is read. -/
structure Launch where
  d : Nat
  p : Nat
  asid : Nat
  node : Nat
  naddr : Dword
  task : Option Nat
  daddr : Dword
  desc : Desc
  nteams : Nat
  args : Dword
  cls : Nat
  top : Nat
  placed : Nat
  retired : Nat
  gen : Nat
  arrivals : Nat
  ready : Nat
  deriving DecidableEq, Repr

/-- One store in a core's write path (R209): its group, its place in the store counter, the virtual address of its
line (address / 256), its bytes by physical key, and whether its operation waits for it (R230: a store of scope .CORE
performs on entering the write path). -/
structure WRec where
  grp : Nat
  op : Nat
  vline : Nat
  cells : List (Nat × Byte)
  cnt : Bool
  deriving DecidableEq, Repr

/-- A line entry of the write path: the partition's physical line (key / 256), the requester's folio kind, its stores
oldest first. -/
structure WLine where
  line : Nat
  kind : Nat
  seq : Nat
  recs : List WRec
  deriving DecidableEq, Repr

/-- An L2 copy of a remote, kitty or host line (R204, R250): its edition classes are those of its region. -/
structure L2Line where
  line : Nat
  dom : Nat
  sys : Nat
  valid : BitVec 8
  data : Mem
  deriving DecidableEq, Repr

/-- A line of a partition's own memory in the L2 or in the memory-side cache (R204, R210): its valid and its dirty
sectors. The bytes are those of State.mem (log entry 130). -/
structure LocLine where
  valid : BitVec 8
  dirty : BitVec 8
  deriving DecidableEq, Repr

/-- The states of a bank (R375). -/
inductive BankSt where
  | empty | active | inactive | spilling | clean | filling
  deriving DecidableEq, Repr

/-- A bank of a core: its state and its content, 0 when EMPTY. -/
structure Bank where
  st : BankSt
  cont : Nat
  deriving DecidableEq, Repr

/-- A core (R372, R381, R365, R370). `store`: content whose image is held, 0 none. `swap`: pending request. -/
structure Core where
  act : Nat
  b0 : Bank
  b1 : Bank
  store : Nat
  swap : Option Nat
  ed : BitVec 4
  swp : Bool
  l1 : List L1Line
  wp : List WLine
  arr : Option (Nat × Nat)
  arrLast : Nat
  ts : KV Dword
  pmctl : KV Dword
  pmcnt : KV Dword
  deriving DecidableEq, Repr

/-- A fault-ring entry that waits for its answer (R312, R326). -/
structure FEnt where
  seq : Nat
  asid : Nat
  va : Dword
  perm : Bool
  kind : Nat
  tpoi : Bool
  merged : Bool
  eng : Bool
  unit : Nat
  bank : Nat
  slot : Nat
  deriving DecidableEq, Repr

/-- A TLB entry (R321, R334): ASID or global, virtual base, size, physical base, permissions X W RD, folio kind and
scope. -/
structure Tlb where
  asid : Nat
  glb : Bool
  vbase : Nat
  size : Nat
  pbase : Nat
  xwr : BitVec 3
  kind : Nat
  scope : Nat
  deriving DecidableEq, Repr

/-- A partition: its control space (R460) and its schedulers' queues. `l2`: copies under editions; `l2d`, `msc`: lines of
the partition's memory in the L2 and in the memory-side cache; `fetch`: blocks of a line on their way from DRAM. -/
structure Part where
  xbase : Dword
  xctl : Dword
  xbusy : Bool
  xdone : BitVec 32
  xerr : Bool
  xwinv : BitVec 11
  xwbusy : Bool
  slen : BitVec 32
  ce : BitVec 32
  ue : BitVec 32
  lline : Dword
  lgo : Bool
  clr : Nat
  lerr : Bool
  edom : BitVec 4
  esys : BitVec 4
  dswp : Bool
  sswp : Bool
  mig : KV Dword
  folio : KV Dword
  peer : KV Dword
  inb : KV Dword
  winc : KV (List Dword)
  fseq : Nat
  fents : List FEnt
  tlb : List Tlb
  walkq : List Nat
  launchq : List Nat
  l2 : List L2Line
  l2d : KV LocLine
  msc : KV LocLine
  fetch : KV (BitVec 8)
  deriving DecidableEq, Repr

/-- One copy of the layout (R342): core entries by physical core, partition rows as doublewords 8 × row + index. -/
structure Layout where
  cores : KV (BitVec 16)
  rows : KV Dword
  deriving DecidableEq, Repr

/-- The registers of one ASID (R396, R379, R398, R428); `mdst`: DNODE, DPART and DASID of the move under way (R429); `gen`:
contexts ended so far. -/
structure Ctx where
  stat : Dword
  va : Dword
  save : Dword
  cap : BitVec 3
  migctl : Dword
  mdst : Dword
  gen : Nat
  deriving DecidableEq, Repr

/-- The registers of one virtual interface (R398, R350) and whether the stitcher holds its armed line. -/
structure Vif where
  en : Bool
  clmax : BitVec 3
  arm : Dword
  held : Bool
  deriving DecidableEq, Repr

/-- A host port (R435). -/
structure HostPort where
  up : Bool
  viral : Bool
  resetSeen : Bool
  deriving DecidableEq, Repr

/-- One direction pair of a fabric link (R421, R422): next number to send, oldest unacknowledged number, next number
expected, the times of the retrains that have failed, packets held for resending, whether a gap was reported. -/
structure Link where
  send : BitVec 16
  acked : BitVec 16
  expect : BitVec 16
  retrains : List Nat
  buf : List (BitVec 16)
  nak : Bool
  deriving DecidableEq, Repr

/-- A page request sent to a host (R418). -/
structure PageReq where
  asid : Nat
  page : Nat
  kind : Nat
  deriving DecidableEq, Repr

/-- A dynamic-capacity extent (R416): partition, tenant, local base and length, release asked for. -/
structure Extent where
  p : Nat
  tenant : Nat
  base : Nat
  len : Nat
  releasing : Bool
  deriving DecidableEq, Repr

/-- A task-packet session of a tenant with another device (R309): key, next sequence number to send, highest accepted,
accepted numbers in the window. -/
structure Sess where
  key : BitVec 256
  nextSeq : Nat
  high : Nat
  seen : List Nat
  live : Bool
  deriving DecidableEq, Repr

/-- An SPDM session (R441): key number of updates, established. -/
structure Spdm where
  key : BitVec 256
  ready : Bool
  updates : Nat
  beats : Nat
  deriving DecidableEq, Repr

/-- A device: the state that stands once per device (R342, R422, R435 to R443). `t0`: the machine's time at the device's
last power-on reset (R187). `thAt`: the time of the last change of the throttle step (R437). `ilost`: permits that the internal links of its partitions have lost, as 16 × link + partition,
where links 0 to 31 are the copy engines', 32 the stitcher's and 33 the dealer's (R366; log entry 142). -/
structure Dev where
  t0 : Dword
  fit : Bool
  fuse : KV Bool
  layA : Layout
  layB : Layout
  layErr : Nat
  phase : Bool
  applied : Bool
  sel : Bool
  asid : KV Dword
  ctx : KV Ctx
  vif : KV Vif
  planes : Dword
  links : KV Link
  placed : List Nat
  host : KV HostPort
  step : Nat
  thCause : BitVec 3
  thTemp : Byte
  thAt : Option Nat
  audEn : Bool
  audPlog : BitVec 5
  audMis : BitVec 32
  ilost : KV Nat
  ce : BitVec 32
  ue : BitVec 32
  bootSvn : Byte
  bootFail : BitVec 4
  bootDone : Bool
  flash : List Byte
  recov : List Byte
  keyHash : BitVec 384
  minSvn : Byte
  meas : KV (BitVec 384)
  alarmCfg : Dword
  alarmStat : BitVec 4
  lockout : Bool
  attKey : Bool
  spdmVer : Nat
  spdmAlg : Bool
  spdm : KV Spdm
  spdmOut : List Byte
  ide : KV (BitVec 256)
  sess : KV Sess
  codes : List (BitVec 384 × Nat × Nat × Dword)
  ats : List Tlb
  prs : KV PageReq
  atsInv : KV (Nat × Nat × Nat)
  dc : KV Extent
  lostPeer : List Nat
  lostSw : List Nat
  irqs : List (Nat × Nat)
  deriving DecidableEq, Repr

/-- The stages of an engine command (R299). -/
inductive CStage where
  | queued | block | run | faulted | tagged | replied | finished
  deriving DecidableEq, Repr

/-- A byte on its way to its destination: key, virtual or remote address, the requester's folio kind, value, and the
reason of the poison that its source gave (0 none). -/
structure ECell where
  key : Nat
  va : Nat
  kind : Nat
  val : Byte
  mark : Nat
  deriving DecidableEq, Repr

/-- A span of a command whose integrity tag is not yet verified (R423): its bytes, the elements with the sectors they
land in, tag failures in a row, whether the landed sectors stand poisoned, and the sectors that the target refused. -/
structure Span where
  cells : List ECell
  els : List (Nat × Nat)
  fails : Nat
  bad : Bool
  bads : List (Nat × Nat × Bool)
  deriving DecidableEq, Repr

/-- A copy-engine command, task packet or stitcher command (R296 to R310). `src`: 2, 4, 6 for a queue, 0 for a graph
node. `node`: the graph node. `seq`, `pri`: the fault-ring entry or page request it waits on. `next`: next element. `landed`:
bytes landed without poison. `begun`: its data moves. `scope`: the widest scope of its writes (R258). `olds`: bytes that it
has overwritten, as they stood before it, with their marks (R302). `part`: poisoned sectors that it writes whole in several
moves, with the bytes written so far (R300). `quiet`: an audit has made it done without a result (R367). -/
structure Cmd where
  src : Nat
  grp : Nat
  team : Nat
  node : Nat
  d : Nat
  p : Nat
  asid : Nat
  gen : Nat
  cls : Nat
  val : Dword
  op : Nat
  cnt : Bool
  watch : List Dword
  stage : CStage
  blk : List Dword
  status : Nat
  flags : BitVec 6
  paddr : Dword
  reason : Nat
  ret : Dword
  next : Nat
  landed : Nat
  spans : KV Span
  chunks : KV Nat
  seq : Option Nat
  pri : Option Nat
  fkind : Nat
  launch : Nat
  begun : Bool
  scope : Nat
  olds : KV (Byte × Nat)
  part : KV Word
  quiet : Bool
  deriving DecidableEq, Repr

/-- A byte credit on its way to a barrier object (R363): team, object, bytes, the command that waits for it, 0 none; for
a landing barrier the device, partition, logical core, bank and slot that name the team (R340). -/
structure Credit where
  team : Nat
  obj : Nat
  bytes : Nat
  cmd : Nat
  land : Option (Nat × Nat × Nat × Nat × Nat)
  deriving DecidableEq, Repr

/-- The kinds of request at a home (R214, R215, R434). -/
inductive HKind where
  | rdsh | rdown | upgrade | wback | evict | host | clear
  deriving DecidableEq, Repr

/-- A request in a home's in-flight table (R213): requester, kind, nodes whose acknowledgement is awaited, those of them
that have not yet received the invalidate, a back-invalidation awaited; and the requests that wait behind it. -/
structure HReq where
  kind : HKind
  q : Nat
  acks : List Nat
  inv : List Nat
  bi : Bool
  waiting : List (HKind × Nat)
  deriving DecidableEq, Repr

/-- A graph node in the stitcher's hands (R346 to R350, R400). `st`: 0 ready, 1 running, 2 watching. `sub`: the
SUBGRAPH node it was launched under; `grp`: the group that pushed it as a root, 0 for none. -/
structure GNode where
  d : Nat
  p : Nat
  asid : Nat
  gen : Nat
  vif : Nat
  addr : Dword
  cls : Nat
  sub : Nat
  depth : Nat
  st : Nat
  kind : Nat
  status : Option Nat
  grp : Nat
  deriving DecidableEq, Repr

/-- A kitty allocation (R305, R425): tenant, base offset, size, and the switches it has lost (R427). -/
structure Alloc where
  tenant : Nat
  base : Nat
  size : Nat
  gone : List Nat
  deriving DecidableEq, Repr

/-- An update that a mirror primary has sequenced and the secondary has not applied (R426): issuing device, secondary
switch, bytes by key, and the operation that waits: a group and its place in the store counter, or a command and 0. -/
structure MirrorUp where
  dev : Nat
  sw : Nat
  cells : List (Nat × Byte)
  op : Nat × Nat
  deriving DecidableEq, Repr

/-- The sub-group being issued: its group, its lanes, its address, the instruction's length in bytes. -/
structure Cur where
  grp : Nat
  mask : Dword
  pc : BitVec 57
  len : Nat
  deriving DecidableEq, Repr

/-- The machine. `edirty`: coherent lines that a holder in E has written without telling the home (R214). -/
structure State where
  time : Dword
  free : Nat
  uid : Nat
  agenda : List Instr
  cur : Cur
  turn : Nat
  mem : Mem
  psn : KV Nat
  tags : KV Word
  edirty : KV Bool
  devs : KV Dev
  parts : KV Part
  cores : KV Core
  conts : KV Cont
  teams : KV Team
  groups : KV Group
  launches : KV Launch
  nodes : KV GNode
  cmds : KV Cmd
  credits : List Credit
  home : KV HReq
  sw : KV Bool
  quota : KV Dword
  allocs : List Alloc
  mlog : List MirrorUp
  outData : List Byte
  deriving DecidableEq, Repr

/-- An empty partition's registers at reset: XINVCTL.SIZE is 12 (R323) and SLEN 0x000F_4240 (R408). -/
def Part.reset : Part :=
  { xbase := 0, xctl := 12, xbusy := false, xdone := 0, xerr := false, xwinv := 0, xwbusy := false,
    slen := 0x000F4240, ce := 0, ue := 0, lline := 0, lgo := false, clr := 0, lerr := false, edom := 0, esys := 0,
    dswp := false, sswp := false, mig := [], folio := [], peer := [], inb := [], winc := [], fseq := 0, fents := [],
    tlb := [], walkq := [], launchq := [], l2 := [], l2d := [], msc := [], fetch := [] }

/-- A core at reset: both banks EMPTY (R375, R381). -/
def Core.reset : Core :=
  { act := 0, b0 := ⟨.empty, 0⟩, b1 := ⟨.empty, 0⟩, store := 0, swap := none, ed := 0, swp := false, l1 := [],
    wp := [], arr := none, arrLast := 0, ts := [], pmctl := [], pmcnt := [] }

/-- The registers of an ASID at reset: CAP is 6 (R398). -/
def Ctx.reset : Ctx := { stat := 0, va := 0, save := 0, cap := 6, migctl := 0, mdst := 0, gen := 0 }
/-- The registers of a virtual interface at reset: CLMAX is 6 (R398). -/
def Vif.reset : Vif := { en := false, clmax := 6, arm := 0, held := false }

/-- Physical cores enabled by the fuses: the low 192 of 208 (log entry 4). -/
def fusedCores : KV Bool := (List.range 192).map fun i => (i, true)
/-- The partition rows of a layout copy at reset: EBUD of each is 64, its default (R35; log entry 139). -/
def budgetRows : KV Dword := (List.range 16).map fun p => (8 * p + 3, 64#64 <<< 20)

/-- A device at power-on reset (R344, R422, R435 to R443; log entries 2 and 4). -/
def Dev.reset : Dev :=
  { t0 := 0, fit := false, fuse := fusedCores, layA := ⟨[], budgetRows⟩, layB := ⟨[], budgetRows⟩, layErr := 0,
    phase := false,
    applied := true, sel := false, asid := [], ctx := [], vif := [], planes := 0, links := [], placed := [],
    host := [], step := 0, thCause := 0, thTemp := 0, thAt := none, audEn := true, audPlog := 16, audMis := 0, ilost := [], ce := 0, ue := 0,
    bootSvn := 0, bootFail := 0, bootDone := false, flash := [], recov := [], keyHash := 0, minSvn := 0, meas := [],
    alarmCfg := 0x85, alarmStat := 0, lockout := false, attKey := true, spdmVer := 0, spdmAlg := false, spdm := [],
    spdmOut := [], ide := [], sess := [], codes := [], ats := [], prs := [], atsInv := [], dc := [], lostPeer := [],
    lostSw := [], irqs := [] }

/-- The machine right after power-on reset: one device, node 0, with no partition (R345, R438). -/
def State.reset : State :=
  { time := 0, free := 0, uid := 1, agenda := [], cur := ⟨0, 0, 0, 0⟩, turn := 0, mem := [], psn := [], tags := [], edirty := [],
    devs := [(0, Dev.reset)], parts := [], cores := [], conts := [], teams := [], groups := [], launches := [],
    nodes := [], cmds := [], credits := [], home := [], sw := [], quota := [], allocs := [], mlog := [],
    outData := [] }

end Sys2Proof.Machine
end

