-- ==== Sys2Proof/Machine/Ends.lean ====
section
/-! DEFINITION. Sys2Proof/Machine/Ends.lean: finding the owner of a piece of state, places of bytes, and ending a context
(R395). -/

namespace Sys2Proof.Machine
open Sys2Proof

/-- The key of a byte: space, device, instance and offset. Spaces: 0 local memory, 1 chip scratchpad, 2 host memory,
3 team scratch and lane slices, 4 scratch that a retired team has given back, 5 kitty memory (the instance is the switch), 6 operand memory, 7 accumulator
storage. -/
def gk (sp dev inst off : Nat) : Nat := ((sp * 1024 + dev) * 64 + inst) * 2 ^ 64 + off
/-- Space, device, instance and offset of a key. -/
def gkSpace (k : Nat) : Nat := k / 2 ^ 64 / 64 / 1024
def gkDev (k : Nat) : Nat := k / 2 ^ 64 / 64 % 1024
def gkInst (k : Nat) : Nat := k / 2 ^ 64 % 64
def gkOff (k : Nat) : Nat := k % 2 ^ 64

/-- A byte of a team's scratch (R199): slices follow the scratch. -/
def scratchKey (team off : Nat) : Nat := gk 3 0 0 (team * 2 ^ 24 + off)
/-- A byte of a bank content's operand memory (R262). -/
def operandKey (cont off : Nat) : Nat := gk 6 0 0 (cont * 2 ^ 20 + off)
/-- A byte of a bank content's accumulator storage (R263). -/
def accKey (cont off : Nat) : Nat := gk 7 0 0 (cont * 2 ^ 20 + off)

def blankDesc : Desc := ⟨0, 0, false, 0, 0, 0, 0, 0, 0, 0, 0, 0⟩
def blankLane : Lane := ⟨0, 0, .exited, 0, 0⟩
def blankGroup : Group :=
  { team := 0, slot := 0, idx := 0, width := 8, nregs := 16, lanes := [], v := [], pz := [], smk := [], ix := [],
    copies := [(0, ⟨[], 0, []⟩)], cb := [], q1 := [], q3 := [], q5 := [], q2 := [], q4 := [], q6 := [], q7 := [],
    res := [], lost := [], oc := [], win := [], past := [], count := 0, aflags := 0, aen := 0, thand := 0, tsa := 0, tsb := 0,
    watch := [], frame := none, recs := [], nrec := 0, fails := [], watchRep := none, cwatch := [], lostRep := [],
    kept := [], pend := [], defer := [], scat := [], blocks := [], xmask := 0, age := 0, rr := 0 }
def blankTeam : Team := { cont := 0, launch := 0, idx := 0, groups := [], cls := 0, bars := [], tq := [], tlost := [] }
def blankCont : Cont :=
  { d := 0, p := 0, asid := 0, loc := .slot 0, teams := [], claims := 0, mcfg := 0, mq := [], accErr := [],
    relTime := 0, last := 0 }
def blankLaunch : Launch :=
  { d := 0, p := 0, asid := 0, node := 0, naddr := 0, task := none, daddr := 0, desc := blankDesc, nteams := 0,
    args := 0, cls := 0, top := 0, placed := 0, retired := 0, gen := 0, arrivals := 0, ready := 0 }

def State.dev (s : State) (d : Nat) : Dev := (kget s.devs d).getD Dev.reset
def State.part (s : State) (d p : Nat) : Part := (kget s.parts (d * 16 + p)).getD Part.reset
def State.core (s : State) (c : Nat) : Core := (kget s.cores c).getD Core.reset
def State.grp (s : State) (g : Nat) : Group := (kget s.groups g).getD blankGroup
def State.team (s : State) (t : Nat) : Team := (kget s.teams t).getD blankTeam
def State.cont (s : State) (c : Nat) : Cont := (kget s.conts c).getD blankCont
def State.launch (s : State) (l : Nat) : Launch := (kget s.launches l).getD blankLaunch
def State.modDev (s : State) (d : Nat) (f : Dev → Dev) : State := { s with devs := kmod s.devs d f }
def State.modPart (s : State) (d p : Nat) (f : Part → Part) : State :=
  { s with parts := kput s.parts (d * 16 + p) (f (s.part d p)) }
def State.modCore (s : State) (c : Nat) (f : Core → Core) : State := { s with cores := kput s.cores c (f (s.core c)) }
def State.modGrp (s : State) (g : Nat) (f : Group → Group) : State := { s with groups := kmod s.groups g f }
def State.modTeam (s : State) (t : Nat) (f : Team → Team) : State := { s with teams := kmod s.teams t f }
def State.modCont (s : State) (c : Nat) (f : Cont → Cont) : State := { s with conts := kmod s.conts c f }
def State.modLaunch (s : State) (l : Nat) (f : Launch → Launch) : State := { s with launches := kmod s.launches l f }
def State.modCmd (s : State) (u : Nat) (f : Cmd → Cmd) : State := { s with cmds := kmod s.cmds u f }
def State.modNode (s : State) (u : Nat) (f : GNode → GNode) : State := { s with nodes := kmod s.nodes u f }
/-- A fresh identity. -/
def State.fresh (s : State) : State := { s with uid := s.uid + 1 }

/-- Team, bank content and launch of a group. -/
def State.teamOf (s : State) (g : Nat) : Team := s.team (s.grp g).team
def State.contOf (s : State) (g : Nat) : Cont := s.cont (s.teamOf g).cont
def State.launchOf (s : State) (g : Nat) : Launch := s.launch (s.teamOf g).launch
/-- The core and bank a content is resident in; none while it is an image. -/
def Cont.at? (c : Cont) : Option (Nat × Nat) := match c.loc with | .bank k b => some (k, b) | _ => none
/-- The core that a group issues on, or issued on when its context ended. -/
def State.coreOf (s : State) (g : Nat) : Nat :=
  match (s.contOf g).loc with | .bank k _ => k | .ended k => k | _ => 0
/-- The bank that a group is resident in. -/
def State.bankOf (s : State) (g : Nat) : Nat := match (s.contOf g).at? with | some (_, b) => b | none => 0

/-- The committed layout (R342) and the shadow. -/
def Dev.lay (v : Dev) : Layout := if v.sel then v.layB else v.layA
def Dev.shadow (v : Dev) : Layout := if v.sel then v.layA else v.layB
/-- A doubleword of a partition's row in the committed layout (R342). -/
def Dev.row (v : Dev) (p i : Nat) : Dword := rget v.lay.rows (8 * p + i)
/-- A partition exists: its row is valid (R342). -/
def Dev.partOk (v : Dev) (p : Nat) : Bool := (v.row p 3).getLsbD 0
/-- Cores of a partition (R343). -/
def Dev.ncores (v : Dev) (p : Nat) : Nat := (bf (v.row p 3) 17 14 + 1) * (bf (v.row p 3) 13 10 + 1)
/-- The key of a core: device and physical number. -/
def coreKey (d phys : Nat) : Nat := d * 256 + phys
/-- The physical core of a logical core (R342). -/
def Dev.physOf (v : Dev) (p lc : Nat) : Option Nat :=
  (v.lay.cores.find? fun e => e.2.getLsbD 15 && bf e.2 14 11 = p && bf e.2 10 3 = lc).map Prod.fst
/-- The logical core of a physical core. -/
def Dev.logOf (v : Dev) (phys : Nat) : Nat := bf (rget v.lay.cores phys) 10 3
/-- The partition of a physical core. -/
def Dev.partOfCore (v : Dev) (phys : Nat) : Nat := bf (rget v.lay.cores phys) 14 11
/-- The cores of a partition, by logical number, as keys. -/
def State.coresOf (s : State) (d p : Nat) : List Nat :=
  (List.range ((s.dev d).ncores p)).filterMap fun lc => ((s.dev d).physOf p lc).map (coreKey d)

/-- Doubleword `i` of an ASID row (R314). -/
def Dev.asidRow (v : Dev) (a i : Nat) : Dword := rget v.asid (4 * a + i)
/-- Capacity in bytes of a partition's local memory: its channels (R218, R219; log entry 10). -/
def Dev.capacity (v : Dev) (p : Nat) : Nat :=
  bf (v.row p 3) 54 46 * (if v.fit then 64 * 2 ^ 30 else 2 * 2 ^ 30)
/-- Carve-out of a partition in MiB (R342). -/
def Dev.carve (v : Dev) (p : Nat) : Nat := bf (v.row p 3) 45 39
/-- A valid ASID row (R314): V set, reserved fields zero, the window inside the carve-out. -/
def Dev.asidOk (v : Dev) (a : Nat) : Bool :=
  let r0 := v.asidRow a 0; let r1 := v.asidRow a 1; let r2 := v.asidRow a 2
  r0.getLsbD 0 && bf r0 63 56 = 0 && bf r0 11 1 = 0 && bf r1 63 31 = 0 && bf r2 63 14 = 0 && v.asidRow a 3 = 0#64
    && decide (bf r2 6 0 + bf r2 13 7 ≤ v.carve (bf r1 29 26))
/-- Owning partition, virtual interface and PASID of an ASID (R314). -/
def Dev.asidPart (v : Dev) (a : Nat) : Nat := bf (v.asidRow a 1) 29 26
def Dev.asidVif (v : Dev) (a : Nat) : Nat := bf (v.asidRow a 1) 25 20
def Dev.asidPasid (v : Dev) (a : Nat) : Nat := bf (v.asidRow a 1) 19 0
/-- Tenant number of a partition (R342). -/
def Dev.tenant (v : Dev) (p : Nat) : Nat := bf (v.row p 5) 11 0
def Dev.ctxOf (v : Dev) (a : Nat) : Ctx := (kget v.ctx a).getD Ctx.reset
def Dev.vifOf (v : Dev) (n : Nat) : Vif := (kget v.vif n).getD Vif.reset
def State.modCtx (s : State) (d a : Nat) (f : Ctx → Ctx) : State :=
  s.modDev d fun v => { v with ctx := kput v.ctx a (f (v.ctxOf a)) }

/-- The group stands at an issue boundary of an active bank. -/
def atBoundary (s : State) (g : Nat) : Bool :=
  match (s.contOf g).at? with
  | some (c, b) => ((if b = 0 then (s.core c).b0 else (s.core c).b1).st = .active) && (kget s.groups g).isSome
  | none => false
/-- The groups of a bank content. -/
def State.groupsOf (s : State) (c : Nat) : List Nat := (s.cont c).teams.flatMap fun t => (s.team t).groups

/-- Performance counters of a core count an event of a bank (R370, R371). -/
def State.perfIn (s : State) (core bank code n : Nat) : State :=
  if (s.core core).pmctl.isEmpty || n = 0 then s
  else
    let c := s.core core
    let hit (k : Nat) : Bool :=
      let w := rget c.pmctl k
      w.getLsbD 63 && bf w 7 0 = code && (bf w 9 8 = 0 || bf w 9 8 = bank + 1)
    let up (c : Core) (k : Nat) : Core :=
      if hit k then
        let v := (rget c.pmcnt k).toNat + n
        { c with
          pmcnt := kput c.pmcnt k (BitVec.ofNat 64 (v % 2 ^ 48))
          pmctl := if 2 ^ 48 ≤ v then kput c.pmctl k (rget c.pmctl k ||| (1#64 <<< 62)) else c.pmctl }
      else c
    { s with cores := kput s.cores core ((List.range 8).foldl up c) }
/-- The same for an event of the active bank. -/
def State.perf (s : State) (core code n : Nat) : State := s.perfIn core (s.core core).act code n
/-- The same for an event of a group, while its bank is resident. -/
def State.perfGrp (s : State) (g code n : Nat) : State :=
  match (s.contOf g).at? with
  | some (k, b) => s.perfIn k b code n
  | none => s

/-- Vector 1 of the function that presents a context's virtual interface is raised: VIRAL has reached the context
(R414). -/
def viralIrq (d a : Nat) (s : State) : State :=
  s.modDev d fun v => { v with irqs := v.irqs ++ [(v.asidVif a + 1, 1)] }
/-- Empties the bank or store of one core that holds a content (R375). When the active bank becomes EMPTY while the other
bank holds a context, a swap is requested; a request into the emptied bank is withdrawn (R408). -/
def Core.vacate (c : Nat) (k : Core) : Core :=
  let clr (b : Bank) : Bank := if b.cont = c then ⟨.empty, 0⟩ else b
  let b0 := clr k.b0
  let b1 := clr k.b1
  let hit (b : Nat) : Bool := if b = 0 then k.b0.cont = c else k.b1.cont = c
  let other : Bank := if k.act = 0 then b1 else b0
  { k with
    b0 := b0
    b1 := b1
    store := if k.store = c then 0 else k.store
    swap := if hit k.act && other.st ≠ .empty then some (1 - k.act)
      else match k.swap with
        | some b => if hit b then none else some b
        | none => none }
/-- Empties the bank or store that holds a content, when it is a core's (R375, R408). -/
def vacate (s : State) (c : Nat) : State :=
  if c = 0 then s else { s with cores := s.cores.map fun (e : Nat × Core) => (e.1, e.2.vacate c) }

/-- Drops the scratch, slices and matrix stores of a content from memory: nothing names them any more. -/
def dropMem (m : Mem) (teams : List Nat) (c : Nat) : Mem :=
  let m := teams.foldl (fun m t => memClear m (scratchKey t 0) (scratchKey t (2 ^ 24))) m
  memClear (memClear m (operandKey c 0) (operandKey c (2 ^ 20))) (accKey c 0) (accKey c (2 ^ 20))

/-- Removes a bank content with its teams and groups. -/
def dropCont (s : State) (c : Nat) : State :=
  let ts := (s.cont c).teams
  let gs := s.groupsOf c
  let s := vacate s c
  { s with
    groups := s.groups.filter fun e => !gs.contains e.1
    teams := s.teams.filter fun e => !ts.contains e.1
    conts := kdel s.conts c
    mem := dropMem s.mem ts c }

/-- The content's context has ended (R395). -/
def Cont.over (c : Cont) : Bool := match c.loc with | .ended _ => true | _ => false
/-- The contents that belong to a context (R374). -/
def contsOfCtx (s : State) (d a : Nat) : List Nat :=
  (s.conts.filter fun e => e.2.d = d && e.2.asid = a && !e.2.over).map Prod.fst
/-- A matrix operation that has started, and has still something to do (R395). -/
def MOp.started (o : MOp) : Bool := o.stage = .products || o.stage = .convert || o.stage = .drain
/-- A group of an ended context: only its issued accesses are left (R395). -/
def Group.over (G : Group) : Group :=
  { G with lanes := [], blocks := [], pend := [], recs := [], frame := none, q2 := [], q4 := [], q6 := [], q7 := [] }
/-- What a content had started is complete. -/
def contQuiet (s : State) (c : Nat) : Bool :=
  (s.cont c).mq.all (fun (e : Nat × MOp) => !e.2.started) && (s.groupsOf c).all fun g => (s.grp g).defer.isEmpty
/-- A content of a context that ends (R395): its bank is EMPTY; what has not started is discarded, and the rest stands until
it is complete. -/
def endCont (s : State) (c : Nat) : State :=
  if contQuiet s c then dropCont s c
  else
    let core := match (s.cont c).loc with | .bank k _ => k | _ => (s.cont c).last
    let s := (vacate s c).modCont c fun x => { x with loc := .ended core, mq := x.mq.filter fun (e : Nat × MOp) => e.2.started }
    (s.groupsOf c).foldl (fun s g => s.modGrp g Group.over) s

/-- Ends a context (R395, R396): its groups, unstarted commands, banks and images go; its launch nodes that have not finished
complete TERMINATED, and the nodes of its other operations are discarded with their results (log entry 141); CTXSTAT records
the cause unless an earlier record stands. -/
def endContext (s : State) (d a code why core bank slot : Nat) (va : Dword) : State :=
  let s := (contsOfCtx s d a).foldl endCont s
  let gen := ((s.dev d).ctxOf a).gen
  let mine (l : Launch) : Bool := l.d = d && l.asid = a
  let gone := (s.launches.filter fun e => mine e.2).map Prod.fst
  let p := (s.dev d).asidPart a
  let s := s.modPart d p fun q => { q with
    launchq := q.launchq.filter fun l => !gone.contains l
    fents := q.fents.filter fun e => e.asid ≠ a
    walkq := q.walkq.filter fun n =>
      match kget s.nodes n with | some x => !(x.d = d && x.asid = a) | none => true }
  let own (x : Cmd) : Bool := x.d = d && x.asid = a
  let fixCmd (x : Cmd) : Cmd :=
    if x.launch ≠ 0 && gone.contains x.launch then { x with status := 0x14, stage := .replied, launch := 0 }
    else if own x && x.stage = CStage.faulted then
      { x with stage := .finished, status := 0x0A + x.fkind, seq := none, pri := none }
    else x
  let lost (x : GNode) : Bool := x.d = d && x.asid = a && x.gen = gen
  let keep (x : GNode) : Bool := !lost x || (x.st ≠ 0 && (x.kind = 0 || x.status.isSome))
  let fixNode (x : GNode) : GNode := if lost x && x.status = none then { x with status := some 0x14, st := 1 } else x
  let s := { s with
    launches := s.launches.filter fun (_, l) => !mine l
    cmds := (s.cmds.filter fun (e : Nat × Cmd) => !(own e.2 && e.2.stage = CStage.queued)).map fun (e : Nat × Cmd) => (e.1, fixCmd e.2)
    nodes := (s.nodes.filter fun (e : Nat × GNode) => keep e.2).map fun (e : Nat × GNode) => (e.1, fixNode e.2) }
  let s := s.modCtx d a fun c =>
    let kept := c.stat.getLsbD 63
    let rec_ : Dword := BitVec.ofNat 64 (2 ^ 63 + code * 2 ^ 40 + why * 2 ^ 38 +
      (if why = 3 then 0 else (core % 256) * 2 ^ 30 + bank * 2 ^ 29 + slot * 2 ^ 23))
    { c with
      stat := if kept then c.stat &&& ~~~(1#64 <<< 62) else rec_
      va := if kept then c.va else va &&& BitVec.ofNat 64 (2 ^ 57 - 1)
      gen := c.gen + 1 }
  s.modDev d fun v => { v with irqs := v.irqs ++ [(v.asidVif a + 1, 0)] }

end Sys2Proof.Machine
end

