-- ==== Sys2Proof/Machine/Home.lean ====
section
/-! DEFINITION. Sys2Proof/Machine/Home.lean: where the bytes of a physical address live (R203, R329, R337 to R339, R425),
their folio kind (R332 to R335), spine tags (R212 to R215), poison, and the L2 copies that editions govern (R250). -/

namespace Sys2Proof.Machine
open Sys2Proof

/-- The key of byte `pa` of the physical address space of a partition (R203). -/
def pkey (d p pa : Nat) : Nat := gk 8 d p pa

/-! ### The folio table -/

/-- Doubleword i of a folio row (R332). -/
def Part.fol (q : Part) (r i : Nat) : Dword := rget q.folio (4 * r + i)
/-- Regions that a kind may have (R333). -/
def kindAdmitted (region kind scope : Nat) : Bool :=
  match region with
  | 0 => decide (kind ≤ 4)
  | 2 => decide (kind ≤ 2)
  | 4 => decide (1 ≤ kind) && decide (kind ≤ 3)
  | 8 => kind = 1 || (kind = 2 && (scope = 4 || scope = 5))
  | _ => false
/-- A folio row counts as valid (R333). -/
def Part.folOk (q : Part) (r : Nat) : Bool :=
  let a := q.fol r 0; let b := q.fol r 1; let c := q.fol r 2
  let kind := bf a 3 1; let base := bf a 55 21; let size := bf b 63 32; let sc := bf b 2 0
  a.getLsbD 0 && size ≠ 0 && bf a 63 56 = 0 && bf a 20 4 = 0 && decide (kind ≤ 4) && bf b 31 3 = 0
    && (if kind = 2 then decide (1 ≤ sc) && decide (sc ≤ 5) else sc = 0)
    && bf c 63 26 = 0 && bf c 15 10 = 0 && q.fol r 3 = 0#64
    && (kind = 3 || c = 0#64) && decide (bf c 9 0 ≤ bf c 25 16)
    && (base * 2 ^ 21) / 2 ^ 52 = ((base + size) * 2 ^ 21 - 1) / 2 ^ 52
    && kindAdmitted (base * 2 ^ 21 / 2 ^ 52) kind sc
/-- The lowest-numbered valid row that covers an address (R334). -/
def Part.folRow (q : Part) (pa : Nat) : Option Nat :=
  (List.range 256).find? fun r => q.folOk r &&
    decide (bf (q.fol r 0) 55 21 * 2 ^ 21 ≤ pa) && decide (pa < (bf (q.fol r 0) 55 21 + bf (q.fol r 1) 63 32) * 2 ^ 21)
/-- Kind and scope of a physical address (R242, R333). -/
def Part.folKind (q : Part) (pa : Nat) : Nat × Nat :=
  match if q.folio.isEmpty then none else q.folRow pa with
  | some r =>
    let kind := bf (q.fol r 0) 3 1
    (kind, match kind with | 0 => 1 | 1 => 5 | 2 => bf (q.fol r 1) 2 0 | 3 => 4 | _ => 5)
  | none => (2, match pa / 2 ^ 52 with | 0 => 3 | 2 => 5 | _ => 4)
/-- The sharing domain of a hardware-coherent line: lowest and highest node (R335). -/
def Part.folNodes (q : Part) (pa : Nat) : Nat × Nat :=
  match q.folRow pa with
  | some r => (bf (q.fol r 2) 9 0, bf (q.fol r 2) 25 16)
  | none => (0, 0)

/-- A physical address that exists (R203): region known, local offset below the capacity, kitty bits zero. -/
def paOk (s : State) (d p pa : Nat) : Bool :=
  match pa / 2 ^ 52 with
  | 0 => decide (pa < (s.dev d).capacity p)
  | 2 => true
  | 4 => true
  | 8 => pa / 2 ^ 44 % 2 ^ 8 = 0
  | _ => false

/-! ### Places -/

/-- The home of a byte: its key, the mirror's key, the reason of poison that any access meets (0 none), the home's
folio kind, the home device and partition, and whether the access must wait. -/
structure Place where
  key : Nat
  key2 : Option Nat := none
  bad : Nat := 0
  hkind : Nat := 2
  hd : Nat := 0
  hp : Nat := 0
  stall : Bool := false
  deriving DecidableEq, Repr

/-- Doubleword i of a migration entry (R328). -/
def Part.migW (q : Part) (n i : Nat) : Dword := rget q.mig (4 * n + i)
def Part.migState (q : Part) (n : Nat) : Nat := bf (q.migW n 3) 1 0
def Part.migPtr (q : Part) (n : Nat) : Nat := bf (q.migW n 3) 63 2
def Part.migSrc (q : Part) (n : Nat) : Nat := bf (q.migW n 0) 55 12 * 4096
def Part.migDst (q : Part) (n : Nat) : Nat := bf (q.migW n 1) 55 12 * 4096
def Part.migLen (q : Part) (n : Nat) : Nat := bf (q.migW n 2) 63 32 * 4096
/-- The active or done entry, or the one that stopped on a fault, that covers a local offset (R329). -/
def Part.migFind (q : Part) (off : Nat) : Option Nat :=
  if q.mig.isEmpty then none
  else (List.range 16).find? fun n =>
    q.migState n ≠ 0 && decide (q.migSrc n ≤ off) && decide (off < q.migSrc n + q.migLen n)

/-- The migration mark of a line outside the coherent folios (R212). -/
def migMark : Word := 0x11111111#32
/-- Fields of a spine tag (R212). -/
def tagST (t : Word) : Nat := bf t 2 0
def tagOWN (t : Word) : Nat := bf t 12 3
def tagSEC (t : Word) : Nat := bf t 22 13
def tagPZ (t : Word) : Bool := t.getLsbD 23
def tagMG (t : Word) : Bool := t.getLsbD 24
def tagHH (t : Word) : Bool := t.getLsbD 25
def mkTag (st own sec : Nat) : Word := BitVec.ofNat 32 (st + own * 8 + sec * 2 ^ 13)
/-- The tag returns poison: PZ, a reserved state or a reserved bit (R212, R215). -/
def tagPoison (t : Word) : Bool := tagPZ t || decide (6 ≤ tagST t) || bf t 31 26 ≠ 0
/-- The poison reason that the tag of a line gives under a covering migration entry that has not moved it (R215, R329). -/
def tagBadMig (hkind : Nat) (t : Word) : Nat := if (hkind = 3 || hkind = 4) && tagPoison t then 1 else 0
/-- The poison reason that the tag of a line gives, for a line without a covering migration entry (R212, R215, R329). -/
def tagBad (hkind : Nat) (t : Word) : Nat :=
  if t = 0#32 then 0
  else if hkind = 3 || hkind = 4 then (if tagMG t then 2 else if tagPoison t then 1 else 0)
  else if t = migMark then 2 else 0

/-- Doubleword i of an inbound row's window row (R338), read from the window block. -/
def winRow (s : State) (d p wptr w i : Nat) : Dword :=
  BitVec.ofNat 64 (memLe s.mem (gk 0 d p (wptr + 32 * w + 8 * i)) 8)
/-- The window rows of a source node, from the cached copy when there is one (R339, R341). -/
def windowRow (s : State) (d p src w i : Nat) : Dword :=
  match kget (s.part d p).winc (src * 64 + w) with
  | some r => (r[i]?).getD 0#64
  | none => winRow s d p (bf (rget (s.part d p).inb src) 55 11 * 2048) w i
/-- The base address of an admitted request to a window (R338, R339): `perm` 1 read, 2 write, 3 atomic. -/
def admitted (s : State) (d p src spart w off len perm : Nat) : Option Nat :=
  let row := rget (s.part d p).inb src
  let a := windowRow s d p src w 0; let b := windowRow s d p src w 1; let c := windowRow s d p src w 2
  let e := windowRow s d p src w 3
  let base := bf a 55 12 * 4096
  let size := bf b 24 0 * 4096
  let at_ := bf row 55 11 * 2048 + 32 * w
  let kept := (kget (s.part d p).winc (src * 64 + w)).isSome
  let seen := kept || (decide (at_ + 32 ≤ (s.dev d).capacity p) && (kget s.psn (gk 0 d p at_ / 32)).isNone)
  if (s.dev d).partOk p && seen && row.getLsbD 0 && bf row 63 56 = 0 && bf row 10 7 = spart && decide (w ≤ bf row 6 1)
      && a.getLsbD 0 && bf a 63 56 = 0 && bf a 11 4 = 0 && bf b 63 25 = 0 && bf c 63 23 = 0 && e = 0#64
      && decide (off + len ≤ size) && decide (base + size ≤ (s.dev d).capacity p)
      && (!c.getLsbD 16 || decide (bf c 7 0 < (s.dev d).ncores p)) && a.getLsbD perm
  then some base else none

/-- Switch and switch-local byte of a kitty offset, and those of the mirror (R425). -/
def kittyAt (off : Nat) : (Nat × Nat) × Option (Nat × Nat) :=
  let gib := 2 ^ 30
  if off / 2 ^ 43 % 2 = 0 then
    let u := off / 4096
    ((u % 64, u / 64 * 4096 + off % 4096), none)
  else if off / 2 ^ 36 % 2 = 0 then ((off / 2 ^ 37 % 64, 128 * gib + off % 2 ^ 36), none)
  else
    let pp := off / 2 ^ 37 % 64; let q := off / 2 ^ 30 % 64
    ((pp, 192 * gib + q * gib + off % gib), some (q, 192 * gib + pp * gib + off % gib))
/-- The planes on which a device sends: those that are up, and none after a LOCK trip (R420, R443). -/
def Dev.sends (v : Dev) : Dword := if v.lockout then 0#64 else v.planes
/-- The next plane after one, in ascending order, that is up (R420). -/
def fallback (v : Dev) (plane : Nat) : Option Nat :=
  ((List.range 63).map fun i => (plane + 1 + i) % 64).find? fun q => v.sends.getLsbD q
/-- The plane of a packet to a peer (R420): a hash of its address and its destination, or the fallback of it; none while no
plane is up. -/
def planeOf (v : Dev) (pa dest : Nat) : Option Nat :=
  let h := (pa / 2 ^ 8 % 64) ^^^ (pa / 2 ^ 14 % 64) ^^^ (dest % 64)
  if v.sends.getLsbD h then some h else fallback v h
/-- A switch is lost (R427). -/
def State.swLost (s : State) (w : Nat) : Bool := (kget s.sw w).getD false
/-- The place of a kitty byte for a tenant (R217, R425 to R427). A packet of its line goes on the plane of the switch: while
that is down the access stalls (R420; log entry 143). -/
def placeKitty (s : State) (d p off : Nat) : Place :=
  let t := (s.dev d).tenant p
  let k (x : Nat × Nat) : Nat := gk 5 0 x.1 x.2
  match s.allocs.find? fun a => a.tenant = t && decide (a.base ≤ off) && decide (off < a.base + a.size) with
  | none => { key := gk 5 0 0 0, bad := 1 }
  | some a =>
    let at_ := kittyAt off
    let unseen (w : Nat) : Bool := s.swLost w && !(s.dev d).lostSw.contains w
    let waits (w : Nat) : Bool := unseen w || (!(s.dev d).sends.getLsbD w && !(s.dev d).lostSw.contains w)
    match at_.2 with
    | none => { key := k at_.1, bad := if a.gone.any fun w => !unseen w then 5 else 0, stall := waits at_.1.1 }
    | some m =>
      let g1 := a.gone.contains at_.1.1; let g2 := a.gone.contains m.1
      if g1 && g2 then { key := k at_.1, bad := 5, stall := unseen at_.1.1 || unseen m.1 }
      else if g1 then { key := k m, stall := waits at_.1.1 || waits m.1 }
      else if g2 then { key := k at_.1, stall := waits at_.1.1 }
      else { key := k at_.1, key2 := some (k m), stall := waits at_.1.1 }

/-- The place of a local byte, after the migration table (R329). `fuel` bounds chains of entries. -/
def placeLocal (s : State) (src spart kind perm : Nat) : Nat → Nat → Nat → Nat → Place
  | 0, d, p, off => { key := gk 0 d p off, bad := 1, hd := d, hp := p }
  | fuel + 1, d, p, off =>
    let q := s.part d p
    let here : Place :=
      let hk := (q.folKind off).1
      { key := gk 0 d p off, bad := tagBad hk (rget s.tags (gk 0 d p off / 256)), hkind := hk, hd := d, hp := p }
    match q.migFind off with
    | none => here
    | some n =>
      let l := (off - q.migSrc n) / 256
      if l < q.migPtr n then
        let t := q.migDst n + (off - q.migSrc n)
        if t / 2 ^ 52 = 4 then
          let row := rget q.peer (t / 2 ^ 42 % 1024)
          let nd := bf row 10 1; let tp := bf row 14 11
          if (kget s.devs nd).isNone || (s.dev d).lostPeer.contains nd then { here with bad := 4 }
          else if !row.getLsbD 0 || bf row 63 15 ≠ 0 then { here with bad := 1 }
          else
            match admitted s nd tp d p (t / 2 ^ 36 % 64) (t % 2 ^ 36) 1 perm with
            | none => { here with bad := 1 }
            | some base => placeLocal s src spart kind perm fuel nd tp (base + t % 2 ^ 36)
        else placeLocal s src spart kind perm fuel d p t
      else { here with bad := tagBadMig here.hkind (rget s.tags (gk 0 d p off / 256)) }

/-- Steps that a chain of migration entries without a loop can take (R329). -/
def State.migFuel (s : State) : Nat := 16 * s.parts.length + 2
/-- The host behind an address or a line of a device is in the viral state (R417; log entry 21). -/
def hostViral (s : State) (d a : Nat) : Bool :=
  ((kget (s.dev d).host (Config.hostPort d (a / 256)).toNat).map (·.viral)).getD false
/-- A place at its home, unless the line is hardware-coherent and the requester's node is outside its domain (R335). -/
def inDomain (s : State) (d : Nat) (pl : Place) : Place :=
  let nodes := (s.part pl.hd pl.hp).folNodes (gkOff pl.key)
  if pl.hkind = 3 && !(decide (nodes.1 ≤ d) && decide (d ≤ nodes.2)) then { pl with bad := 1 } else pl
/-- The place of a byte of a partition's physical address space (R203, R335, R337 to R339). `perm`: 1 read, 2 write,
3 atomic. `kind`: the requester's folio kind. -/
def place (s : State) (d p kind perm pa : Nat) : Place :=
  match pa / 2 ^ 52 with
  | 0 => inDomain s d (placeLocal s d p kind perm s.migFuel d p pa)
  | 2 => { key := gk 2 d 0 (pa % 2 ^ 52), hd := d, hp := p, bad := if perm ≠ 2 && hostViral s d (pa % 2 ^ 52) then 3 else 0 }
  | 4 =>
    let row := rget (s.part d p).peer (pa / 2 ^ 42 % 1024)
    let nd := bf row 10 1; let tp := bf row 14 11
    if !row.getLsbD 0 || bf row 63 15 ≠ 0 then { key := 0, bad := 1 }
    else if (kget s.devs nd).isNone || (s.dev d).lostPeer.contains nd then { key := 0, bad := 4 }
    else
      match admitted s nd tp d p (pa / 2 ^ 36 % 64) (pa % 2 ^ 36) 1 perm with
      | none => { key := 0, bad := 1 }
      | some base =>
        let pl := placeLocal s d p kind perm s.migFuel nd tp (base + pa % 2 ^ 36)
        if (kind = 3) != (pl.hkind = 3) then { pl with bad := 1 }
        else { inDomain s d pl with stall := (planeOf (s.dev d) pa nd).isNone }
  | 8 => placeKitty s d p (pa % 2 ^ 44)
  | _ => { key := 0, bad := 1 }

/-- The poison reason of a sector of memory (R211, R392); 0 for none. -/
def secBad (s : State) (key : Nat) : Nat := (kget s.psn (key / 32)).getD 0
/-- Bytes of a bank image (R376). -/
def imageSize : Nat := 2560 * 1024
/-- Where slot i of a context's save area stands (R379). -/
def slotBase (s : State) (c : Cont) (i : Nat) : Nat :=
  gk 0 c.d c.p (bf ((s.dev c.d).ctxOf c.asid).save 55 16 * 65536 + i * imageSize)
/-- A byte of local memory lies in a slot that holds an image (R379, R380; log entry 90). -/
def inImage (s : State) (key : Nat) : Bool :=
  s.conts.any fun (e : Nat × Cont) => match e.2.loc with
    | .slot i => decide (slotBase s e.2 i ≤ key) && decide (key < slotBase s e.2 i + imageSize)
    | _ => false
/-- Reads one byte at its home: the value and the poison reason (R224). -/
def homeByte (s : State) (pl : Place) : Byte × Nat :=
  if pl.bad ≠ 0 then (0#8, pl.bad)
  else
    let viral := pl.hkind = 4 && tagHH (rget s.tags (pl.key / 256)) && hostViral s pl.hd pl.key
    if viral then (0#8, 3)
    else if inImage s pl.key then (Config.imageByte s.free pl.key, 0)
    else (memGet s.mem pl.key, secBad s pl.key)

/-! ### L2 copies of remote, kitty and host lines (R204, R250) -/

/-- The L2 keeps a copy of lines of this region and kind under an edition (R242). -/
def l2Kept (region kind : Nat) : Bool := kind = 2 && (region = 2 || region = 4 || region = 8)
/-- A copy is current (R250): system class for host lines, domain class for the others. -/
def l2Current (q : Part) (x : L2Line) (region : Nat) : Bool :=
  if region = 2 then x.sys = q.esys.toNat else x.dom = q.edom.toNat
/-- The current L2 copy that holds a byte. -/
def l2Byte (q : Part) (pk : Nat) : Option Byte :=
  (q.l2.find? fun x => x.line = pk / 256 && x.valid.getLsbD (pk / 32 % 8) && l2Current q x (gkOff pk / 2 ^ 52)).map
    fun x => memGet x.data pk
/-- Reads one byte of a partition's physical address space at its L2 (R244, R250). -/
def l2Read (s : State) (d p kind pa : Nat) : Byte × Nat :=
  match if l2Kept (pa / 2 ^ 52) kind then l2Byte (s.part d p) (pkey d p pa) else none with
  | some b => (b, 0)
  | none => homeByte s (place s d p kind 1 pa)
/-- L2 lines that serve as cache in a partition: its slices without the carve-out (R204, R218). -/
def Dev.l2Lines (v : Dev) (p : Nat) : Nat := popcount (v.row p 0) * 8192 - v.carve p * 4096
/-- Makes room for one more line in a cache of `cap` lines: a free choice of the line that goes (log entry 131). -/
def dropOne {α : Type} (n cap : Nat) (xs : List α) : List α :=
  if xs.length < cap then xs else xs.eraseIdx (Config.victim n xs.length % xs.length)
/-- Installs sectors of a line in the L2 with the current editions (R250). -/
def l2Install (s : State) (d p line mask : Nat) (src : Nat → Byte) : State :=
  s.modPart d p fun q =>
    let old := q.l2.find? fun x => x.line = line && l2Current q x (gkOff (line * 256) / 2 ^ 52)
    let base : L2Line := old.getD ⟨line, q.edom.toNat, q.esys.toNat, 0, []⟩
    let data := (List.range 256).foldl (fun m i =>
      if mask / 2 ^ (i / 32) % 2 = 1 then memSet m (256 * line + i) (src i) else m) base.data
    { q with l2 := { base with valid := base.valid ||| BitVec.ofNat 8 mask, data := data }
                     :: dropOne s.free ((s.dev d).l2Lines p) (q.l2.filter fun x => x.line ≠ line) }
/-- A store of the partition updates the copy its L2 holds (R204, R257). -/
def l2Update (s : State) (d p : Nat) (cells : List (Nat × Byte)) : State :=
  if (s.part d p).l2.isEmpty then s
  else s.modPart d p fun q => { q with l2 := q.l2.map fun x =>
    { x with data := cells.foldl (fun m (c : Nat × Byte) =>
        if c.1 / 256 = x.line then memSet m c.1 c.2 else m) x.data } }

/-! ### Spine-tag transitions for a device's own accesses (R213 to R215) -/

/-- The tag after RDSH from q (R214). `dirty`: the holder in E wrote the line. -/
def tagRdsh (t : Word) (q : Nat) (dirty : Bool) : Word :=
  let own := tagOWN t; let sec := tagSEC t
  match tagST t with
  | 0 => mkTag 2 q 0
  | 1 => if q = own || q = sec then t else if own = sec then mkTag 1 own q else mkTag 5 0 0
  | 2 => if q = own then t else if dirty then mkTag 4 own q else mkTag 1 own q
  | 3 => if q = own then t else mkTag 4 own q
  | 4 => if q = own then t else mkTag 5 0 0
  | _ => t
/-- The tag after ownership has passed to q (R214): M, or E kept for its holder, which writes silently. -/
def tagRdown (t : Word) (q : Nat) : Word :=
  if (tagST t = 2 || tagST t = 3) && tagOWN t = q then t else mkTag 3 q 0
/-- The host-held bit of a tag. -/
def tagHHbit (t : Word) : Word := t &&& (1#32 <<< 25)
/-- The tag after WBACK from q; none is a protocol error (R214). -/
def tagWback (t : Word) (q : Nat) : Option Word :=
  match tagST t with
  | 2 | 3 => if tagOWN t = q then some (tagHHbit t) else none
  | 4 => if tagOWN t = q then some (mkTag 1 (tagSEC t) (tagSEC t) ||| tagHHbit t) else none
  | _ => none
/-- The tag after EVICT from q; none is a protocol error (R214). -/
def tagEvict (t : Word) (q : Nat) : Option Word :=
  let own := tagOWN t; let sec := tagSEC t
  match tagST t with
  | 1 =>
    if q = own && q = sec then some (tagHHbit t)
    else if q = own then some (mkTag 1 sec sec ||| tagHHbit t)
    else if q = sec then some (mkTag 1 own own ||| tagHHbit t)
    else some t
  | 2 => some (if q = own then tagHHbit t else t)
  | 3 => if q = own then none else some t
  | 4 => if q = own then none else some (if q = sec then mkTag 4 own own ||| tagHHbit t else t)
  | _ => some t
/-- A device reads a coherent line: its copy comes under the tag (R214). -/
def cohRead (s : State) (pl : Place) (q : Nat) : State :=
  if (pl.hkind = 3 || pl.hkind = 4) && pl.bad = 0 then
    let line := pl.key / 256
    let t := rget s.tags line
    let dirty := (kget s.edirty line).getD false
    let n := tagRdsh (t &&& ~~~(1#32 <<< 25)) q dirty
    let grants := tagST t = 0
    let n := if tagHH t && !grants then n ||| (1#32 <<< 25) else n
    { s with tags := kput s.tags line n
             edirty := if tagST n = 2 then s.edirty else kdel s.edirty line }
  else s
/-- A device gives up its copy of a coherent line: WBACK when it holds the data, EVICT otherwise (R214, R240). -/
def cohLeave (s : State) (pl : Place) (q : Nat) : State :=
  if (pl.hkind = 3 || pl.hkind = 4) && pl.bad = 0 then
    let line := pl.key / 256
    let t := rget s.tags line
    let dirty := (kget s.edirty line).getD false || tagST t = 3 || tagST t = 4
    match if dirty && tagOWN t = q then tagWback t q else tagEvict t q with
    | some n => { s with tags := kput s.tags line n, edirty := if tagST n = 2 then s.edirty else kdel s.edirty line }
    | none => s
  else s
/-- A device writes a coherent line that it owns: it holds it in M, or in E and writes silently (R214, R244). -/
def cohWrite (s : State) (pl : Place) (q : Nat) : State :=
  if (pl.hkind = 3 || pl.hkind = 4) && pl.bad = 0 then
    let line := pl.key / 256
    let n := tagRdown (rget s.tags line &&& ~~~(1#32 <<< 25)) q
    { s with tags := kput s.tags line n
             edirty := if tagST n = 2 then kput s.edirty line true else kdel s.edirty line }
  else s
/-- The line is busy in the home's in-flight table: a new request waits (R213). -/
def homeBusy (s : State) (pl : Place) : Bool := (kget s.home (pl.key / 256)).isSome
/-- The line has a spine tag with meaning (R212). -/
def Place.coherent (pl : Place) : Bool := pl.hkind = 3 || pl.hkind = 4
/-- Device q may read the line now: nothing is under way at its home, and no host must be asked first (R213, R215). -/
def readFree (s : State) (pl : Place) : Bool :=
  pl.bad ≠ 0 || (!pl.stall && !homeBusy s pl &&
    !(pl.coherent && tagHH (rget s.tags (pl.key / 256)) && tagST (rget s.tags (pl.key / 256)) = 0))
/-- Device q holds a coherent line for writing: in M, or in E, and no host holds it (R214, R215, R244). -/
def ownsLine (t : Word) (q : Nat) : Bool := (tagST t = 2 || tagST t = 3) && tagOWN t = q && !tagHH t
/-- Device q may write the line now: nothing is under way at its home, and a coherent line is its own (R213 to R215,
R255, R256). -/
def writeFree (s : State) (q : Nat) (pl : Place) : Bool :=
  pl.bad ≠ 0 || (!pl.stall && !homeBusy s pl && (!pl.coherent || ownsLine (rget s.tags (pl.key / 256)) q))
/-- The request that device q sends the home of a line that it must have first (R214): `wr` to write it. -/
def wantOf (s : State) (q : Nat) (wr : Bool) (pl : Place) : Option (HKind × Nat × Nat) :=
  let t := rget s.tags (pl.key / 256)
  if pl.bad ≠ 0 || pl.stall || homeBusy s pl || !pl.coherent then none
  else if !wr then (if readFree s pl then none else some (.rdsh, q, pl.key / 256))
  else if ownsLine t q then none
  else if (tagST t = 1 || tagST t = 4) && (tagOWN t = q || tagSEC t = q) then some (.upgrade, q, pl.key / 256)
  else some (.rdown, q, pl.key / 256)

/-! ### Writing at the home -/

/-- Groups cells by sector of their home: (sector, cells). -/
def bySector (cells : List (Nat × Byte)) : List (Nat × List (Nat × Byte)) :=
  cells.foldl (fun acc (c : Nat × Byte) =>
    let k := c.1 / 32
    let old := (kget acc k).getD []
    kput acc k (old.filter (fun (x : Nat × Byte) => x.1 ≠ c.1) ++ [c])) []
/-- Writes the cells of one sector under the poison rule (R226): a write of the whole sector clears its poison, a write
of a part performs nothing on a poisoned one. The flag tells success. -/
def putSector (s : State) (x : Nat × List (Nat × Byte)) : State × Bool :=
  if (kget s.psn x.1).isNone then
    ({ s with mem := x.2.foldl (fun m (c : Nat × Byte) => memSet m c.1 c.2) s.mem }, true)
  else if x.2.length = 32 then
    ({ s with mem := x.2.foldl (fun m (c : Nat × Byte) => memSet m c.1 c.2) s.mem, psn := kdel s.psn x.1 }, true)
  else (s, false)
/-- Marks sectors poisoned (R211, R225). -/
def poisonSectors (s : State) (ks : List Nat) (reason : Nat) : State :=
  { s with psn := ks.foldl (fun m k => kput m k reason) s.psn }

/-! ### The L2 and the memory-side cache of a partition's own lines (R204, R210, R213, R219) -/

/-- Lines of a partition's memory-side cache (R218, R219). -/
def Dev.mscLines (v : Dev) (p : Nat) : Nat := bf (v.row p 3) 38 33 * 65536
/-- Makes room in a cache of `cap` lines for a new one: a free choice of the line that goes, with what it was (R219). -/
def roomFor {α : Type} (n cap : Nat) (m : KV α) (line : Nat) : Option (Nat × α) :=
  if (kget m line).isSome || m.length < cap then none else m[Config.victim n m.length % m.length]?
def blankLoc : LocLine := ⟨0, 0⟩
/-- Sectors become valid, and dirty with `wr`, in a line of a cache. -/
def LocLine.add (x : LocLine) (mask : BitVec 8) (wr : Bool) : LocLine :=
  ⟨x.valid ||| mask, if wr then x.dirty ||| mask else x.dirty⟩
/-- Sectors enter a partition's memory-side cache; a fill beyond the quota replaces one of its own lines (R219). -/
def mscPut (n cap line : Nat) (mask : BitVec 8) (wr : Bool) (q : Part) : Part :=
  if cap = 0 then q else
  let m := match roomFor n cap q.msc line with | some x => kdel q.msc x.1 | none => q.msc
  { q with msc := kput m line (((kget m line).getD blankLoc).add mask wr) }
/-- Sectors enter a partition's L2; a line that goes writes its dirty sectors back to the memory-side cache (R204). -/
def l2dPut (n l2cap mscap line : Nat) (mask : BitVec 8) (wr : Bool) (q : Part) : Part :=
  let q := match roomFor n l2cap q.l2d line with
    | some x =>
      let q := { q with l2d := kdel q.l2d x.1 }
      if x.2.dirty = 0#8 then q else mscPut (n + 1) mscap x.1 x.2.dirty true q
    | none => q
  { q with l2d := kput q.l2d line (((kget q.l2d line).getD blankLoc).add mask wr) }
/-- The smallest aligned block of 1, 2, 4 or 8 sectors that covers a sector mask (R210). -/
def blockCover (want : Nat) : Nat :=
  let blocks : List (Nat × Nat) := [(1, 1), (2, 3), (4, 15), (8, 255)]
  let all : List Nat := blocks.flatMap fun (b : Nat × Nat) => (List.range (8 / b.1)).map fun k => b.2 * 2 ^ (b.1 * k)
  (all.find? fun m => want &&& m = want).getD 255
/-- The block that the memory controller reads for missing sectors; a coherent line is read whole (R210, R213). -/
def fetchBlock (kind : Nat) (lack : BitVec 8) : BitVec 8 :=
  if kind = 3 || kind = 4 then 255#8 else BitVec.ofNat 8 (blockCover lack.toNat)
/-- A fetch of a line returns: its block enters the memory-side cache (R210). -/
def fetchDone (d p line : Nat) (s : State) : State :=
  let n := (s.dev d).mscLines p
  s.modPart d p fun q => match kget q.fetch line with
    | none => q
    | some b => mscPut s.free n line b false { q with fetch := kdel q.fetch line }
/-- What the memory-side cache lacks of some sectors of a line. -/
def Part.mscLack (q : Part) (line : Nat) (want : BitVec 8) : BitVec 8 := want &&& ~~~((kget q.msc line).getD blankLoc).valid
/-- A fetch for missing sectors of a line begins (R210). -/
def fetchStart (d p line : Nat) (lack : BitVec 8) (s : State) : State :=
  let kind := ((s.part d p).folKind (line * 256)).1
  s.modPart d p fun q => { q with fetch := kput q.fetch line (fetchBlock kind lack) }
/-- Sectors of a line are needed at the L2: those that it lacks come from the memory-side cache, which fetches what it
lacks, after a fetch of the line that is in flight (R204, R210). -/
def l2Need (d p line : Nat) (want : BitVec 8) (s : State) : State :=
  let lack := want &&& ~~~((kget (s.part d p).l2d line).getD blankLoc).valid
  if lack = 0#8 then s
  else
    let s := fetchDone d p line s
    let miss := (s.part d p).mscLack line lack
    let s := if miss = 0#8 then s else fetchDone d p line (fetchStart d p line miss s)
    let v := s.dev d
    s.modPart d p (l2dPut s.free (v.l2Lines p) (v.mscLines p) line lack false)
/-- A write of sectors of a line lands at the L2, which holds them dirty (R204). -/
def l2Wrote (d p line : Nat) (mask : BitVec 8) (s : State) : State :=
  let v := s.dev d
  s.modPart d p (l2dPut s.free (v.l2Lines p) (v.mscLines p) line mask true)
/-- The line of a byte of local memory at its home: device, partition, line. -/
def homeLine (key : Nat) : Option (Nat × Nat × Nat) :=
  if gkSpace key = 0 then some (gkDev key, gkInst key, gkOff key / 256) else none
/-- Sectors of a line are needed at their home's L2. -/
def needAt (pl : Place) (want : BitVec 8) (s : State) : State :=
  match if pl.bad ≠ 0 then none else homeLine pl.key with | some x => l2Need x.1 x.2.1 x.2.2 want s | none => s
/-- Sectors of a line are written at their home's L2. -/
def wroteAt (pl : Place) (mask : BitVec 8) (s : State) : State :=
  match if pl.bad ≠ 0 then none else homeLine pl.key with | some x => l2Wrote x.1 x.2.1 x.2.2 mask s | none => s

end Sys2Proof.Machine
end

