-- ==== Sys2Proof/Machine/Num.lean ====
section
/-! DEFINITION. Sys2Proof/Machine/Num.lean: the number formats of R45 to R54, exact values, rounding (R55 to R62), flags
(R63) and the functions of R146 to R163 on exact values. -/

namespace Sys2Proof.Machine
open Sys2Proof

/-- AFLAGS bits (R63, R185). -/
abbrev Flags := BitVec 6
def fSAT : Flags := 32#6
def fNV : Flags := 16#6
def fDZ : Flags := 8#6
def fOF : Flags := 4#6
def fUF : Flags := 2#6
def fNX : Flags := 1#6

/-- A floating-point format (R47): exponent bits, mantissa bits, bias; `sp`: 0 infinities and NaNs, 1 the one NaN of
E4M3, 2 neither. -/
structure Fmt where
  eb : Nat
  mb : Nat
  bias : Nat
  sp : Nat
  deriving DecidableEq, Repr

/-- The format of a type code (R45, R47). -/
def fmtOf (t : Nat) : Fmt :=
  match t with
  | 0x01 => ⟨11, 52, 1023, 0⟩ | 0x02 => ⟨5, 10, 15, 0⟩ | 0x03 => ⟨8, 7, 127, 0⟩ | 0x04 => ⟨5, 2, 15, 0⟩
  | 0x05 => ⟨4, 3, 7, 1⟩ | 0x06 => ⟨3, 2, 3, 2⟩ | 0x07 => ⟨2, 3, 1, 2⟩ | 0x08 => ⟨2, 1, 1, 2⟩
  | _ => ⟨8, 23, 127, 0⟩

/-- A value: NaN (signalling or quiet), an infinity, or (-1)^neg × m × 2^e. -/
inductive FV where
  | nan (sig : Bool)
  | inf (neg : Bool)
  | fin (neg : Bool) (m : Nat) (e : Int)
  deriving DecidableEq, Repr

/-- Sign bit, exponent field and mantissa field of an encoding. -/
def fSign (f : Fmt) (b : Nat) : Bool := b / 2 ^ (f.eb + f.mb) % 2 = 1
def fExp (f : Fmt) (b : Nat) : Nat := b / 2 ^ f.mb % 2 ^ f.eb
def fMan (f : Fmt) (b : Nat) : Nat := b % 2 ^ f.mb

/-- The value of an encoding (R47, R48). -/
def unpack (f : Fmt) (b : Nat) : FV :=
  let s := fSign f b; let e := fExp f b; let m := fMan f b
  if f.sp = 0 && e = 2 ^ f.eb - 1 then
    if m = 0 then .inf s else .nan (m < 2 ^ (f.mb - 1))
  else if f.sp = 1 && e = 2 ^ f.eb - 1 && m = 2 ^ f.mb - 1 then .nan false
  else if e = 0 then .fin s m (1 - (f.bias : Int) - f.mb)
  else .fin s (m + 2 ^ f.mb) ((e : Int) - f.bias - f.mb)

/-- A subnormal encoding. -/
def isSub (f : Fmt) (b : Nat) : Bool := fExp f b = 0 && fMan f b ≠ 0

/-- The value of an operand after FZ (R49). -/
def unpackFz (f : Fmt) (fz : Bool) (b : Nat) : FV :=
  if fz && isSub f b then .fin (fSign f b) 0 0 else unpack f b

/-- The canonical NaN of a format that has one (R47, R48). -/
def nanBits (f : Fmt) : Nat :=
  if f.sp = 0 then (2 ^ f.eb - 1) * 2 ^ f.mb + 2 ^ (f.mb - 1) else 2 ^ (f.eb + f.mb) - 1
/-- Adds the sign bit. -/
def withSign (f : Fmt) (neg : Bool) (b : Nat) : Nat := if neg then b + 2 ^ (f.eb + f.mb) else b
/-- Infinity of a format that has one. -/
def infBits (f : Fmt) (neg : Bool) : Nat := withSign f neg ((2 ^ f.eb - 1) * 2 ^ f.mb)
/-- The largest finite encoding (R47). -/
def maxBits (f : Fmt) (neg : Bool) : Nat :=
  withSign f neg (if f.sp = 0 then (2 ^ f.eb - 1) * 2 ^ f.mb - 1 else if f.sp = 1 then 2 ^ (f.eb + f.mb) - 2
    else 2 ^ (f.eb + f.mb) - 1)

/-- Rounds the magnitude m × 2^e, plus something below one unit of m when `sticky`, to a multiple of 2^q in mode `rm`
(R55, R62); the multiple and whether it is inexact. `rnd` are the random bits of SR. -/
def roundQ (rm rnd : Nat) (neg : Bool) (m : Nat) (e : Int) (sticky : Bool) (q : Int) : Nat × Bool :=
  if q ≤ e then
    let lo := m * 2 ^ (e - q).toNat
    (if sticky && ((rm = 2 && !neg) || (rm = 3 && neg)) then lo + 1 else lo, sticky)
  else
    let k := (q - e).toNat
    let far := k > Nat.log2 m + 20
    let lo := if far then 0 else m / 2 ^ k
    let rem := if far then (if m = 0 then 0 else 1) else m % 2 ^ k
    let unit := if far then 2 ^ 20 else 2 ^ k
    let inx := rem ≠ 0 || sticky
    let up :=
      match rm with
      | 0 => 2 * rem > unit || (2 * rem = unit && (sticky || lo % 2 = 1))
      | 2 => inx && !neg
      | 3 => inx && neg
      | 4 => decide (rem * 65536 / unit + rnd ≥ 65536)
      | _ => false
    (if up then lo + 1 else lo, inx)

/-- The result of an overflow (R57). -/
def overflowTo (f : Fmt) (t rm : Nat) (sn neg : Bool) : Nat × Flags :=
  let sat := f.sp = 2 || (sn && (t = 0x04 || t = 0x05))
  let clamp := sat || rm = 1 || (rm = 2 && neg) || (rm = 3 && !neg)
  if clamp then (maxBits f neg, fOF ||| fNX ||| fSAT)
  else if f.sp = 1 then (nanBits f, fOF ||| fNX)
  else (infBits f neg, fOF ||| fNX)

/-- Rounds an exact magnitude once into the format of type `t` (R56, R57). -/
def roundTo (t rm : Nat) (sn : Bool) (rnd : Nat) (neg : Bool) (m : Nat) (e : Int) (sticky : Bool) : Nat × Flags :=
  let f := fmtOf t
  if m = 0 then (withSign f neg 0, 0#6)
  else
    let emin : Int := 1 - (f.bias : Int)
    let emax : Int := (if f.sp = 0 then (2 ^ f.eb - 2 : Nat) else 2 ^ f.eb - 1 : Nat) - (f.bias : Int)
    let lead : Int := e + Nat.log2 m
    let q : Int := max lead emin - f.mb
    let r := roundQ rm rnd neg m e sticky q
    let mag := r.1
    let nx := if r.2 then fNX else 0#6
    if mag = 0 then (withSign f neg 0, if r.2 then fUF ||| fNX else 0#6)
    else
      let top : Int := q + Nat.log2 mag
      let maxm := if f.sp = 1 then 2 ^ (f.mb + 1) - 2 else 2 ^ (f.mb + 1) - 1
      if emax < top || (top = emax && Nat.log2 mag = f.mb && maxm < mag) then overflowTo f t rm sn neg
      else if mag < 2 ^ f.mb then (withSign f neg mag, if r.2 then fUF ||| fNX else 0#6)
      else
        let man := if mag = 2 ^ (f.mb + 1) then 0 else mag - 2 ^ f.mb
        (withSign f neg ((top + f.bias).toNat * 2 ^ f.mb + man), nx)

/-- The result of an operation whose value is NaN: canonical, or +0 with NV in a format without NaN (R48, R58). -/
def nanTo (t : Nat) (fl : Flags) : Nat × Flags :=
  if (fmtOf t).sp = 2 then (0, fl ||| fNV) else (nanBits (fmtOf t), fl)

/-- Converts a value into a floating-point format (R56 to R58). -/
def fvTo (t rm : Nat) (sn : Bool) (rnd : Nat) : FV → Nat × Flags
  | .nan sig => nanTo t (if sig then fNV else 0#6)
  | .inf neg =>
    let f := fmtOf t
    if f.sp = 0 then (infBits f neg, 0#6)
    else if f.sp = 1 && !sn then (nanBits f, fOF)
    else (maxBits f neg, fOF ||| fSAT)
  | .fin neg m e => roundTo t rm sn rnd neg m e false

/-- Replaces a subnormal result by zero when FZ is set (R49). -/
def flushRes (t : Nat) (fz : Bool) (r : Nat × Flags) : Nat × Flags :=
  let f := fmtOf t
  if fz && isSub f r.1 then (withSign f (fSign f r.1) 0, r.2 ||| fUF ||| fNX) else r

/-- Rounds a value to an integer and clamps it to [lo, hi]; the FW128 form also sets OF on a clamp (R54, R58). -/
def fvToInt (rm rnd : Nat) (fw : Bool) (lo hi : Int) : FV → Int × Flags
  | .nan _ => (0, fNV)
  | .inf neg => (if neg then lo else hi, if fw then fOF ||| fSAT else fSAT)
  | .fin neg m e =>
    let r := roundQ rm rnd neg m e false 0
    let x : Int := if neg then -(r.1 : Int) else r.1
    if x < lo then (lo, if fw then fOF ||| fSAT ||| fNX else fSAT ||| fNX)
    else if hi < x then (hi, if fw then fOF ||| fSAT ||| fNX else fSAT ||| fNX)
    else (x, if r.2 then fNX else 0#6)

/-- An integer as an exact value scaled by 2^e. -/
def fvOfInt (i : Int) (e : Int) : FV := .fin (i < 0) i.natAbs e

/-- An exact value times 2^k. -/
def fvScale (k : Int) : FV → FV
  | .fin n m e => .fin n m (e + k)
  | x => x

/-- An E8M0 byte as a value (R51). -/
def e8m0 (b : Nat) : FV := if b % 256 = 255 then .nan false else .fin false 1 ((b % 256 : Nat) - 127 : Int)

def fvNeg : FV → FV
  | .nan s => .nan s
  | .inf n => .inf !n
  | .fin n m e => .fin (!n) m e

def fvIsNan : FV → Bool
  | .nan _ => true
  | _ => false
def fvIsSnan : FV → Bool
  | .nan s => s
  | _ => false
def fvIsInf : FV → Bool
  | .inf _ => true
  | _ => false
def fvIsZero : FV → Bool
  | .fin _ 0 _ => true
  | _ => false
def fvSign : FV → Bool
  | .nan _ => false
  | .inf n => n
  | .fin n _ _ => n

/-- The exact product of two values that are not NaN; none for 0 × ∞ (R63). -/
def fvMul : FV → FV → Option FV
  | .fin a m e, .fin b n d => some (.fin (a != b) (m * n) (e + d))
  | .inf a, .inf b => some (.inf (a != b))
  | .inf a, .fin b n _ => if n = 0 then none else some (.inf (a != b))
  | .fin a m _, .inf b => if m = 0 then none else some (.inf (a != b))
  | _, _ => none

/-- The exact sum of finite values as an integer times a power of two. -/
def dyAdd (a b : Int × Int) : Int × Int :=
  if a.1 = 0 then b else if b.1 = 0 then a
  else
    let e := min a.2 b.2
    (a.1 * 2 ^ (a.2 - e).toNat + b.1 * 2 ^ (b.2 - e).toNat, e)

/-- A finite value as an integer times a power of two. -/
def fvDy : FV → Int × Int
  | .fin n m e => (if n then -(m : Int) else m, e)
  | _ => (0, 0)

/-- The exact sum of two values that are not NaN; none for ∞ - ∞. A zero sum takes the sign of R56: both signs when
they agree, else + except under RDN. -/
def fvAdd (rm : Nat) : FV → FV → Option FV
  | .inf a, .inf b => if a = b then some (.inf a) else none
  | .inf a, _ => some (.inf a)
  | _, .inf b => some (.inf b)
  | x, y =>
    let s := dyAdd (fvDy x) (fvDy y)
    if s.1 = 0 then
      some (.fin (if fvSign x = fvSign y then fvSign x else rm = 3) 0 0)
    else some (fvOfInt s.1 s.2)

/-- NV when any of the values is a signalling NaN (R48). -/
def snanFlag (xs : List FV) : Flags := if xs.any fvIsSnan then fNV else 0#6

/-- FADD, FSUB, FMUL on values (R146). `op`: 0 add, 1 subtract, 2 multiply. -/
def fvArith (t rm op : Nat) (x y : FV) : Nat × Flags :=
  if fvIsNan x || fvIsNan y then nanTo t (snanFlag [x, y])
  else
    match (match op with | 0 => fvAdd rm x y | 1 => fvAdd rm x (fvNeg y) | _ => fvMul x y) with
    | none => nanTo t fNV
    | some r => fvTo t rm false 0 r

/-- FFMA on values (R146): one rounding; 0 × ∞ is invalid even beside a NaN addend. -/
def fvFma (t rm : Nat) (np nc : Bool) (x y z : FV) : Nat × Flags :=
  let pz := (fvIsZero x && fvIsInf y) || (fvIsInf x && fvIsZero y)
  if pz then nanTo t fNV
  else if fvIsNan x || fvIsNan y || fvIsNan z then nanTo t (snanFlag [x, y, z])
  else
    match fvMul x y with
    | none => nanTo t fNV
    | some p =>
      match fvAdd rm (if np then fvNeg p else p) (if nc then fvNeg z else z) with
      | none => nanTo t fNV
      | some r => fvTo t rm false 0 r

/-- Less-than on values that are not NaN, with -0 below +0 when `zs` (R147, R151). -/
def fvLt (zs : Bool) (x y : FV) : Bool :=
  match x, y with
  | .inf a, .inf b => a && !b
  | .inf a, _ => a
  | _, .inf b => !b
  | .fin a m e, .fin b n d =>
    if m = 0 && n = 0 then zs && a && !b
    else
      let s := dyAdd (fvDy (.fin a m e)) (fvDy (.fin (!b) n d))
      s.1 < 0
  | _, _ => false

/-- Equality on values that are not NaN; the zeros are equal (R151). -/
def fvEq (x y : FV) : Bool := !fvLt false x y && !fvLt false y x

/-- FMIN and FMAX on encodings after FZ (R147): the operand itself. -/
def fMinMax (t : Nat) (isMax : Bool) (fz : Bool) (a b : Nat) : Nat × Flags :=
  let f := fmtOf t
  let flush (v : Nat) : Nat := if fz && isSub f v then withSign f (fSign f v) 0 else v
  let x := unpackFz f fz a; let y := unpackFz f fz b
  let fl := snanFlag [x, y]
  if fvIsNan x && fvIsNan y then (nanBits f, fl)
  else if fvIsNan x then (flush b, fl)
  else if fvIsNan y then (flush a, fl)
  else if isMax then (if fvLt true x y then flush b else flush a, fl)
  else (if fvLt true y x then flush b else flush a, fl)

/-- FRND on a value (R150): to an integer value in the same format. -/
def fvRint (t rm : Nat) (x : Bool) : FV → Nat × Flags
  | .nan sig => nanTo t (if sig then fNV else 0#6)
  | .inf n => (infBits (fmtOf t) n, 0#6)
  | .fin n m e =>
    if m = 0 || 0 ≤ e then ((roundTo t 0 false 0 n m e false).1, 0#6)
    else
      let r := roundQ rm 0 n m e false 0
      ((roundTo t 0 false 0 n r.1 0 false).1, if x && r.2 then fNX else 0#6)

/-- Integer square root by bits: the largest r with r × r ≤ n, from bit `k` down. -/
def isqrtFrom (n : Nat) : Nat → Nat → Nat
  | 0, r => r
  | k + 1, r =>
    let c := r + 2 ^ k
    if c * c ≤ n then isqrtFrom n k c else isqrtFrom n k r

/-- 1 / x (R153). -/
def fvRcp (t rm : Nat) : FV → Nat × Flags
  | .nan sig => nanTo t (if sig then fNV else 0#6)
  | .inf n => (withSign (fmtOf t) n 0, 0#6)
  | .fin n m e =>
    if m = 0 then (infBits (fmtOf t) n, fDZ)
    else
      let k := Nat.log2 m + 72
      roundTo t rm false 0 n (2 ^ k / m) (-(k : Int) - e) (2 ^ k % m ≠ 0)

/-- The square root (R153). -/
def fvSqrt (t rm : Nat) : FV → Nat × Flags
  | .nan sig => nanTo t (if sig then fNV else 0#6)
  | .inf n => if n then nanTo t fNV else (infBits (fmtOf t) false, 0#6)
  | .fin n m e =>
    if m = 0 then (withSign (fmtOf t) n 0, 0#6)
    else if n then nanTo t fNV
    else
      let k : Nat := 160 + (if (e % 2 = 0) then 0 else 1)
      let big := m * 2 ^ k
      let r := isqrtFrom big ((Nat.log2 big) / 2 + 1) 0
      roundTo t rm false 0 false r ((e - k) / 2) (r * r ≠ big)

/-- 1 / √x (R153). -/
def fvRsq (t rm : Nat) : FV → Nat × Flags
  | .nan sig => nanTo t (if sig then fNV else 0#6)
  | .inf n => if n then nanTo t fNV else (0, 0#6)
  | .fin n m e =>
    if m = 0 then (infBits (fmtOf t) n, fDZ)
    else if n then nanTo t fNV
    else
      let k : Nat := Nat.log2 m + 160
      let k2 : Nat := if (e + k) % 2 = 0 then k else k + 1
      let r := isqrtFrom (2 ^ k2 / m) ((k2 - Nat.log2 m) / 2 + 1) 0
      roundTo t rm false 0 false r (-((e + k2) / 2)) (r * r * m ≠ 2 ^ k2)

/-- Fixed-point precision of the function values: units of 2^-140. -/
def fxP : Nat := 140
/-- π in units of 2^-140. -/
def fxPi : Nat := 4378741080330103799233250808471022728399424
/-- ln 2 in units of 2^-140. -/
def fxLn2 : Nat := 966106166171702452789019208761976768099343
/-- log2 e in units of 2^-140. -/
def fxLog2e : Nat := 2010823406628030733297128842387837900889450

/-- Rounds a function value whose bounds are m and m + w units of 2^e and which is off every grid (R153): no input of a
type that the functions take has a midpoint of the grid between the bounds, so both round to the same value (log
entry 9). -/
def rndBetween (t : Nat) (neg : Bool) (m w : Nat) (e : Int) : Nat × Flags := roundTo t 0 false 0 neg (m + w / 2) e true

/-- Sum over k of c_k with c_0 = `term` and c_(k+1) = c_k × y / ((2k+2)(2k+3)), signs alternating when `alt`. -/
def sinSum (y : Nat) (alt : Bool) : Nat → Nat → Nat → Int → Int
  | 0, _, _, acc => acc
  | n + 1, k, term, acc =>
    let acc := if alt && k % 2 = 1 then acc - term else acc + term
    sinSum y alt n (k + 1) (term * y / 2 ^ fxP / ((2 * k + 2) * (2 * k + 3))) acc

/-- sin(π r) for 0 < r = m × 2^e ≤ 1/2: bounds m × S with S in units of 2^-140 (R153). -/
def sinPi (t : Nat) (neg : Bool) (m : Nat) (e : Int) : Nat × Flags :=
  let r2 : Nat := (roundQ 1 0 false (m * m) (2 * e + fxP) false 0).1
  let y := fxPi * fxPi / 2 ^ fxP * r2 / 2 ^ fxP
  let s := (sinSum y true 40 0 fxPi 0).toNat
  rndBetween t neg (m * (s - 2 ^ 12)) (m * 2 ^ 13) (e - fxP)

/-- FSIN and FCOS in half-turns (R152, R153): the argument modulo 2 as a multiple of 2^e, then the first quadrant. -/
def fvSinCos (t : Nat) (cos : Bool) : FV → Nat × Flags
  | .nan sig => nanTo t (if sig then fNV else 0#6)
  | .inf _ => nanTo t fNV
  | .fin n m e =>
    let f := fmtOf t
    let one := (roundTo t 0 false 0 false 1 0 false).1
    if m = 0 then (if cos then one else withSign f n 0, 0#6)
    else
      let k : Nat := if 0 ≤ e then 1 else (-e).toNat + 1       -- units of 2^-k, k ≥ 1
      let u : Nat := m * 2 ^ (e + k).toNat
      let half := 2 ^ (k - 1)
      let u2 := u % (4 * half)                                  -- modulo 2
      -- quadrant and remainder
      let qd := u2 / half; let r := u2 % half
      if r = 0 then
        if cos then
          (match qd with | 0 => one | 2 => withSign f true one | _ => 0, 0#6)
        else (match qd with | 1 => withSign f n one | 3 => withSign f (!n) one | _ => withSign f n 0, 0#6)
      else
        let a := if (qd % 2 = 0) != cos then r else half - r
        let neg := if cos then qd = 1 || qd = 2 else (decide (qd ≥ 2) != n)
        sinPi t neg a (-(k : Int))

/-- Sum of x^k / k! for k < n in units of 2^-140. -/
def expSum (x : Nat) : Nat → Nat → Nat → Nat → Nat
  | 0, _, _, acc => acc
  | n + 1, k, term, acc => expSum x n (k + 1) (term * x / 2 ^ fxP / (k + 1)) (acc + term)

/-- 2^f for 0 ≤ f < 1 given in units of 2^-140: a lower bound; the value is below it by less than 2^12 units more. -/
def exp2Frac (f : Nat) : Nat := expSum (f * fxLn2 / 2 ^ fxP) 45 0 (2 ^ fxP) 0

/-- FEXP2 (R153). -/
def fvExp2 (t : Nat) : FV → Nat × Flags
  | .nan sig => nanTo t (if sig then fNV else 0#6)
  | .inf n => if n then (0, 0#6) else (infBits (fmtOf t) false, 0#6)
  | .fin n m e =>
    if m = 0 then roundTo t 0 false 0 false 1 0 false
    else if 12 ≤ e + Nat.log2 m then
      roundTo t 0 false 0 false 1 (if n then -5000 else 5000) true
    else
      let fl := roundQ 3 0 n m (e + fxP) false 0               -- x in units of 2^-140, toward minus infinity
      let x : Int := if n then -(fl.1 : Int) else fl.1
      let k := x / (2 ^ fxP : Int)
      let f := (x % (2 ^ fxP : Int)).toNat
      if f = 0 && !fl.2 then roundTo t 0 false 0 false 1 k false
      else rndBetween t false (exp2Frac f) (2 ^ 13) (k - fxP)

/-- Sum of w^(2k+1) / (2k+1) in units of 2^-140. -/
def atanhSum (w2 : Nat) : Nat → Nat → Nat → Nat → Nat
  | 0, _, _, acc => acc
  | n + 1, k, p, acc => atanhSum w2 n (k + 1) (p * w2 / 2 ^ fxP) (acc + p / (2 * k + 1))

/-- FLOG2 (R153). -/
def fvLog2 (t : Nat) : FV → Nat × Flags
  | .nan sig => nanTo t (if sig then fNV else 0#6)
  | .inf n => if n then nanTo t fNV else (infBits (fmtOf t) false, 0#6)
  | .fin n m e =>
    if m = 0 then (infBits (fmtOf t) true, fDZ)
    else if n then nanTo t fNV
    else
      let l := Nat.log2 m
      let ee : Int := e + l
      if m = 2 ^ l then fvTo t 0 false 0 (fvOfInt ee 0)
      else
        let big := 1414 * 2 ^ l < 1000 * m                      -- z above about √2: use z / 2
        let den : Nat := if big then 2 ^ (l + 1) else 2 ^ l
        let kk : Int := if big then ee + 1 else ee
        let num : Int := (m : Int) - den
        let w : Nat := num.natAbs * 2 ^ fxP / (m + den)
        let a : Nat := atanhSum (w * w / 2 ^ fxP) 40 0 w 0
        let lg : Nat := 2 * a * fxLog2e / 2 ^ fxP                      -- |log2 z|
        let v : Int := kk * (2 ^ fxP : Int) + (if num < 0 then -(lg : Int) else lg)
        rndBetween t (v < 0) (v.natAbs - 2 ^ 13) (2 ^ 14) (-(fxP : Int))

/-- FTANH (R153). -/
def fvTanh (t : Nat) : FV → Nat × Flags
  | .nan sig => nanTo t (if sig then fNV else 0#6)
  | .inf n => (withSign (fmtOf t) n (roundTo t 0 false 0 false 1 0 false).1, 0#6)
  | .fin n m e =>
    let lead : Int := e + Nat.log2 m
    if m = 0 then (withSign (fmtOf t) n 0, 0#6)
    else if 6 ≤ lead then rndBetween t n (2 ^ fxP - 2 ^ 20) (2 ^ 20 - 1) (-(fxP : Int))
    else if lead < -12 then
      let y := (roundQ 1 0 false (m * m) (2 * e + fxP) false 0).1
      let y2 := y * y / 2 ^ fxP
      let s := 2 ^ fxP - y / 3 + 2 * y2 / 15 - 17 * (y2 * y / 2 ^ fxP) / 315
      rndBetween t n (m * (s - 2 ^ 46)) (m * 2 ^ 47) (e - fxP)
    else
      let u := (roundQ 1 0 false (2 * m * fxLog2e) e false 0).1
      let ex := exp2Frac (u % 2 ^ fxP) * 2 ^ (u / 2 ^ fxP)
      let one := 2 ^ fxP
      let v := (ex - one) * one / (ex + one)
      rndBetween t n (v - 2 ^ 20) (2 ^ 21) (-(fxP : Int))

/-- The class bit of an encoding (R154). -/
def fClass (f : Fmt) (fz : Bool) (b : Nat) : Nat :=
  match unpackFz f fz b with
  | .nan sig => if sig then 2 ^ 8 else 2 ^ 9
  | .inf n => if n then 1 else 2 ^ 7
  | .fin n m _ =>
    if m = 0 then (if n then 2 ^ 3 else 2 ^ 4)
    else if isSub f b then (if n then 2 ^ 2 else 2 ^ 5) else (if n then 2 ^ 1 else 2 ^ 6)

/-- The mixing function of R60. -/
def mix64 (x : Dword) : Dword :=
  let x := (x ^^^ (x >>> 30)) * 0xBF58476D1CE4E5B9#64
  let x := (x ^^^ (x >>> 27)) * 0x94D049BB133111EB#64
  x ^^^ (x >>> 31)

/-- The 16 random bits of an element (R60). -/
def srBits (seed c : Dword) : Nat := bf (mix64 (seed ^^^ mix64 c)) 63 48

/-- The exact value of an element of type `t`, with FZ for float formats (R49, R50, R51). -/
def elemVal (t : Nat) (fz : Bool) (b : Nat) : FV :=
  if t = 0x09 then e8m0 b
  else if tyFloat t then unpackFz (fmtOf t) fz b
  else fvOfInt (if tySigned t then sextNat (tyWidth t) b else ((b % 2 ^ tyWidth t : Nat) : Int)) 0

/-- Ends of an integer type (R50). -/
def minT (t : Nat) : Int := if tySigned t then -(2 ^ (tyWidth t - 1)) else 0
def maxT (t : Nat) : Int := if tySigned t then 2 ^ (tyWidth t - 1) - 1 else 2 ^ tyWidth t - 1

/-- Converts a value into type `t`, float or integer (R54 to R58). -/
def convTo (t rm : Nat) (sn : Bool) (rnd : Nat) (fz : Bool) (x : FV) : Nat × Flags :=
  if tyFloat t then flushRes t fz (fvTo t rm sn rnd x)
  else
    let r := fvToInt rm rnd false (minT t) (maxT t) x
    (wrapNat (tyWidth t) r.1, r.2)

/-- A value into FW128 under a window base (R54): the 128-bit pattern. -/
def toFw (rm : Nat) (base : Int) (x : FV) : Nat × Flags :=
  let r := fvToInt rm 0 true (-(2 ^ 127)) (2 ^ 127 - 1) (fvScale (64 - base) x)
  (wrapNat 128 r.1, r.2)

/-- The exact value of an FW128 pattern under a window base (R52). -/
def fwVal (base : Int) (n : Nat) : FV := fvOfInt (sextNat 128 n) (base - 64)

end Sys2Proof.Machine
end

