-- ==== Sys2Proof/Machine/Ops.lean ====
section
/-! DEFINITION. Sys2Proof/Machine/Ops.lean: the named operations over registers, program counters and traps: reads under
the result window (R107), writes, arrival and release (R14, R19, R23), parking (R21 to R24), taking a trap and
returning from it (R191, R192, R388). -/

namespace Sys2Proof.Machine
open Sys2Proof

/-- What a step or a meaning answers. -/
abbrev Out := Host.Outcome State Fault Refusal

/-- An event happens when the spec lets it happen, and is refused by name otherwise. -/
def guardEv (name : String) (ok : Bool) (s : State) : Out :=
  if ok then .next s else .refused (.notEnabled name)

/-- Key of register `r` of lane `l`. -/
def vk (l r : Nat) : Nat := 128 * l + r
/-- A lane of a group. -/
def Group.lane (G : Group) (l : Nat) : Lane := (kget G.lanes l).getD blankLane
/-- The mask of lanes that exist in a group (R100). -/
def Group.full (G : Group) : Dword := BitVec.ofNat 64 (2 ^ G.width - 1)
/-- The copy of scalar state that the lanes of a mask use (R18, R22). -/
def Group.copyId (G : Group) (m : Dword) : Nat := (G.lane (lowBit m)).copy
def Group.copyOf (G : Group) (c : Nat) : SCopy := (kget G.copies c).getD ⟨[], 0, []⟩

/-- The group that issues, its lanes and its copy. -/
def State.g (s : State) : Group := s.grp s.cur.grp
def State.cid (s : State) : Nat := s.g.copyId s.cur.mask
def State.sc (s : State) : SCopy := s.g.copyOf s.cid
def State.modG (s : State) (f : Group → Group) : State := s.modGrp s.cur.grp f
/-- The address after the instruction being issued. -/
def State.nextPc (s : State) : BitVec 57 := s.cur.pc + BitVec.ofNat 57 s.cur.len

/-- Predicate k as an instruction of the issuing sub-group reads it (R100, R102). -/
def predVal (s : State) (k : Nat) : Dword := if k = 0 then s.cur.mask else rget s.sc.p k &&& s.g.full

/-- The lanes an instruction acts on (R75, R84): PR, or PX and PN of a kind-0 prefix. -/
def activeMask (e : Pfx) (p : BitVec 2) (s : State) : Dword :=
  match e.k0 with
  | none => s.cur.mask &&& predVal s p.toNat
  | some x =>
    if x.pn = 1#1 then s.cur.mask &&& ~~~(predVal s x.px.toNat) else s.cur.mask &&& predVal s x.px.toNat

/-- The value of a register word in a window: the youngest of the last eight instructions that wrote it (R107). The
flag tells that it is a window-only value; a value that also went to the bank is read there. -/
def winFind (win : List WinEntry) (sc : Bool) (copy key : Nat) : Option (Bool × Word) :=
  match win with
  | [] => none
  | w :: t =>
    if w.sc = sc && (!sc || w.copy = copy) then
      match kget w.vals key with
      | some v => some (w.wb, v)
      | none => winFind t sc copy key
    else winFind t sc copy key

/-- A vector register word as the next instruction of the group reads it (R107). -/
def Group.rdV (G : Group) (l r : Nat) : Word :=
  match winFind G.win false 0 (vk l r) with
  | some (true, v) => v
  | _ => rget G.v (vk l r)

/-- The poison reason that a read of the word consumes: its mark, unless a window-only entry supplies the value
(R224); 0 for none. -/
def Group.markOf (G : Group) (l r : Nat) : Nat :=
  match winFind G.win false 0 (vk l r) with
  | some (true, _) => 0
  | _ => (kget G.pz (vk l r)).getD 0

/-- `n` register words as one number, the low word first (R46). -/
def Group.rdWords (G : Group) (l r : Nat) : Nat → Nat
  | 0 => 0
  | n + 1 => (G.rdV l r).toNat + 2 ^ 32 * G.rdWords l (r + 1) n

/-- Key of a scalar word in a window entry: register and half. -/
def sk (r h : Nat) : Nat := 2 * r + h

/-- The window as a sub-group with lowest lane `l` sees its scalar results: a window-only result that has ended for the
lane is not in it (R110; log entry 127). -/
def Group.winOf (G : Group) (l : Nat) : List WinEntry := G.win.filter fun w => !(w.wb && w.ended.getLsbD l)
/-- A scalar register under the window, for a sub-group with lowest lane `l` (R107, R109); s0 reads zero (R165). -/
def Group.rdS (G : Group) (l copy r : Nat) : Dword :=
  if r = 0 then 0#64
  else
    match winFind (G.winOf l) true copy (sk r 0), winFind (G.winOf l) true copy (sk r 1) with
    | some (true, lo), some (true, hi) => hi ++ lo
    | _, _ => rget (G.copyOf copy).s r

/-- A scalar register of the issuing sub-group. -/
def rs (s : State) (r : Nat) : Dword := s.g.rdS (lowBit s.cur.mask) s.cid r

/-- Late words of outstanding loads for a register word: a younger bank write overtakes them (R99). `hi`: loads below
this number. -/
def overtake (hi l r : Nat) (G : Group) : Group :=
  let dead (w : LateWord) : LateWord := if w.lane = l && w.reg = r then { w with dead := true } else w
  { G with pend := G.pend.map fun (e : Nat × Pend) =>
      if e.1 < hi then (e.1, { e.2 with words := e.2.words.map dead }) else e }

/-- A bank write of one register word: it clears the mark (R224) and overtakes older late writes (R99). -/
def Group.bankWr (G : Group) (l r : Nat) (x : Word) : Group :=
  let G := if G.pend.isEmpty then G else overtake (2 ^ 64) l r G
  { G with v := kput G.v (vk l r) x, pz := if G.pz.isEmpty then G.pz else kdel G.pz (vk l r) }

/-- The register words that a write of `n` words of a number touches, with their lane. -/
def wordsAt (l r v : Nat) : Nat → List (Nat × Nat × Word)
  | 0 => []
  | n + 1 => (l, r, BitVec.ofNat 32 v) :: wordsAt l (r + 1) (v / 2 ^ 32) n

/-- A scalar write to a copy; s0 discards (R165). An instruction that waits to write the same register is overtaken
(R99). -/
def Group.wrS (G : Group) (copy r : Nat) (x : Dword) : Group :=
  if r = 0 then G
  else
    let c := G.copyOf copy
    { G with
      copies := kput G.copies copy { c with s := kput c.s r x }
      blocks := G.blocks.map fun e => (e.1, if e.2.sdst = 64 * copy + r + 1 then { e.2 with sdst := 0 } else e.2) }

/-- A predicate write (R100): p0 and bits at and above the width are not written. -/
def Group.wrP (G : Group) (copy k : Nat) (x : Dword) : Group :=
  if k = 0 then G
  else
    let c := G.copyOf copy
    { G with copies := kput G.copies copy { c with p := kput c.p k (x &&& G.full) } }

/-- CC is written whole: N, Z, C, V (R166). -/
def Group.wrCC (G : Group) (copy : Nat) (x : BitVec 4) : Group :=
  { G with copies := kput G.copies copy { G.copyOf copy with cc := x } }

/-- CC from its flags (R185). -/
def ccOf (n z c v : Bool) : BitVec 4 :=
  BitVec.ofBool n ++ BitVec.ofBool z ++ BitVec.ofBool c ++ BitVec.ofBool v

/-! ### The result window -/

/-- Enters an issued instruction into the window and counts it (R107, R108). -/
def Group.push (G : Group) (w : WinEntry) : Group :=
  { G with win := (w :: G.win).take 8, past := (G.win.drop 7 ++ G.past).take 64, count := G.count + 1 }

/-- An entry of an instruction that wrote no register. -/
def emptyEntry : WinEntry := ⟨false, false, 0, false, 0, 0, 0, [], 0, 0⟩

/-! ### Lanes: arrival, release, copies -/

/-- Copies that no lane uses are discarded; the main copy stays (R23). -/
def gcCopies (G : Group) : Group :=
  { G with copies := G.copies.filter fun c =>
      c.1 = 0 || G.lanes.any fun l => l.2.copy = c.1 && l.2.st ≠ .exited }

/-- Every sibling at X is HELD at X (R19). -/
def releasable (G : Group) (x : Dword) : Bool :=
  G.lanes.all fun l =>
    l.2.st = .exited || l.2.st = .parked || l.2.meet ≠ x || (l.2.st = .held && l.2.pc.zeroExtend 64 = x)

/-- Releases the lanes HELD at X together; they adopt the main copy when one of them used it, else the copy of the
earliest record (R19, R23). -/
def releaseAt (G : Group) (x : Dword) : Group :=
  if releasable G x then
    let held := G.lanes.filter fun l => l.2.st = .held && l.2.meet = x
    let copy := held.foldl (fun c l => min c l.2.copy) ((held.head?.map (·.2.copy)).getD 0)
    gcCopies { G with lanes := G.lanes.map fun l =>
      if l.2.st = .held && l.2.meet = x then (l.1, { l.2 with st := .running, copy := copy }) else l }
  else G

/-- Every release that is due (R19). -/
def releaseDue (G : Group) : Group :=
  (G.lanes.filter fun l => l.2.st = .held).foldl (fun G l => releaseAt G l.2.meet) G

/-- A lane moves to an address; it arrives when the address becomes equal to its MEET (R14). -/
def moveLane (old new : BitVec 57) (l : Lane) : Lane :=
  { l with
    pc := new
    blk := 0
    st := if new ≠ old && new.zeroExtend 64 = l.meet then .held else .running }

/-- Moves the lanes of a mask to an address, with arrivals and releases (R14, R19). -/
def Group.moveTo (G : Group) (m : Dword) (old new : BitVec 57) : Group :=
  releaseDue { G with lanes := G.lanes.map fun l => if m.getLsbD l.1 then (l.1, moveLane old new l.2) else l }

/-- The issuing sub-group goes on at an address. -/
def goTo (a : BitVec 57) (s : State) : State := s.modG fun G => G.moveTo s.cur.mask s.cur.pc a

/-! ### Traps -/

/-- A trap about to be taken. `sub`: the trapping sub-group. -/
structure TrapInfo where
  cause : BitVec 8
  tlanes : Dword
  tva : Dword
  treta : BitVec 57
  tdest : BitVec 16
  sub : Dword
  next : BitVec 57
  decoded : Bool
  retire : Bool
  deriving DecidableEq, Repr

/-- Trap entry into the handler (R191, R389): the frame is written, the window is saved and emptied, the trapping lanes
start at THAND; nothing else changes. -/
def enterHandler (t : TrapInfo) (G : Group) : Group :=
  { G with
    frame := some
      { cause := t.cause, tlanes := t.tlanes &&& G.full, tva := t.tva &&& BitVec.ofNat 64 (2 ^ 57 - 1),
        treta := t.treta, tdest := t.tdest, sub := t.sub, next := t.next, decoded := t.decoded, retire := t.retire,
        at_ := (G.lane (lowBit t.sub)).pc, held := decide ((G.lane (lowBit t.sub)).st = .held),
        win := G.win, past := G.past, count := G.count }
    win := []
    past := []
    recs := G.recs.filter fun r => r.2.lanes &&& t.sub = 0#64
    blocks := G.blocks.filter fun b => b.2.mask &&& t.sub = 0#64
    lanes := G.lanes.map fun l =>
      if t.sub.getLsbD l.1 then (l.1, { l.2 with pc := G.thand, st := .running, blk := 0 }) else l }

/-- Taking a trap (R388): into the group's handler when THAND is set and the group is not in one, else the context
ends. -/
def takeTrap (g : Nat) (t : TrapInfo) (s : State) : State :=
  let G := s.grp g
  let s := if t.cause = 0x12#8 then viralIrq (s.contOf g).d (s.contOf g).asid s else s
  if G.thand ≠ 0#57 && G.frame.isNone then s.modGrp g (enterHandler t)
  else
    let c := s.contOf g
    endContext s c.d c.asid t.cause.toNat (if G.frame.isSome then 1 else 2)
      ((s.dev c.d).logOf (s.coreOf g % 256)) (s.bankOf g) G.slot t.tva

/-- The state of a lane that RETT resumes (R192, R14): it stays where it stood, or arrives when TRETA is its meeting
address and not the address of the trap. -/
def resumeSt (f : Frame) (l : Lane) : LaneSt :=
  if f.retire then .exited
  else if f.treta = f.at_ then (if f.held then .held else .running)
  else if f.treta.zeroExtend 64 = l.meet then .held
  else .running
/-- Returning from a trap (R192): the saved window and count come back, the trapped lanes resume at TRETA. -/
def leaveHandler (G : Group) : Group :=
  match G.frame with
  | none => G
  | some f =>
    { G with
      frame := none
      win := f.win
      past := f.past
      count := f.count
      lanes := G.lanes.map fun l =>
        if f.sub.getLsbD l.1 then (l.1, { l.2 with pc := f.treta, st := resumeSt f l.2, blk := 0 })
        else l }

/-- Scalar destination of an instruction, for TDEST and the window descriptor (R113). -/
def sdst : Instr → Option Nat
  | .sadd _ f | .ssub _ f | .smul _ f | .sand _ f | .sor _ f | .sxor _ f | .sshl _ f | .sshr _ f | .ssra _ f
  | .smin _ f | .smax _ f => some f.d.toNat
  | .saddi _ _ _ d _ | .pget _ _ d | .sprr _ _ d => some d.toNat
  | .smovi _ _ d _ => some d.toNat
  | .elect _ _ a _ => some a.toNat
  | .tclaim _ _ d | .tclaimAny _ _ d | .tstatr _ _ d | .qstat _ _ d | .bartest _ _ _ d => some d.toNat
  | .qpop _ f | .qtry _ f => if f.a = 1#7 then some f.d.toNat else none
  | .getid _ _ a d => if a = 0#6 then some d.toNat else none
  | .call _ _ => some 63
  | _ => none

/-- The W bit of an instruction (R76). -/
def wBit : Instr → Bool
  | .vadd _ f | .vsub _ f | .vmul _ f | .vmulh _ f | .vmad _ f | .vmin _ f | .vmax _ f | .vand _ f | .vor _ f
  | .vxor _ f | .vshl _ f | .vshr _ f | .vsra _ f | .vrot _ f | .vbfe _ f | .vbfi _ f | .vsel _ f | .vsat _ f
  | .vaddc _ f | .vlea _ f | .vshf _ f | .vbcast _ f | .vreduce _ f | .vscan _ f | .vdot4 _ f | .fadd _ f
  | .fsub _ f | .fmul _ f | .ffma _ f | .fmin _ f | .fmax _ f | .fsgn _ f | .fpack _ f | .fscale _ f | .fdot2 _ f
  | .fwcvt _ f | .fwadd _ f | .mov _ f => f.w = 1#1
  | .vabs _ f | .vneg _ f | .vnot _ f | .vpopc _ f | .vclz _ f | .vbrev _ f | .fclass _ f | .frcp _ f | .frsq _ f
  | .fsqrt _ f | .fexp2 _ f | .flog2 _ f | .fsin _ f | .fcos _ f | .ftanh _ f | .frnd _ f => f.w = 1#1
  | .sadd _ f | .ssub _ f | .smul _ f | .sand _ f | .sor _ f | .sxor _ f | .sshl _ f | .sshr _ f | .ssra _ f
  | .smin _ f | .smax _ f => f.w = 1#1
  | .vmovi _ _ _ w _ | .fcvt _ _ _ _ _ w _ | .fmxs _ _ _ _ w _ | .saddi _ _ _ _ w | .smovi _ _ _ w => w = 1#1
  | _ => false

/-- Width code of a destination of `n` registers (R113); wider results report 128 bits (log entry 11). -/
def wdOf (n : Nat) : Nat := if n ≤ 1 then 0 else if n ≤ 2 then 1 else 2

/-- The destination descriptor of an instruction (R113, R183): V, SC, WD, WB, REG. -/
def destDesc (i : Instr) : BitVec 16 :=
  let mk (sc wd wb reg : Nat) : BitVec 16 := BitVec.ofNat 16 (2 ^ 15 + sc * 2 ^ 14 + wd * 2 ^ 12 + wb * 2 ^ 11 + reg % 128)
  let wb := if wBit i then 1 else 0
  match sdst i with
  | some d => mk 1 1 wb d
  | none =>
    match (regs i).find? (·.dst) with
    | some r => mk 0 (wdOf r.cnt) wb r.first
    | none => 0#16

/-- A trap of the instruction being issued that RETT replays (R385). It does not count (R108). -/
def trapNow (i : Instr) (cause : Nat) (tlanes tva : Dword) (s : State) : State :=
  takeTrap s.cur.grp
    { cause := BitVec.ofNat 8 cause, tlanes := tlanes, tva := tva, treta := s.cur.pc, tdest := destDesc i,
      sub := s.cur.mask, next := s.nextPc, decoded := true, retire := false } s

/-- A trap after which RETT goes on with the next instruction (R385). -/
def trapNext (cause : Nat) (tlanes tva : Dword) (tdest : BitVec 16) (s : State) : State :=
  takeTrap s.cur.grp
    { cause := BitVec.ofNat 8 cause, tlanes := tlanes, tva := tva, treta := s.nextPc, tdest := tdest,
      sub := s.cur.mask, next := s.nextPc, decoded := true, retire := false } s

/-! ### Outstanding-operation counters (R352, R353) -/

/-- Counter k: 0 loads, 1 stores, 2 copies, 3 tiles. -/
def Group.ocOf (G : Group) (k : Nat) : OpCount := (kget G.oc k).getD ⟨0, 0, [], [], 0⟩
def OpCount.value (c : OpCount) : Nat := (c.iss - c.ret).toNat
/-- RET advances past finished operations, oldest first. -/
def OpCount.settle (c : OpCount) : Nat → OpCount
  | 0 => c
  | n + 1 =>
    if c.held.contains c.ret.toNat then
      OpCount.settle { c with ret := c.ret + 1, held := c.held.filter (· ≠ c.ret.toNat) } n
    else c
/-- Operations enter a counter; the number of the first is the old ISS. -/
def Group.enterOp (G : Group) (k n : Nat) : Group :=
  let c := G.ocOf k
  { G with oc := kput G.oc k { c with iss := c.iss + BitVec.ofNat 32 n } }
/-- The scope at which an operation performs (R258); operations far behind the youngest, which every WAIT on the class
covers, are kept as their widest scope. -/
def Group.noteOp (G : Group) (k op scope : Nat) : Group :=
  let c := G.ocOf k
  let old (e : Nat × Nat) : Bool := decide (1024 < (c.iss - BitVec.ofNat 32 e.1).toNat)
  let all := kput c.scp op scope
  { G with oc := kput G.oc k { c with
      scp := all.filter fun e => !old e
      top := (all.filter old).foldl (fun m e => max m e.2) c.top } }
/-- An operation of a counter is done (R353). -/
def Group.doneOp (G : Group) (k op : Nat) : Group :=
  let c := G.ocOf k
  let c : OpCount := { c with held := c.held ++ [op] }
  { G with oc := kput G.oc k (c.settle c.held.length) }

/-! ### Landing of loads -/

/-- The bytes that a core's write path holds for a line, laid over other bytes, oldest store first (R209). -/
def wpOver (wp : List WLine) (line : Nat) (m : Mem) : Mem :=
  wp.foldl (fun m w => if w.line = line then
    w.recs.foldl (fun m r => r.cells.foldl (fun m c => memSet m c.1 c.2) m) m else m) m

/-- The sectors of a mask, of which a test holds. -/
def secsOf (mask : Nat) (f : Nat → Bool) : List Nat := (List.range 8).filter fun k => mask / 2 ^ k % 2 = 1 && f k

/-- Installs sectors of a line in a core's L1 (R208, R230). A fill invalidates the line's copy under another name (R322).
A fill of a past edition serves only the reads that waited on it (R251). -/
def l1Install (n asid : Nat) (f : Fill) (secs : List Nat) (src : Nat → Byte × Nat) (c : Core) : Core :=
  if !f.inst || (f.ed ≠ none && f.ed ≠ some c.ed.toNat) then c
  else
    let same (x : L1Line) : Bool := x.line = f.line && x.asid = asid && x.vline = f.vline && x.ed = f.ed
    let base : L1Line := (c.l1.find? same).getD ⟨f.vline, asid, f.line, f.scope, f.ed, 0, []⟩
    let data := secs.foldl (fun m k => (List.range 32).foldl (fun m j =>
      memSet m (256 * f.line + 32 * k + j) (src (32 * k + j)).1) m) base.data
    let valid := secs.foldl (fun (v : BitVec 8) k => v ||| (1#8 <<< k)) base.valid
    { c with l1 := { base with valid := valid, data := wpOver c.wp f.line data }
                     :: dropOne n 1024 (c.l1.filter fun x => x.line ≠ f.line) }

/-- A miss return fills the L2 and the L1; poisoned sectors are not installed (R208, R239). -/
def fillLine (core d p asid : Nat) (f : Fill) (s : State) : State :=
  let pa := gkOff (f.line * 256)
  let src (i : Nat) : Byte × Nat := l2Read s d p f.kind (pa + i)
  let secs := secsOf f.mask fun k => (List.range 32).all fun j => (src (32 * k + j)).2 = 0
  let mask := secs.foldl (fun m k => m + 2 ^ k) 0
  let t := needAt (place s d p f.kind 1 pa) (BitVec.ofNat 8 f.mask) (s.modCore core (l1Install s.free asid f secs src))
  if f.inst && l2Kept (pa / 2 ^ 52) f.kind then l2Install t d p f.line mask (fun i => (src i).1) else t

/-- The values of a landed load in a window entry that waits for them (R99). -/
def fillLate (n : Nat) (p : Pend) (e : WinEntry) : WinEntry :=
  if e.late = n then
    { e with late := 0, vals := p.words.foldl (fun m (w : LateWord) => kput m (vk w.lane w.reg) w.val) e.vals }
  else e

/-- One landed word reaches the bank with its mark, unless overtaken; older loads of the word are overtaken (R99). -/
def landWord (n : Nat) (G : Group) (w : LateWord) : Group :=
  if w.dead then G
  else
    let G := overtake n w.lane w.reg G
    { G with
      v := kput G.v (vk w.lane w.reg) w.val
      pz := if w.mark = 0 then kdel G.pz (vk w.lane w.reg) else kput G.pz (vk w.lane w.reg) w.mark }

/-- The group's part of landing load n: bank words, marks, kept addresses, window entries, the completion bitmap, the
load counter (R99, R224, R231, R353). -/
def landWords (n : Nat) (p : Pend) (G : Group) : Group :=
  let G := p.words.foldl (landWord n) { G with pend := kdel G.pend n }
  let G : Group := { G with
    kept := p.keeps.foldl (fun k (x : Nat × Dword) => if (kget k x.1).isSome then k else kput k x.1 x.2) G.kept
    cb := if p.cbk = 0 then G.cb else kput G.cb (p.cbk - 1) (rget G.cb (p.cbk - 1) ||| p.cbm)
    win := G.win.map (fillLate n p)
    past := G.past.map (fillLate n p)
    frame := G.frame.map fun (f : Frame) => { f with win := f.win.map (fillLate n p), past := f.past.map (fillLate n p) } }
  G.doneOp 0 p.op

/-- A write of a whole sector clears its mark (R272). `ks`: the keys written, each once. -/
def clearWhole (ks : List Nat) (q : KV Nat) : KV Nat :=
  if q.isEmpty then q
  else q.filter fun (e : Nat × Nat) => (ks.filter fun k => k / 32 = e.1).length < 32

/-- Lands a load (R99, R230): its words reach the bank, operand bytes are written with their marks (R271, R272), and its
misses fill the caches. -/
def landLoad (g n : Nat) (s : State) : State :=
  match kget (s.grp g).pend n with
  | none => s
  | some p =>
    if !p.made then s else
    let c := s.contOf g
    let cid := (s.teamOf g).cont
    let viral : Bool := p.words.any (fun (w : LateWord) => w.mark = 3) || p.om.any fun (b : Nat × Byte × Nat) => b.2.2 = 3
    let s := if viral then viralIrq c.d c.asid s else s
    let s := s.modGrp g (landWords n p)
    let s := { s with
      mem := p.om.foldl (fun m (b : Nat × Byte × Nat) => memSet m (operandKey cid b.1) b.2.1) s.mem
      psn := p.om.foldl (fun q (b : Nat × Byte × Nat) =>
        if b.2.2 = 0 then q else kput q (operandKey cid b.1 / 32) b.2.2)
        (clearWhole (p.om.map fun (b : Nat × Byte × Nat) => operandKey cid b.1) s.psn) }
    match c.at? with
    | none => s
    | some (k, _) => p.fill.foldl (fun s f => fillLine k c.d c.p c.asid f s) s

/-- Source registers an instruction reads besides those of `regs` that are marked as sources: the old destination of a
partial write (R156, R162) and of CAS. -/
def srcRegs (i : Instr) : List VReg :=
  let xs := (regs i).filter fun r => !r.dst
  match i with
  | .fcvt _ _ t _ d _ _ => if epr t.toNat < epr (effTy i) then vsrc d (tyWords (effTy i)) :: xs else xs
  | .fwcvt e f => if e.xo = 1 && (effTy i = 2 || effTy i = 3) then vsrc f.d 1 :: xs else xs
  | _ => xs

/-- Lands every outstanding load of the group that writes a register word among `rgs` of any lane (R99). -/
def landFor (rgs : List VReg) (s : State) : State :=
  s.g.pend.foldl (fun s e =>
    if e.2.words.any fun w => rgs.any fun r => decide (r.first ≤ w.reg) && decide (w.reg < r.first + r.cnt)
    then landLoad s.cur.grp e.1 s else s) s

/-- Lands every outstanding load of a group. -/
def landAll (g : Nat) (s : State) : State := (s.grp g).pend.foldl (fun s e => landLoad g e.1 s) s

/-- Lands the outstanding TFILLs of a bank content whose bytes meet [lo, hi) of its operand memory: accesses to it take
effect in issue order (R270). -/
def landFills (cid lo hi : Nat) (s : State) : State :=
  (s.groupsOf cid).foldl (fun s g => (s.grp g).pend.foldl (fun s (e : Nat × Pend) =>
    if e.2.om.any fun (b : Nat × Byte × Nat) => decide (lo ≤ b.1) && decide (b.1 < hi) then landLoad g e.1 s else s) s) s

/-! ### Poison consumption -/

/-- Cause code of a poison reason 1 to 5 (R385, R392). -/
def poisonCause (reason : Nat) : Nat := 0x0F + reason

/-- The lowest reason that the lanes of a mask consume from the registers, and the lanes that consume it (R224). -/
def consumed (G : Group) (lanes : List Nat) (rgs : List VReg) : Option (Nat × Dword) :=
  let reason (l r : Nat) : Nat := G.markOf l r
  let hits := lanes.flatMap fun l => rgs.flatMap fun r => (List.range r.cnt).filterMap fun j =>
    let m := reason l (r.first + j)
    if m = 0 then none else some (l, m)
  match hits with
  | [] => none
  | h :: t =>
    let m := t.foldl (fun m x => min m x.2) h.2
    some (m, maskOf ((List.range 64).filter fun l => hits.contains (l, m)))

/-- The poison trap of a consumption (R224): it resets the kept address of the reason. -/
def poisonTrap (i : Instr) (reason : Nat) (tlanes : Dword) (s : State) : State :=
  let va := rget s.g.kept reason
  let s := s.modG fun G => { G with kept := kdel G.kept reason }
  trapNow i (poisonCause reason) tlanes va s

/-! ### Issuing -/

/-- Results of a register instruction: vector words, scalar registers, predicates, CC, flags. -/
structure Res where
  vws : List (Nat × Nat × Word) := []
  sws : List (Nat × Dword) := []
  pws : List (Nat × Dword) := []
  cc : Option (BitVec 4) := none
  fl : Flags := 0
  deriving DecidableEq, Repr

/-- The descriptor of an instruction's window entry (R113): its destination's, and for STIX the register of the lowest
lane that it wrote (log entry 11). -/
def entryDest (i : Instr) (r : Res) : BitVec 16 :=
  match i with
  | .stix _ _ => (match r.vws with | [] => 0#16 | x :: _ => BitVec.ofNat 16 (2 ^ 15 + x.2.1 % 128))
  | _ => destDesc i
/-- The window entry of an instruction with its results (R107, R113). -/
def entryOf (i : Instr) (mask : Dword) (copy late : Nat) (r : Res) : WinEntry :=
  let d := entryDest i r
  let any := !r.vws.isEmpty || !r.sws.isEmpty || late ≠ 0
  { wr := d.getLsbD 15 && any, sc := d.getLsbD 14, wd := bf d 13 12, wb := d.getLsbD 11, reg := bf d 6 0, copy := copy,
    lanes := if d.getLsbD 14 then mask else maskOf ((List.range 64).filter fun l => r.vws.any fun w => w.1 = l)
    vals := if d.getLsbD 14 then r.sws.foldl (fun m w => kput (kput m (sk w.1 0) (w.2.extractLsb' 0 32)) (sk w.1 1) (w.2.extractLsb' 32 32)) []
      else r.vws.foldl (fun m w => kput m (vk w.1 w.2.1) w.2.2) []
    late := late
    ended := 0 }

/-- Writes the results of an instruction: to the bank, or to the window only with W = 1; predicates, CC and AFLAGS at
once (R107). -/
def writeRes (w : Bool) (copy : Nat) (r : Res) (G : Group) : Group :=
  let G := if w then G else r.vws.foldl (fun G x => G.bankWr x.1 x.2.1 x.2.2) G
  let G := if w then G else r.sws.foldl (fun G x => G.wrS copy x.1 x.2) G
  let G := r.pws.foldl (fun G x => G.wrP copy x.1 x.2) G
  let G := match r.cc with | some c => G.wrCC copy c | none => G
  { G with aflags := G.aflags ||| r.fl }

/-- The instruction in which the issuing sub-group waits (R18), with its number. -/
def waiting (s : State) : Option (Nat × Block) :=
  let b := (s.g.lane (lowBit s.cur.mask)).blk
  if b = 0 then none else (kget s.g.blocks b).map fun x => (b, x)

/-- The watchpoints that govern the instruction at hand: those at its issue (R182, R186). -/
def watchNow (s : State) : KV Dword := match waiting s with | some (_, b) => b.watch | none => s.g.watch
/-- A window entry at the place of a waiting instruction takes its values (R99, R108). -/
def fillWait (b : Nat) (w e : WinEntry) : WinEntry := if e.late = b then { w with ended := e.ended } else e
/-- An instruction enters the window: at its issue, or at the place it took when it began to wait (R108). -/
def Group.enter (at_ : Option (Nat × Block)) (w : WinEntry) (G : Group) : Group :=
  match at_ with
  | none => G.push w
  | some (b, _) =>
    { G with
      win := G.win.map (fillWait b w)
      past := G.past.map (fillWait b w)
      frame := G.frame.map fun (f : Frame) => { f with win := f.win.map (fillWait b w), past := f.past.map (fillWait b w) }
      blocks := kdel G.blocks b }

/-- A window and the entries behind it, without the entry of waiting instruction b. -/
def takeBack (b : Nat) (win past : List WinEntry) : List WinEntry × List WinEntry :=
  let xs := (win ++ past).filter fun (w : WinEntry) => w.late ≠ b
  (xs.take 8, xs.drop 8)
/-- A waiting instruction that traps did not count (R108): its place in the window is taken back, and the entry that it
had moved out stands in the window again. One that issued before the handler ran stands in the saved window. -/
def unCount (at_ : Option (Nat × Block)) (G : Group) : Group :=
  match at_ with
  | none => G
  | some (b, x) =>
    match G.frame with
    | some f =>
      if x.mask &&& f.sub = 0#64 then
        let y := takeBack b f.win f.past
        { G with frame := some { f with win := y.1, past := y.2, count := f.count - 1 }, blocks := kdel G.blocks b }
      else
        let y := takeBack b G.win G.past
        { G with win := y.1, past := y.2, count := G.count - 1, blocks := kdel G.blocks b }
    | none =>
      let y := takeBack b G.win G.past
      { G with win := y.1, past := y.2, count := G.count - 1, blocks := kdel G.blocks b }

/-- The sub-group waits in the instruction (R18, R20): it has issued and counts once (R108); what it read is kept. -/
def stall (i : Instr) (data : List Nat) (s : State) : State :=
  match waiting s with
  | some _ => s
  | none =>
    let b := s.uid
    let dst := match sdst i with | some r => if r = 0 then 0 else 64 * s.cid + r + 1 | none => 0
    let w := entryOf i s.cur.mask s.cid b {}
    let set (l : Nat × Lane) : Nat × Lane := if s.cur.mask.getLsbD l.1 then (l.1, { l.2 with blk := b }) else l
    (s.modG fun G =>
      let G := G.push w
      { G with lanes := G.lanes.map set
               blocks := kput G.blocks b ⟨i, s.cur.mask, s.cur.pc, s.cur.len, data, dst, s.g.watch⟩ }).fresh

/-- An instruction completes with its results: writes, window entry and count, and the sub-group goes on at `next`. A
scalar result of an instruction that waited is dropped when a younger write overtook it (R99). `late`: the load whose
words follow. -/
def finishLate (i : Instr) (late : Nat) (r : Res) (next : BitVec 57) (s : State) : State :=
  let copy := s.cid
  let m := s.cur.mask
  let at_ := waiting s
  let gone : Bool := match at_ with | some (_, b) => decide (b.sdst = 0) | none => false
  let bank : Res := { r with sws := if gone then [] else r.sws, vws := if late = 0 then r.vws else [] }
  goTo next (s.modG fun G => (writeRes (wBit i) copy bank G).enter at_ (entryOf i m copy late r))

/-- The same with every result at hand. -/
def finishAt (i : Instr) (r : Res) (next : BitVec 57) (s : State) : State := finishLate i 0 r next s

/-- The same with sequential flow. -/
def finish (i : Instr) (r : Res) (s : State) : State := finishAt i r s.nextPc s

/-- Issue of a register instruction (R224, R386): older loads of its sources land (R99), a marked source word traps,
and otherwise the body runs. `lanes`: the active lanes. -/
def issue (i : Instr) (lanes : Dword) (body : State → State) (s : State) : Out :=
  let rgs := srcRegs i
  let s := landFor rgs s
  .next (match consumed s.g (lanesOf s.g.width lanes) rgs with
    | some (m, tl) => poisonTrap i m tl s
    | none => body s)

/-- The usual case: results computed from the state. -/
def issueRes (i : Instr) (lanes : Dword) (f : State → Res) (s : State) : Out :=
  issue i lanes (fun s => finish i (f s) s) s

/-- Issue of an instruction that reads words of other lanes. `rds`: active lane, lane read, first register, count.
A marked word is consumed wherever its lane stands (R135). -/
def issueAcross (i : Instr) (rgs : List VReg) (rds : State → List (Nat × Nat × Nat × Nat)) (f : State → Res) (s : State) :
    Out :=
  let s := landFor rgs s
  let hits := (rds s).flatMap fun (x : Nat × Nat × Nat × Nat) => (List.range x.2.2.2).filterMap fun j =>
    let m := s.g.markOf x.2.1 (x.2.2.1 + j)
    if m = 0 then none else some (x.1, m)
  .next (match hits with
    | [] => finish i (f s) s
    | h :: t =>
      let m := t.foldl (fun m x => min m x.2) h.2
      poisonTrap i m (maskOf ((List.range 64).filter fun l => hits.contains (l, m))) s)

/-- Nothing to check and nothing to read from vector registers. -/
def issueS (i : Instr) (f : State → Res) (s : State) : Out := .next (finish i (f s) s)

end Sys2Proof.Machine
end

