-- ==== Sys2Proof/Machine/Flags.lean ====
section
/-! DEFINITION. Sys2Proof/Machine/Flags.lean: the condition code of the scalar instructions (R168), the control bits that
change arithmetic (R185), and flags over elements (R144). -/

namespace Sys2Proof.Machine
open Sys2Proof

/-- FZ, bit 8 of AENABLE (R185, R49). -/
def Group.fz (G : Group) : Bool := G.aen.getLsbD 8

/-- The flags of several elements (R144). -/
def orFlags : List Flags → Flags
  | [] => 0#6
  | x :: t => x ||| orFlags t

/-- SAT when a clamp changed the value. -/
def satFlag (changed : Bool) : Flags := if changed then fSAT else 0#6

/-- N and Z of a `w`-bit pattern (R168). -/
def nOf (w v : Nat) : Bool := v / 2 ^ (w - 1) % 2 = 1
def zOf (w v : Nat) : Bool := v % 2 ^ w = 0

/-- The condition code of a result with its carry and overflow (R168, R185). -/
def ccRes (w v : Nat) (c o : Bool) : BitVec 4 := ccOf (nOf w v) (zOf w v) c o

/-- N, Z, C and V of a condition code (R185). -/
def ccN (c : BitVec 4) : Bool := c.getLsbD 3
def ccZ (c : BitVec 4) : Bool := c.getLsbD 2
def ccC (c : BitVec 4) : Bool := c.getLsbD 1
def ccV (c : BitVec 4) : Bool := c.getLsbD 0

end Sys2Proof.Machine
end

