-- ==== Sys2Proof/Machine/Operands.lean ====
section
/-! DEFINITION. Sys2Proof/Machine/Operands.lean: every operand form of the vector instructions: elements (R46, R121), operand
B as a register or a kind-1 immediate (R85, R122, R142), and the lane-wise shape of an instruction. -/

namespace Sys2Proof.Machine
open Sys2Proof

/-- The container width of a type: 6-bit elements lie in 8-bit containers (R46, R142). -/
def cWidth (t : Nat) : Nat := if tyWidth t = 6 then 8 else tyWidth t
/-- Elements of one operand of a type (R121, R142). -/
def elems (t : Nat) : Nat := if cWidth t ≤ 32 then 32 / cWidth t else 1
/-- Element `k` of a number cut into `w`-bit elements. -/
def elemOf (w v k : Nat) : Nat := v / 2 ^ (w * k) % 2 ^ w
/-- The number whose `w`-bit elements are given, element 0 first. -/
def joinElems (w : Nat) : List Nat → Nat
  | [] => 0
  | x :: t => x % 2 ^ w + 2 ^ w * joinElems w t
/-- Element `k` of an integer operand, extended by its type (R121). -/
def extOf (t v k : Nat) : Int :=
  if tySigned t then sextNat (tyWidth t) (elemOf (tyWidth t) v k) else (elemOf (tyWidth t) v k : Int)

/-- Applies a function to each element number and joins the results and the flags. -/
def perElem (w n : Nat) (f : Nat → Nat × Flags) : Nat × Flags :=
  let r := (List.range n).map f
  (joinElems w (r.map Prod.fst), orFlags (r.map Prod.snd))

/-- Operand B: a register, or the 30-bit immediate of a kind-1 prefix or a short form (R85, R81). -/
inductive BOp where
  | reg (r : BitVec 7)
  | imm (x : BitVec 30)
  deriving DecidableEq, Repr

/-- Operand B of a format-G word (R85, R122). -/
def bOp (e : Pfx) (b : BitVec 7) : BOp := if e.long then .imm (imm30 e b) else .reg b
/-- The immediate of a short form, sign-extended (R81). -/
def bImm5 (b : BitVec 5) : BOp := .imm (b.signExtend 30)
/-- The unsigned immediate of a short shift (R81). -/
def bZimm5 (b : BitVec 5) : BOp := .imm (b.zeroExtend 30)

/-- Operand B of an integer, raw-bit or FW type, as the operand's bits (R122, R163). -/
def opInt (G : Group) (b : BOp) (t l : Nat) : Nat :=
  match b with
  | .reg r => G.rdWords l r.toNat (tyWords t)
  | .imm x =>
    if 32 ≤ tyWidth t then wrapNat (tyWidth t) (sextNat 30 x.toNat)
    else joinElems (tyWidth t) (List.replicate (elems t) (x.toNat % 2 ^ tyWidth t))

/-- Operand B of a floating-point type (R85, R142): imm30 × 4 as FP32 bits, widened for F64; the low bits for 16-bit
types. -/
def opFloat (G : Group) (b : BOp) (t l : Nat) : Nat :=
  match b with
  | .reg r => G.rdWords l r.toNat (tyWords t)
  | .imm x =>
    if t = 0x00 then 4 * x.toNat
    else if t = 0x01 then
      let f := fmtOf 0x00
      match unpack f (4 * x.toNat) with
      | .nan _ => fMan f (4 * x.toNat) * 2 ^ 29 + (2047 * 2 ^ 52) + (if fSign f (4 * x.toNat) then 2 ^ 63 else 0)
      | v => (fvTo 0x01 0 false 0 v).1
    else joinElems (tyWidth t) (List.replicate (elems t) (x.toNat % 2 ^ tyWidth t))

/-- A count, position, index or scale operand B: 32 bits (R121, R142). -/
def opCount (G : Group) (b : BOp) (l : Nat) : Nat :=
  match b with
  | .reg r => (G.rdV l r.toNat).toNat
  | .imm x => wrapNat 32 (sextNat 30 x.toNat)

/-- Results of a lane-wise instruction: `n` registers from `d` in each lane of the list. -/
def laneRes (ls : List Nat) (d n : Nat) (f : Nat → Nat × Flags) : Res :=
  let r := ls.map fun l => (l, f l)
  { vws := r.flatMap fun (x : Nat × Nat × Flags) => wordsAt x.1 d x.2.1 n
    fl := orFlags (r.map fun (x : Nat × Nat × Flags) => x.2.2) }

/-- A lane-wise vector instruction: each active lane computes its result from the group's registers (R120, R141). -/
def vecOp (i : Instr) (e : Pfx) (p : BitVec 2) (d : BitVec 7) (n : Nat) (f : Group → Nat → Nat × Flags) (s : State) :
    Out :=
  issueRes i (activeMask e p s)
    (fun s => laneRes (lanesOf s.g.width (activeMask e p s)) d.toNat n (f s.g)) s

/-- A lane-wise instruction computed element by element on integers of type `t`. -/
def intOp (i : Instr) (e : Pfx) (p : BitVec 2) (t : Nat) (d a : BitVec 7) (b : BOp)
    (f : Int → Int → Nat × Flags) (s : State) : Out :=
  vecOp i e p d (tyWords t) (fun G l =>
    let x := G.rdWords l a.toNat (tyWords t)
    let y := opInt G b t l
    perElem (tyWidth t) (elems t) fun k => f (extOf t x k) (extOf t y k)) s

/-- Wraps an exact integer result, or clamps it and tells SAT (R125). -/
def narrow (t : Nat) (sat : Bool) (v : Int) : Nat × Flags :=
  if sat then
    let e := max (minT t) (min (maxT t) v)
    (wrapNat (tyWidth t) e, satFlag (e ≠ v))
  else (wrapNat (tyWidth t) v, 0#6)

/-- A compare into a predicate: lane by lane a truth value, combined with the old mask by XO (R131, R151). -/
def cmpRes (s : State) (m : Dword) (pd xo : Nat) (ls : List Nat) (f : Nat → Bool × Flags) : Res :=
  let r := ls.map fun l => (l, f l)
  let c := maskOf ((r.filter fun (x : Nat × Bool × Flags) => x.2.1).map Prod.fst)
  let old := predVal s pd
  let new := match xo with | 0 => c | 1 => old &&& c | _ => old ||| c
  { pws := [(pd, (old &&& ~~~m) ||| (new &&& m))]
    fl := orFlags (r.map fun (x : Nat × Bool × Flags) => x.2.2) }

end Sys2Proof.Machine
end

