-- ==== Sys2Proof/Machine/VecFloat.lean ====
section
/-! DEFINITION. Sys2Proof/Machine/VecFloat.lean: the floating-point and conversion instructions (R141 to R163). -/

namespace Sys2Proof.Machine
open Sys2Proof

/-- Element `k` of a float operand as a value, after FZ (R49, R142). -/
def fElem (t : Nat) (fz : Bool) (v k : Nat) : FV := elemVal t fz (elemOf (cWidth t) v k)

/-- A lane-wise instruction of two float operands (R145). -/
def fltOp (i : Instr) (e : Pfx) (p : BitVec 2) (t : Nat) (d a : BitVec 7) (b : BOp)
    (g : Bool → Nat → Nat → Nat × Flags) (s : State) : Out :=
  vecOp i e p d (tyWords t) (fun G l =>
    let x := G.rdWords l a.toNat (tyWords t)
    let y := opFloat G b t l
    perElem (cWidth t) (elems t) fun k => g G.fz (elemOf (cWidth t) x k) (elemOf (cWidth t) y k)) s

/-- FADD, FSUB, FMUL on encodings: one rounding, FZ on inputs and result (R146, R49). -/
def fArithBits (t rm op : Nat) (fz : Bool) (x y : Nat) : Nat × Flags :=
  flushRes t fz (fvArith t rm op (elemVal t fz x) (elemVal t fz y))
def execFadd (e : Pfx) (f : GForm) (s : State) : Out :=
  let t := effTy (.fadd e f)
  fltOp (.fadd e f) e f.p t f.d f.a (bOp e f.b) (fArithBits t e.rm 0) s
def execFsub (e : Pfx) (f : GForm) (s : State) : Out :=
  let t := effTy (.fsub e f)
  fltOp (.fsub e f) e f.p t f.d f.a (bOp e f.b) (fArithBits t e.rm 1) s
def execFmul (e : Pfx) (f : GForm) (s : State) : Out :=
  let t := effTy (.fmul e f)
  fltOp (.fmul e f) e f.p t f.d f.a (bOp e f.b) (fArithBits t e.rm 2) s
/-- FFMA: exact product and sum, one rounding (R146). -/
def execFfma (e : Pfx) (f : GForm) (s : State) : Out :=
  let t := effTy (.ffma e f)
  vecOp (.ffma e f) e f.p f.d (tyWords t) (fun G l =>
    let x := G.rdWords l f.a.toNat (tyWords t)
    let y := opFloat G (bOp e f.b) t l
    let z := G.rdWords l (e.rc f.d).toNat (tyWords t)
    perElem (cWidth t) (elems t) fun k => flushRes t G.fz
      (fvFma t e.rm (e.xo % 2 = 1) (2 ≤ e.xo) (fElem t G.fz x k) (fElem t G.fz y k) (fElem t G.fz z k))) s
/-- FMIN and FMAX return an operand (R147). -/
def execFmin (e : Pfx) (f : GForm) (s : State) : Out :=
  let t := effTy (.fmin e f)
  fltOp (.fmin e f) e f.p t f.d f.a (bOp e f.b) (fMinMax t false) s
def execFmax (e : Pfx) (f : GForm) (s : State) : Out :=
  let t := effTy (.fmax e f)
  fltOp (.fmax e f) e f.p t f.d f.a (bOp e f.b) (fMinMax t true) s
/-- The magnitude of x with the sign that XO selects (R148). -/
def fsgnBits (t xo x y : Nat) : Nat :=
  let f := fmtOf t
  let neg := match xo with | 0 => fSign f y | 1 => !fSign f y | _ => fSign f x != fSign f y
  withSign f neg (x % 2 ^ (f.eb + f.mb))
/-- FSGN is a move: no flag, no FZ (R148). -/
def execFsgn (e : Pfx) (f : GForm) (s : State) : Out :=
  let t := effTy (.fsgn e f)
  fltOp (.fsgn e f) e f.p t f.d f.a (bOp e f.b) (fun _ x y => (fsgnBits t e.xo x y, 0#6)) s

/-- The condition CD of FCMP with its NV rule (R151). -/
def fcmpCond (cd : Nat) (x y : FV) : Bool × Flags :=
  let un := fvIsNan x || fvIsNan y
  let sig := snanFlag [x, y]
  let any := if un then fNV else 0#6
  match cd with
  | 0 => (!un && fvEq x y, sig)
  | 1 => (un || !fvEq x y, sig)
  | 2 => (!un && fvLt false x y, any)
  | 3 => (!un && !fvLt false y x, any)
  | 4 => (!un && fvLt false y x, any)
  | 5 => (!un && !fvLt false x y, any)
  | 6 => (un, sig)
  | _ => (!un, sig)
/-- FCMP (R151). -/
def execFcmp (e : Pfx) (f : CForm) (s : State) : Out :=
  let t := effTy (.fcmp e f)
  let m := activeMask e f.p s
  issueRes (.fcmp e f) m (fun s => cmpRes s m f.q.toNat e.xo (lanesOf s.g.width m) fun l =>
    fcmpCond f.c.toNat (elemVal t s.g.fz (s.g.rdWords l f.a.toNat (tyWords t)))
      (elemVal t s.g.fz (s.g.rdWords l f.b.toNat (tyWords t)))) s

/-- A function of one float operand, element by element (R152). -/
def funOp (i : Instr) (e : Pfx) (f : UForm) (t : Nat) (g : Nat → FV → Nat × Flags) (s : State) : Out :=
  vecOp i e f.p f.d (tyWords t) (fun G l =>
    let x := G.rdWords l f.a.toNat (tyWords t)
    perElem (cWidth t) (elems t) fun k =>
      flushRes t G.fz (g (elemOf (cWidth t) x k) (fElem t G.fz x k))) s
/-- FCLASS: a class mask per element, one register (R154). -/
def execFclass (e : Pfx) (f : UForm) (s : State) : Out :=
  let t := effTy (.fclass e f)
  vecOp (.fclass e f) e f.p f.d 1 (fun G l =>
    let x := G.rdWords l f.a.toNat (tyWords t)
    perElem (min 32 (cWidth t)) (elems t) fun k => (fClass (fmtOf t) G.fz (elemOf (cWidth t) x k), 0#6)) s
def execFrcp (e : Pfx) (f : UForm) (s : State) : Out :=
  let t := effTy (.frcp e f)
  funOp (.frcp e f) e f t (fun _ => fvRcp t e.rm) s
def execFrsq (e : Pfx) (f : UForm) (s : State) : Out :=
  let t := effTy (.frsq e f)
  funOp (.frsq e f) e f t (fun _ => fvRsq t e.rm) s
def execFsqrt (e : Pfx) (f : UForm) (s : State) : Out :=
  let t := effTy (.fsqrt e f)
  funOp (.fsqrt e f) e f t (fun _ => fvSqrt t e.rm) s
def execFexp2 (e : Pfx) (f : UForm) (s : State) : Out :=
  let t := effTy (.fexp2 e f)
  funOp (.fexp2 e f) e f t (fun _ => fvExp2 t) s
def execFlog2 (e : Pfx) (f : UForm) (s : State) : Out :=
  let t := effTy (.flog2 e f)
  funOp (.flog2 e f) e f t (fun _ => fvLog2 t) s
def execFsin (e : Pfx) (f : UForm) (s : State) : Out :=
  let t := effTy (.fsin e f)
  funOp (.fsin e f) e f t (fun _ => fvSinCos t false) s
def execFcos (e : Pfx) (f : UForm) (s : State) : Out :=
  let t := effTy (.fcos e f)
  funOp (.fcos e f) e f t (fun _ => fvSinCos t true) s
def execFtanh (e : Pfx) (f : UForm) (s : State) : Out :=
  let t := effTy (.ftanh e f)
  funOp (.ftanh e f) e f t (fun _ => fvTanh t) s
/-- FRND: to an integer value in the same format (R150). -/
def execFrnd (e : Pfx) (f : UForm) (s : State) : Out :=
  let t := effTy (.frnd e f)
  funOp (.frnd e f) e f t (fun _ => fvRint t e.rm (e.xo = 1)) s
/-- FSCALE: times 2^n, n signed from B (R149). -/
def execFscale (e : Pfx) (f : GForm) (s : State) : Out :=
  let t := effTy (.fscale e f)
  vecOp (.fscale e f) e f.p f.d (tyWords t) (fun G l =>
    let x := G.rdWords l f.a.toNat (tyWords t)
    let n := sextNat 32 (opCount G (bOp e f.b) l)
    perElem (cWidth t) (elems t) fun k => flushRes t G.fz (fvTo t e.rm false 0 (fvScale n (fElem t G.fz x k)))) s

/-! ### Conversions -/

/-- The random bits of an element under RM = 4: seed s(k), coordinate s(k + 1) + lane × n + element (R61, R157). -/
def srRnd (s : State) (e : Pfx) (d : BitVec 7) (l n k : Nat) : Nat :=
  if e.rm = 4 then
    let r := (e.rc d).toNat
    srBits (rs s r) (rs s (r + 1) + BitVec.ofNat 64 (l * n + k))
  else 0

/-- Replaces element `k` of a number. -/
def putElem (w v k x : Nat) : Nat := v - elemOf w v k * 2 ^ (w * k) + x % 2 ^ w * 2 ^ (w * k)

/-- One lane of FCVT (R156): the old destination with its converted elements. -/
def cvtLane (dt st rm slot : Nat) (sn fz : Bool) (rnd : Nat → Nat) (old src : Nat) : Nat × Flags :=
  let n := min (epr dt) (epr st)
  (List.range n).foldl (fun (acc : Nat × Flags) k =>
    let x := elemOf (cWidth st) src (if epr dt < epr st then slot * n + k else k)
    let r := convTo dt rm sn (rnd k) fz (elemVal st fz x)
    (putElem (cWidth dt) acc.1 (if epr st < epr dt then slot * n + k else k) r.1, acc.2 ||| r.2)) (old, 0#6)
/-- FCVT (R155 to R157). -/
def execFcvt (e : Pfx) (sl : BitVec 1) (t : BitVec 5) (a d : BitVec 7) (w : BitVec 1) (p : BitVec 2) (s : State) :
    Out :=
  let i : Instr := .fcvt e sl t a d w p
  let dt := effTy i
  let st := t.toNat
  let n := min (epr dt) (epr st)
  let rnd := srRnd s e d
  vecOp i e p d (tyWords dt) (fun G l =>
    cvtLane dt st e.rm (cvtSlot sl e) e.sn G.fz (fun k => rnd l n k) (G.rdWords l d.toNat (tyWords dt))
      (G.rdWords l a.toNat (tyWords st))) s

/-- The largest exponent of an MX element format (R158). -/
def mxEmax (t : Nat) : Int := match t with | 4 => 15 | 5 => 8 | 6 => 4 | _ => 2
/-- The E8M0 scale of a magnitude (R158). -/
def mxScale (t : Nat) : FV → Nat × Flags
  | .nan sig => (255, if sig then fNV else 0#6)
  | .inf _ => (255, 0#6)
  | .fin _ m e =>
    if m = 0 then (127, 0#6)
    else
      let v : Int := e + Nat.log2 m - mxEmax t + 127
      let c := max 0 (min 254 v)
      (c.toNat, satFlag (c ≠ v))
/-- FMXS (R158). -/
def execFmxs (e : Pfx) (t : BitVec 5) (a d : BitVec 7) (w : BitVec 1) (p : BitVec 2) (s : State) : Out :=
  vecOp (.fmxs e t a d w p) e p d 1 (fun G l => mxScale t.toNat (elemVal 0x00 G.fz (G.rdV l a.toNat).toNat)) s

/-- FPACK (R159). -/
def execFpack (e : Pfx) (f : GForm) (s : State) : Out :=
  let t := effTy (.fpack e f)
  let rnd := srRnd s e f.d
  vecOp (.fpack e f) e f.p f.d 1 (fun G l =>
    let sc := opCount G (bOp e f.b) l % 256
    perElem (cWidth t) (epr t) fun k =>
      if sc = 255 then nanTo t 0#6
      else convTo t e.rm e.sn (rnd l (epr t) k) G.fz
        (fvScale (127 - (sc : Int)) (elemVal 0x00 G.fz (G.rdV l (f.a.toNat + k)).toNat))) s
/-- FUNPACK (R160). -/
def execFunpack (e : Pfx) (f : NForm) (s : State) : Out :=
  let t := effTy (.funpack e f)
  vecOp (.funpack e f) e f.p f.d (epr t) (fun G l =>
    let sc := opCount G (bOp e f.b) l % 256
    let x := (G.rdV l f.a.toNat).toNat
    perElem 32 (epr t) fun k =>
      if sc = 255 then nanTo 0x00 (snanFlag [fElem t G.fz x k])
      else flushRes 0x00 G.fz (fvTo 0x00 e.rm false 0 (fvScale ((sc : Int) - 127) (fElem t G.fz x k)))) s

/-- The exact sum of an addend and two products, rounded once to F32 (R161). -/
def dot2 (rm : Nat) (c a0 b0 a1 b1 : FV) : Nat × Flags :=
  if [c, a0, b0, a1, b1].any fvIsNan then nanTo 0x00 (snanFlag [c, a0, b0, a1, b1])
  else
    match fvMul a0 b0, fvMul a1 b1 with
    | some p, some q =>
      if fvIsInf p && fvIsInf q && fvSign p ≠ fvSign q then nanTo 0x00 fNV
      else
        match fvAdd rm c p with
        | none => nanTo 0x00 fNV
        | some x =>
          match fvAdd rm x q with
          | none => nanTo 0x00 fNV
          | some y => fvTo 0x00 rm false 0 y
    | _, _ => nanTo 0x00 fNV
/-- FDOT2 (R161). -/
def execFdot2 (e : Pfx) (f : GForm) (s : State) : Out :=
  let t := effTy (.fdot2 e f)
  vecOp (.fdot2 e f) e f.p f.d 1 (fun G l =>
    let x := G.rdWords l f.a.toNat 1
    let y := opFloat G (bOp e f.b) t l
    flushRes 0x00 G.fz (dot2 e.rm (elemVal 0x00 G.fz (G.rdV l (e.rc f.d).toNat).toNat) (fElem t G.fz x 0)
      (fElem t G.fz y 0) (fElem t G.fz x 1) (fElem t G.fz y 1))) s

/-- The window base of FWCVT: s(b)[9:0] as S10, or the immediate (R162). -/
def fwBase (s : State) (e : Pfx) (b : BitVec 7) : Int :=
  if e.long then sextNat 30 (imm30 e b).toNat else sextNat 10 (rs s b.toNat).toNat
/-- FWCVT (R162). -/
def execFwcvt (e : Pfx) (f : GForm) (s : State) : Out :=
  let i : Instr := .fwcvt e f
  let t := effTy i
  let base := fwBase s e f.b
  if e.xo = 0 then
    vecOp i e f.p f.d 4 (fun G l => toFw e.rm base (elemVal t G.fz (G.rdWords l f.a.toNat (tyWords t)))) s
  else
    vecOp i e f.p f.d (tyWords t) (fun G l =>
      let r := convTo t e.rm false 0 G.fz (fwVal base (G.rdWords l f.a.toNat 4))
      (if tyWidth t = 16 then putElem 16 (G.rdV l f.d.toNat).toNat 0 r.1 else r.1, r.2)) s
/-- FWADD: modulo 2^128 (R163). -/
def execFwadd (e : Pfx) (f : GForm) (s : State) : Out :=
  vecOp (.fwadd e f) e f.p f.d 4 (fun G l =>
    let x := G.rdWords l f.a.toNat 4
    let y := opInt G (bOp e f.b) 0x0A l
    (if e.xo = 0 then (x + y) % 2 ^ 128 else (x + (2 ^ 128 - y % 2 ^ 128)) % 2 ^ 128, 0#6)) s

end Sys2Proof.Machine
end

