-- ==== Sys2Proof/Machine/Path.lean ====
section
/-! DEFINITION. Sys2Proof/Machine/Path.lean: lane accesses and their places in the five spaces (R197 to R203), translation
(R314 to R322), the fault ring (R312, R326), parking (R21 to R24) and lane causes (R223), and watchpoints (R186, R393). -/

namespace Sys2Proof.Machine
open Sys2Proof

/-- Accesses as the plain numbers that a waiting instruction keeps. -/
def accNats : List LaneAcc → List Nat
  | [] => []
  | a :: t => a.lane :: a.addr :: a.x :: a.y :: accNats t
/-- The accesses that a waiting instruction kept. -/
def natsAcc : List Nat → List LaneAcc
  | l :: a :: x :: y :: t => ⟨l, a, x, y⟩ :: natsAcc t
  | _ => []

/-! ### Translation -/

/-- What a walk ends in (R317). -/
inductive Walk where
  | fault | poison
  | leaf (vbase size pbase : Nat) (xwr : BitVec 3) (glb : Bool)
  deriving DecidableEq, Repr

/-- A table entry read at its home; none when it reads as poison (R317, R319). -/
def walkEntry (s : State) (d p off : Nat) : Option Nat :=
  let pl := place s d p 2 1 off
  let bs := (List.range 8).map fun j => homeByte s { pl with key := pl.key + j }
  if bs.any fun (b : Byte × Nat) => b.2 ≠ 0 then none else some (leNat (bs.map Prod.fst))

/-- A walk from a table; the first number is the level plus 1 (R315 to R318). -/
def walkFrom (s : State) (d p va : Nat) : Nat → Nat → Walk
  | 0, _ => .fault
  | n + 1, t =>
    let idx := va / 2 ^ (12 + 9 * n) % 512
    if (s.dev d).capacity p < t + 4096 then .fault
    else
      match walkEntry s d p (t + 8 * idx) with
      | none => .poison
      | some e =>
        let addr := e / 2 ^ 12 % 2 ^ 44 * 2 ^ 12
        let perms := e / 4 % 8
        let c := e / 2 ^ 11 % 2
        let g := e / 2 ^ 10 % 2
        if e / 2 ^ 56 ≠ 0 || e / 2 ^ 5 % 32 ≠ 0 || (n ≠ 0 && c = 1) then .fault
        else if e % 4 = 1 then
          if n = 0 || g ≠ 0 || perms ≠ 0 then .fault else walkFrom s d p va n addr
        else if e % 4 = 2 then
          let size := if n = 0 then (if c = 1 then 65536 else 4096) else if n = 1 then 2 ^ 21 else 2 ^ 30
          let part := if c = 1 then idx % 16 * 4096 else 0
          if 3 ≤ n || addr % size ≠ part || (perms / 2 % 2 = 1 && perms % 2 = 0) then .fault
          else .leaf (va / size * size) size (addr - part) (BitVec.ofNat 3 perms) (g = 1)
        else .fault

/-- A translation: physical address, folio kind and scope, permissions X W RD; a missing one, with TPOI; or one that an
ATS completion must bring (R330). -/
inductive Tr where
  | ok (pa kind scope : Nat) (xwr : BitVec 3)
  | fault (tpoi : Bool)
  | wait
  deriving DecidableEq, Repr

/-- The TLB entry that serves an address (R321). -/
def tlbFind (q : Part) (asid va : Nat) : Option Tlb :=
  q.tlb.find? fun e => (e.glb || e.asid = asid) && decide (e.vbase ≤ va) && decide (va < e.vbase + e.size)

/-- The IOMMU space that an address space's row names now: its function and PASID (R330). Entries of the host-address
translation cache carry it in place of an ASID. -/
def Dev.atsKey (v : Dev) (a : Nat) : Nat := v.asidVif a * 2 ^ 20 + v.asidPasid a
/-- The host-address translation of a region 0x2 address (R330); one without permissions stands for a completion that
granted no access, until its page request is answered (R418). -/
def atsFind (v : Dev) (asid pa : Nat) : Option Tlb :=
  v.ats.find? fun e => e.asid = v.atsKey asid && decide (e.vbase ≤ pa) && decide (pa < e.vbase + e.size)

/-- The checks of R203 on a physical address, with ATS where the row asks for it (R314, R330). -/
def trChk (s : State) (d p asid pa kind scope : Nat) (xwr : BitVec 3) : Tr :=
  if pa / 2 ^ 52 = 2 && ((s.dev d).asidRow asid 1).getLsbD 30 then
    match atsFind (s.dev d) asid pa with
    | some e => if e.xwr = 0#3 then .fault false else .ok (e.pbase + (pa - e.vbase)) kind scope xwr
    | none => .wait
  else if paOk s d p pa then .ok pa kind scope xwr
  else .fault false

/-- The root table of an address space (R314). -/
def Dev.root (v : Dev) (a : Nat) : Nat := bf (v.asidRow a 0) 55 12 * 4096

/-- What the tables give for a virtual address (R314 to R321): physical address, folio kind and scope, permissions. -/
def lookup (s : State) (d p asid va : Nat) : Tr :=
  let v := s.dev d
  if 2 ^ 57 ≤ va || !v.asidOk asid || v.asidPart asid ≠ p then .fault false
  else
    match tlbFind (s.part d p) asid va with
    | some e => .ok (e.pbase + (va - e.vbase)) e.kind e.scope e.xwr
    | none =>
      match walkFrom s d p va 5 (v.root asid) with
      | .fault => .fault false
      | .poison => .fault true
      | .leaf vb _ pb xwr _ =>
        let pa := pb + (va - vb)
        let k := (s.part d p).folKind pa
        .ok pa k.1 k.2 xwr
/-- Translates a virtual address (R203, R314 to R321, R330). -/
def translate (s : State) (d p asid va : Nat) : Tr :=
  match lookup s d p asid va with
  | .ok pa kind scope xwr => trChk s d p asid pa kind scope xwr
  | r => r

/-- Permission of an access: 1 read, 2 write, 3 atomic, 4 fetch, 5 a read that is always translated (R320); kernels and the
drains of their matrix operations never write a read-only folio (R223, R317). 6 write and 7 atomic of another engine, which
may write such a folio (R243; log entry 38). -/
def permOk (perm kind : Nat) (xwr : BitVec 3) : Bool :=
  match perm with
  | 1 | 5 => xwr.getLsbD 0
  | 4 => xwr.getLsbD 2
  | 6 | 7 => xwr.getLsbD 1
  | _ => xwr.getLsbD 1 && kind ≠ 1
/-- KIND of a fault-ring entry for an access (R312). -/
def faultKind (perm : Nat) : Nat := if perm = 5 then 0 else perm - 1

/-! ### Pieces of an access -/

/-- An access cut at sector boundaries: address and length of each piece (R206, R227). -/
def sectorCut : Nat → Nat → Nat → List (Nat × Nat)
  | 0, _, _ => []
  | fuel + 1, a, n =>
    if n = 0 then []
    else
      let k := min n (32 - a % 32)
      (a, k) :: sectorCut fuel (a + k) (n - k)

/-- The L1 line that serves a sector by its virtual name (R204, R230, R320). -/
def l1Hit (c : Core) (asid va : Nat) : Option L1Line :=
  c.l1.find? fun x => x.vline = va / 256 && x.asid = asid && x.valid.getLsbD (va / 32 % 8)
    && (x.ed = none || x.ed = some c.ed.toNat)

/-- Checks one piece of a .G access: its place, or its cause. -/
def pieceChk (s : State) (c : Core) (d p asid perm : Nat) (x : Nat × Nat) : LaneR :=
  match if perm = 1 then l1Hit c asid x.1 else none with
  | some h => .global [⟨x.1, gkOff (h.line * 256) + x.1 % 256, x.2, if h.ed = none then 0 else 2, h.scope, some h⟩]
  | none =>
    match translate s d p asid x.1 with
    | .fault t => .fail 0x20 (x.1 % 2 ^ 57) t
    | .wait => .wait
    | .ok pa kind scope xwr =>
      let hit := if perm = 5 then l1Hit c asid x.1 else none
      if permOk perm kind xwr then .global [⟨x.1, pa, x.2, kind, scope, hit⟩] else .fail 0x30 x.1 false

/-- The pieces of a lane together: the highest-priority cause, the first byte that has it (R223). -/
def joinPieces : List LaneR → LaneR
  | [] => .global []
  | r :: t =>
    match r, joinPieces t with
    | .fail c v b, .fail c2 v2 b2 => if c ≤ c2 then .fail c v b else .fail c2 v2 b2
    | .fail c v b, _ => .fail c v b
    | _, .fail c v b => .fail c v b
    | .wait, _ => .wait
    | _, .wait => .wait
    | .global x, .global y => .global (x ++ y)
    | _, y => y

/-! ### The spaces on the die -/

/-- Cluster columns and rows of a kernel (R38). -/
def Desc.clusterSize (k : Desc) : Nat := (k.clw + 1) * (k.clh + 1)
/-- The team of a cluster that stands on core c of the rectangle of group g's team (R38, R200). -/
def clusterTeam (s : State) (g c : Nat) : Option Nat :=
  let t := s.teamOf g
  let n := (s.launchOf g).desc.clusterSize
  if c = t.idx % n then some (s.grp g).team
  else (s.teams.find? fun (e : Nat × Team) => e.2.launch = t.launch && e.2.idx = t.idx / n * n + c).map Prod.fst

/-- The key of a byte of cluster memory whose team has retired and given its scratch back: no memory stands behind it
(R200, R26; log entry 128). -/
def freedKey (a : Nat) : Nat := gk 4 0 0 a
/-- The key of a byte of a space other than .G for a lane; none outside the space (R197 to R201). -/
def spaceKey (s : State) (g lane sp a : Nat) : Option Nat :=
  let k := (s.launchOf g).desc
  let G := s.grp g
  match sp with
  | 1 => if a < k.sc * 256 then some (scratchKey G.team a) else none
  | 2 =>
    let c := a / 2 ^ 18
    if c < k.clusterSize && decide (a % 2 ^ 18 < k.sc * 256) then
      some (match clusterTeam s g c with | some t => scratchKey t (a % 2 ^ 18) | none => freedKey a)
    else none
  | 3 =>
    let c := s.contOf g
    let v := s.dev c.d
    let w := v.asidRow c.asid 2
    if v.asidOk c.asid && decide (a < bf w 13 7 * 2 ^ 20) then some (gk 1 c.d c.p (bf w 6 0 * 2 ^ 20 + a)) else none
  | 4 =>
    let tl := (k.tg + 1) * G.width
    if a < k.ls * 16 then
      some (scratchKey G.team (k.sc * 256 + 4 * (a / 4 * tl + G.idx * G.width + lane) + a % 4))
    else none
  | _ => none

/-- The keys of an access in a space other than .G; none when a byte lies outside (R198). -/
def spaceKeys (s : State) (g lane sp a : Nat) : Nat → Option (List Nat)
  | 0 => some []
  | n + 1 =>
    match spaceKey s g lane sp a, spaceKeys s g lane sp (a + 1) n with
    | some k, some t => some (k :: t)
    | _, _ => none

/-- Finds the causes of one lane (R223). `perm`: 1 read, 2 write, 3 atomic; `al`: natural alignment is required. -/
def laneChk (s : State) (g sp n perm : Nat) (al : Bool) (a : LaneAcc) : LaneR :=
  let r :=
    if sp = 0 then
      let c := s.contOf g
      if 2 ^ 57 ≤ a.addr then .fail 0x20 (a.addr % 2 ^ 57) false
      else joinPieces ((sectorCut 3 a.addr n).map (pieceChk s (s.core (s.coreOf g)) c.d c.p c.asid perm))
    else
      match spaceKeys s g a.lane sp a.addr n with
      | some ks => .keys ks
      | none => .fail 0x42 (a.addr % 2 ^ 57) false
  match r with
  | .fail c v t => .fail c v t
  | r => if al && a.addr % n ≠ 0 then .fail 0x43 (a.addr % 2 ^ 57) false else r

/-! ### The fault ring -/

/-- FQBASE and FQN of a partition (R312, R342). -/
def Dev.fqBase (v : Dev) (p : Nat) : Nat := bf (v.row p 4) 55 12 * 4096
def Dev.fqn (v : Dev) (p : Nat) : Nat := 2 ^ (6 + bf (v.row p 4) 3 0)

/-- Bytes written by the device at its own L2, whole sectors first (R226, R260). -/
def devPut (s : State) (d p pa : Nat) (bs : List Byte) : State :=
  let cells := ((List.range bs.length).zip bs).map fun (x : Nat × Byte) => ((place s d p 2 2 (pa + x.1)).key, x.2)
  (bySector cells).foldl (fun s x =>
    (putSector (wroteAt { key := 32 * x.1 } (1#8 <<< (x.1 % 8)) s) x).1) s

/-- The second doubleword of a ring entry (R312). -/
def FEnt.word1 (v : Dev) (p : Nat) (e : FEnt) : Nat :=
  e.asid * 2 ^ 55 + p * 2 ^ 51 + v.asidVif e.asid * 2 ^ 45 + e.unit % 256 * 2 ^ 37 + e.bank * 2 ^ 36 + e.slot * 2 ^ 30
    + (if e.eng then 2 ^ 29 else 0) + e.kind * 2 ^ 26 + (if e.perm then 2 ^ 25 else 0)
    + (if e.merged then 2 ^ 24 else 0) + (if e.tpoi then 2 ^ 23 else 0)
/-- Writes an entry to the ring in memory (R312). -/
def putEntry (s : State) (d p : Nat) (e : FEnt) : State :=
  let v := s.dev d
  devPut s d p (v.fqBase p + 32 * (e.seq % v.fqn p))
    (leBytes e.va.toNat 8 ++ leBytes (e.word1 v p) 8 ++ leBytes e.seq 8
      ++ leBytes (if e.seq / v.fqn p % 2 = 0 then 1 else 0) 8)

/-- Pending kinds that cover a fault's kind (R326). -/
def covers (pending fault : Nat) : Bool :=
  pending = fault || (pending = 1 && fault = 0) || (pending = 2 && (fault = 0 || fault = 1))

/-- Posts a fault or merges it into a covering entry; the sequence number it waits on, none when the ring is full
(R312, R326). -/
def postFault (s : State) (d p : Nat) (f : FEnt) : State × Option Nat :=
  let q := s.part d p
  match q.fents.find? fun e => e.asid = f.asid && e.va.toNat / 4096 = f.va.toNat / 4096 && e.perm = f.perm
      && covers e.kind f.kind with
  | some e =>
    let e' := { e with merged := true, tpoi := e.tpoi || f.tpoi }
    let s := s.modPart d p fun q => { q with fents := q.fents.map fun x => if x.seq = e.seq then e' else x }
    (putEntry s d p e', some e.seq)
  | none =>
    let n := (s.dev d).fqn p
    if n ≤ q.fents.length || q.fents.any fun e => e.seq % n = q.fseq % n then (s, none)
    else
      let e := { f with seq := q.fseq, merged := false }
      let s := s.modPart d p fun q => { q with fents := q.fents ++ [e], fseq := q.fseq + 1 }
      (putEntry s d p e, some e.seq)

/-- The untranslated address of an access to which an ATS completion granted nothing (R418). -/
def atsDenied (s : State) (d p asid va : Nat) : Option Nat :=
  match lookup s d p asid va with
  | .ok pa _ _ _ =>
    if pa / 2 ^ 52 = 2 && ((s.dev d).asidRow asid 1).getLsbD 30 && (atsFind (s.dev d) asid pa).any (fun e => e.xwr = 0#3)
    then some pa else none
  | _ => none
/-- Two address spaces of one virtual function with one PASID (R314, R418). -/
def Dev.samePasid (v : Dev) (a b : Nat) : Bool := v.asidPasid a = v.asidPasid b && v.asidVif a = v.asidVif b
/-- A page request for a page, or the one that covers it; none when the VF has 64 outstanding (R418). -/
def askPage (s : State) (d asid pa kind : Nat) : State × Option Nat :=
  let v := s.dev d
  match v.prs.find? fun (e : Nat × PageReq) => v.samePasid e.2.asid asid && e.2.page = pa / 4096
      && covers e.2.kind kind with
  | some e => (s, some e.1)
  | none =>
    if 64 ≤ (v.prs.filter fun (e : Nat × PageReq) => v.asidVif e.2.asid = v.asidVif asid).length then (s, none)
    else
      let n := s.uid
      let put (v : Dev) : Dev := { v with prs := kput v.prs n ⟨asid, pa / 4096, kind⟩ }
      (({ s with uid := s.uid + 1 } : State).modDev d put, some n)
/-- A fault goes to the fault ring, or to the host as a page request (R312, R326, R418): the entry and the request that it
waits on. -/
def raiseFault (s : State) (d p : Nat) (f : FEnt) : State × Option Nat × Option Nat :=
  match if f.perm then none else atsDenied s d p f.asid f.va.toNat with
  | some pa => let r := askPage s d f.asid pa f.kind; (r.1, none, r.2)
  | none => let r := postFault s d p f; (r.1, r.2, none)

/-- The fault-ring entry of a group's fault. -/
def groupFault (s : State) (g : Nat) (va : Dword) (perm tpoi : Bool) (kind : Nat) : FEnt :=
  let c := s.contOf g
  { seq := 0, asid := c.asid, va := va, perm := perm, kind := kind, tpoi := tpoi, merged := false, eng := false,
    unit := (s.dev c.d).logOf (s.coreOf g % 256), bank := s.bankOf g, slot := (s.grp g).slot }

/-! ### Parking -/

/-- Blocked instructions in which no lane waits are gone. -/
def gcBlocks (G : Group) : Group :=
  { G with blocks := G.blocks.filter fun (b : Nat × Block) => G.lanes.any fun (l : Nat × Lane) => l.2.blk = b.1 }

/-- Window-only results of the lanes, and of the copy of scalar state that they used, end for parked lanes (R110). -/
def endWindowOnly (m : Dword) (copy : Nat) (w : WinEntry) : WinEntry :=
  if !w.wb then w
  else if w.sc then (if w.copy = copy then { w with ended := w.ended ||| m } else w)
  else { w with vals := w.vals.filter fun (x : Nat × Word) => !m.getLsbD (x.1 / 128) }

/-- Parked copies of scalar state that stand when the lanes of a mask have left theirs (R23, R24). -/
def copiesWithout (G : Group) (m : Dword) : Nat :=
  ((G.lanes.filterMap fun (l : Nat × Lane) =>
    if l.2.copy ≠ 0 && l.2.st ≠ .exited && !m.getLsbD l.1 then some l.2.copy else none).eraseDups).length
/-- The lanes that park when the lanes of `fails` fail, and the copy they take: a new one (R21, R22), or the one they use
when it would be a fifth (R24). -/
def parkPlan (G : Group) (sub fails : Dword) (all : Bool) (new : Nat) : Dword × Nat × Bool :=
  let m := if all then sub else fails
  if copiesWithout G m < 4 then (m, new, true) else (sub, G.copyId sub, false)

/-- Parks lanes at an address (R21, R22, R110, R19). -/
def parkLanes (m : Dword) (copy : Nat) (pc : BitVec 57) (G : Group) : Group :=
  let cid := G.copyId m
  let old := G.copyOf cid
  let pk (l : Nat × Lane) : Nat × Lane :=
    if m.getLsbD l.1 then (l.1, { l.2 with pc := pc, st := .parked, copy := copy, blk := 0 }) else l
  let G : Group := { G with
    copies := if (kget G.copies copy).isSome then G.copies else kput G.copies copy old
    lanes := G.lanes.map pk
    win := G.win.map (endWindowOnly m cid)
    past := G.past.map (endWindowOnly m cid) }
  gcCopies (releaseDue (gcBlocks G))

/-- Adds a parking record (R21, R22). -/
def addRec (r : Rec) (G : Group) : Group := { G with recs := kput G.recs G.nrec r, nrec := G.nrec + 1 }

/-- The failing lanes of an instruction: (lane, cause, address, TPOI). -/
abbrev Fails := List (Nat × Nat × Nat × Bool)
/-- The failing lanes among checked accesses. -/
def failsOf (rs : List (LaneAcc × LaneR)) : Fails :=
  rs.filterMap fun (x : LaneAcc × LaneR) => match x.2 with | .fail c v t => some (x.1.lane, c, v, t) | _ => none
/-- The highest-priority cause, the lanes that have it, and the entry of the lowest (R223). -/
def worst (fs : Fails) : Option (Nat × Dword × Nat × Bool) :=
  match fs with
  | [] => none
  | f :: t =>
    let c := t.foldl (fun c (x : Nat × Nat × Nat × Bool) => min c x.2.1) f.2.1
    let hit := fs.filter fun (x : Nat × Nat × Nat × Bool) => x.2.1 = c
    match hit with
    | [] => none
    | h :: t =>
      let low := t.foldl (fun (m : Nat × Nat × Nat × Bool) x => if x.1 < m.1 then x else m) h
      some (c, maskOf (hit.map Prod.fst), low.2.2.1, low.2.2.2)

/-- Parks failing lanes and reports their cause: a fault-ring entry (R312, R391), or a trap at once for a class-4 cause.
`park`, `copy`, `own`: the plan of R24. -/
def parkReport (i : Instr) (park : Dword) (copy : Nat) (own : Bool) (w : Nat × Dword × Nat × Bool) (perm : Nat)
    (dest : BitVec 16) (s : State) : State :=
  let g := s.cur.grp
  let pc := s.cur.pc
  let nx := s.nextPc
  let len := s.cur.len
  let va : Dword := BitVec.ofNat 64 w.2.2.1
  let s := (s.modG (parkLanes park copy pc)).fresh
  if w.1 = 0x20 || w.1 = 0x30 then
    let c := s.contOf g
    let r := raiseFault s c.d c.p (groupFault s g va (w.1 = 0x30) w.2.2.2 (faultKind perm))
    r.1.modG (addRec ⟨park, w.2.1, pc, len, dest, va, faultKind perm, w.1 = 0x30, w.2.2.2, r.2.1, r.2.2, false, own⟩)
  else
    takeTrap g
      { cause := BitVec.ofNat 8 w.1, tlanes := w.2.1, tva := va, treta := pc, tdest := destDesc i, sub := park,
        next := nx, decoded := true, retire := false } s

/-! ### Watchpoints -/

/-- WATCHk matches an access of `n` bytes at an address (R186). `perm`: 1 read, 2 write, 3 atomic. -/
def watchHit (w : Dword) (perm a n : Nat) : Bool :=
  let size := 32 * 2 ^ bf w 60 57
  let base := bf w 56 5 * 32 / size * size
  w.getLsbD 63 && ((perm ≠ 1 && w.getLsbD 62) || (perm ≠ 2 && w.getLsbD 61))
    && decide (a < base + size) && decide (base < a + n)
/-- First matching byte of an access. -/
def watchByte (w : Dword) (a : Nat) : Nat :=
  let size := 32 * 2 ^ bf w 60 57
  max a (bf w 56 5 * 32 / size * size)
/-- A report of the lowest matching watchpoint among `ws` is left pending, unless one is (R393). -/
def watchAcc (ws : KV Dword) (perm n : Nat) (acc : List LaneAcc) (G : Group) : Group :=
  if G.watchRep.isSome || ws.isEmpty then G
  else
    match (List.range 4).find? fun k => acc.any fun a => watchHit (rget ws k) perm a.addr n with
    | none => G
    | some k =>
      let hit := acc.filter fun a => watchHit (rget ws k) perm a.addr n
      let low := hit.foldl (fun (m : Option LaneAcc) a => match m with
        | none => some a | some b => if a.lane < b.lane then some a else some b) none
      { G with watchRep := low.map fun a =>
          (k, maskOf (hit.map LaneAcc.lane), BitVec.ofNat 64 (watchByte (rget ws k) a.addr)) }

end Sys2Proof.Machine
end

