-- ==== Sys2Proof/Machine/Writes.lean ====
section
/-! DEFINITION. Sys2Proof/Machine/Writes.lean: the write path of a core (R209), where writes perform (R226, R244, R257), and
editions (R250 to R252). -/

namespace Sys2Proof.Machine
open Sys2Proof

/-! ### Performing -/

/-- Writes cells of one sector of a partition's physical address space at its home: the reason of a failure, 0 for none
(R226, R244). `kind`: the requester's folio kind; `op`: the operation that waits when a mirror must apply the write too
(R426). -/
def performSector (d p kind : Nat) (op : Nat × Nat) (s : State) (x : Nat × List (Nat × Byte)) : State × Nat :=
  let pl := place s d p kind 2 (gkOff (32 * x.1))
  if pl.bad ≠ 0 then (s, pl.bad)
  else
    let s := wroteAt pl (1#8 <<< (pl.key / 32 % 8)) (cohWrite s pl d)
    let cellsTo (k : Nat) : Nat × List (Nat × Byte) := (k / 32, x.2.map fun (c : Nat × Byte) => (k + c.1 % 32, c.2))
    let r := putSector s (cellsTo pl.key)
    let s := match pl.key2 with
      | some k => if r.2 then { r.1 with mlog := r.1.mlog ++ [⟨d, gkInst k, (cellsTo k).2, op⟩] } else r.1
      | none => r.1
    (l2Update s d p x.2, if r.2 then 0 else 1)

/-- The sector can perform now: nothing is under way at its home, and the device holds a coherent line (R213, R214,
R427). -/
def sectorReady (s : State) (d p kind : Nat) (x : Nat × List (Nat × Byte)) : Bool :=
  writeFree s d (place s d p kind 2 (gkOff (32 * x.1)))

/-- A sector of a SCATTER has performed: lanes whose sectors are all done without failure get their bitmap bit (R231). -/
def scatDone (op sec : Nat) (ok : Bool) (G : Group) : Group :=
  if G.scat.isEmpty then G
  else
    let hit (x : Scat) : Bool := x.op = op && x.secs.any fun (e : Nat × Dword) => e.1 = sec
    let up (x : Scat) : Scat :=
      if hit x then
        { x with secs := x.secs.filter fun (e : Nat × Dword) => e.1 ≠ sec
                 bad := if ok then x.bad else x.bad ||| ((kget x.secs sec).getD 0#64) }
      else x
    let bits (x : Scat) : Dword :=
      let lanes := (kget x.secs sec).getD 0#64
      let rest := (up x).secs.foldl (fun (m : Dword) (e : Nat × Dword) => m ||| e.2) 0#64
      lanes &&& ~~~rest &&& ~~~(up x).bad
    { G with
      cb := G.scat.foldl (fun m (x : Scat) => if hit x then kput m x.k (rget m x.k ||| bits x) else m) G.cb
      scat := (G.scat.map up).filter fun (x : Scat) => !x.secs.isEmpty }

/-- A failed write is kept for its report (R226). -/
def addFail (op cause va : Nat) (G : Group) : Group :=
  { G with fails := G.fails ++ [⟨op, BitVec.ofNat 8 cause, BitVec.ofNat 64 (va % 2 ^ 57)⟩] }

/-- One store of a write-path entry performs, sector by sector (R226, R227). -/
def performRec (d p kind : Nat) (s : State) (r : WRec) : State :=
  (bySector r.cells).foldl (fun s x =>
    let t := performSector d p kind (r.grp, r.op) s x
    let low := x.2.foldl (fun m (c : Nat × Byte) => min m c.1) (32 * x.1 + 31)
    t.1.modGrp r.grp fun G =>
      let G := scatDone r.op x.1 (t.2 = 0) G
      if t.2 = 0 then G else addFail r.op (poisonCause t.2) (256 * r.vline + low % 256) G) s

/-- Partition of a core. -/
def State.partOfCore (s : State) (core : Nat) : Nat := (s.dev (core / 256)).partOfCore (core % 256)

/-- Every sector of the entry can perform now. -/
def lineReady (s : State) (core : Nat) (w : WLine) : Bool :=
  w.recs.all fun r => (bySector r.cells).all (sectorReady s (core / 256) (s.partOfCore core) w.kind)
/-- The request that a core's device must send before the entry can perform (R214). -/
def lineWant (s : State) (core : Nat) (w : WLine) : Option (HKind × Nat × Nat) :=
  (w.recs.flatMap fun r => bySector r.cells).findSome? fun x =>
    wantOf s (core / 256) true (place s (core / 256) (s.partOfCore core) w.kind 2 (gkOff (32 * x.1)))
/-- Every entry of the core's write path can perform now. -/
def wpReady (s : State) (core : Nat) : Bool := (s.core core).wp.all (lineReady s core)

/-- A store operation has performed: no write of it is left in a write path or on the way to a mirror (R230, R426). -/
def storeLeft (s : State) (g op : Nat) : Bool :=
  (s.cores.any fun (c : Nat × Core) => c.2.wp.any fun x => x.recs.any fun y => y.cnt && y.grp = g && y.op = op)
    || s.mlog.any fun u => u.op = (g, op)
/-- The store operation of a group is done, unless it was. -/
def storeDone (g op : Nat) (s : State) : State :=
  s.modGrp g fun G => if (G.ocOf 1).held.contains op then G else G.doneOp 1 op
/-- An entry leaves the write path and performs; operations with nothing left are done (R209, R230, R353). -/
def drainLine (core : Nat) (s : State) (w : WLine) : State :=
  let s := s.modCore core fun c => { c with wp := c.wp.filter fun x => x.seq ≠ w.seq }
  let s := w.recs.foldl (performRec (core / 256) (s.partOfCore core) w.kind) s
  w.recs.foldl (fun s r => if r.cnt && !storeLeft s r.grp r.op then storeDone r.grp r.op s else s) s
/-- The secondary switch applies an update; its operation may then be done (R426, R257). -/
def mirrorApply (s : State) (u : MirrorUp) : State :=
  let s := (bySector u.cells).foldl (fun s x => (putSector s x).1) { s with mlog := s.mlog.erase u }
  if (kget s.groups u.op.1).isNone || storeLeft s u.op.1 u.op.2 then s else storeDone u.op.1 u.op.2 s
/-- Updates on the way to the line of a byte at a secondary switch are applied, in sequence order (R426). -/
def mirrorFlush (k : Nat) (s : State) : State :=
  (s.mlog.filter fun (u : MirrorUp) => u.cells.any fun (c : Nat × Byte) => c.1 / 256 = k / 256).foldl mirrorApply s
/-- Every entry performs, oldest first. -/
def drainCore (core : Nat) (s : State) : State := (s.core core).wp.foldl (drainLine core) s
/-- The entries of given lines perform. -/
def drainLines (core : Nat) (lines : List Nat) (s : State) : State :=
  ((s.core core).wp.filter fun w => lines.contains w.line).foldl (drainLine core) s

/-! ### Entering the write path -/

/-- The bytes that lanes write, by key, a higher lane after a lower one (R228). -/
def putCells (m : KV Byte) (cells : List (Nat × Byte)) : KV Byte :=
  cells.foldl (fun m (c : Nat × Byte) => kput m c.1 c.2) m

/-- The cells of one piece of a lane's store. -/
def pieceCells (d p : Nat) (a : LaneAcc) (x : Piece) : List (Nat × Byte) :=
  (List.range x.len).map fun j => (pkey d p (x.pa + j), byteOf a.x (x.va + j - a.addr))

/-- The stores of one instruction, one for each line, in the order of the lowest lane that touches it: kind and scope of
the folio, virtual line, cells (R207). -/
def storeLines (d p : Nat) (acc : List (LaneAcc × List Piece)) : KV (Nat × Nat × Nat × KV Byte) :=
  acc.foldl (fun m (a : LaneAcc × List Piece) => a.2.foldl (fun m x =>
    let k := pkey d p x.pa / 256
    let old := (kget m k).getD (x.kind, x.scope, x.va / 256, [])
    aput m k (old.1, old.2.1, old.2.2.1, putCells old.2.2.2 (pieceCells d p a.1 x))) m) []

/-- Adds a store to the write path, merged into the entry of its line (R209). -/
def wpAdd (wp : List WLine) (line kind seq : Nat) (r : WRec) : List WLine :=
  if wp.any fun w => w.line = line then
    wp.map fun w => if w.line = line then { w with recs := w.recs ++ [r] } else w
  else wp ++ [⟨line, kind, seq, [r]⟩]

/-- A store updates the sectors of its line that the L1 holds valid, under any name (R209, R322). -/
def l1Store (l1 : List L1Line) (cells : KV Byte) : List L1Line :=
  l1.map fun x => { x with data := cells.foldl (fun m (c : Nat × Byte) =>
    if c.1 / 256 = x.line && x.valid.getLsbD (c.1 / 32 % 8) then memSet m c.1 c.2 else m) x.data }

/-- New line entries that the stores need (R209). -/
def wpNeed (c : Core) (ls : KV (Nat × Nat × Nat × KV Byte)) : Nat :=
  (ls.filter fun (e : Nat × Nat × Nat × Nat × KV Byte) => !c.wp.any fun w => w.line = e.1).length

/-- The bytes of a core's write path with a store to a line. -/
def wpWith (wp : List WLine) (line : Nat) (cells : KV Byte) : KV Byte :=
  putCells ((wp.filter fun w => w.line = line).flatMap fun w => w.recs.flatMap fun r => r.cells) cells
/-- The sectors of a store that performs on entering the write path and that fail there: their memory is poisoned and the
path does not write them whole, or the line takes no write (R226, R230): sector of the partition and reason. -/
def coreFails (s : State) (core line kind : Nat) (cells : KV Byte) : List (Nat × Nat) :=
  (bySector cells).filterMap fun x =>
    let pl := place s (core / 256) (s.partOfCore core) kind 2 (gkOff (32 * x.1))
    let whole := ((wpWith (s.core core).wp line cells).map Prod.fst).eraseDups.filter fun k => k / 32 = x.1
    if pl.bad ≠ 0 then some (x.1, pl.bad)
    else if secBad s pl.key ≠ 0 && whole.length ≠ 32 then some (x.1, 1)
    else none
/-- Failed sectors of a store are kept for its report at once, and their bytes do not enter the write path. -/
def dropFails (g op vline : Nat) (bad : List (Nat × Nat)) (cells : KV Byte) (s : State) : State × KV Byte :=
  let low (k : Nat) : Nat := (cells.filter fun c => c.1 / 32 = k).foldl (fun m c => min m c.1) (32 * k + 31)
  (bad.foldl (fun s x => s.modGrp g (addFail op (poisonCause x.2) (256 * vline + low x.1 % 256))) s,
   cells.filter fun c => !bad.any fun x => x.1 = c.1 / 32)
/-- The stores of an instruction enter the write path; the operation is done at once when every write performs at .CORE
(R209, R226, R230, R242). -/
def enterStores (g op : Nat) (ls : KV (Nat × Nat × Nat × KV Byte)) (s : State) : State :=
  let core := s.coreOf g
  let s := ls.foldl (fun (s : State) (e : Nat × Nat × Nat × Nat × KV Byte) =>
    let y := if e.2.2.1 = 1 then dropFails g op e.2.2.2.1 (coreFails s core e.1 e.2.1 e.2.2.2.2) e.2.2.2.2 s
      else (s, e.2.2.2.2)
    let s := y.1
    if y.2.isEmpty then s else
    let r : WRec := ⟨g, op, e.2.2.2.1, y.2, e.2.2.1 ≠ 1⟩
    let n := s.uid
    (s.modCore core fun c =>
      { c with wp := wpAdd c.wp e.1 e.2.1 n r, l1 := l1Store c.l1 y.2 }).fresh) s
  if ls.all fun (e : Nat × Nat × Nat × Nat × KV Byte) => e.2.2.1 = 1 then s.modGrp g fun G => G.doneOp 1 op else s

/-! ### Editions -/

/-- The lines of the half opposite to the current edition are invalid (R252). -/
def inOpposite (cur ed : Nat) : Bool := decide (cur < 8) != decide (ed < 8)
/-- A device-class sweep ends (R252). -/
def sweepCore (c : Core) : Core :=
  { c with swp := false
           l1 := c.l1.filter fun x => match x.ed with | some e => !inOpposite c.ed.toNat e | none => true }
/-- A device-class bump; a pending sweep ends before it (R251, R252). -/
def bumpCore (c : Core) : Core :=
  let c := if c.swp then sweepCore c else c
  { c with ed := c.ed + 1, swp := c.ed + 1 = 0#4 || c.ed + 1 = 8#4 }
/-- L2 copies of the class of region 2, or of the others. -/
def l2Class (host : Bool) (x : L2Line) : Bool := (gkOff (x.line * 256) / 2 ^ 52 = 2) = host
/-- A domain- or system-class sweep ends (R252). -/
def sweepPart (host : Bool) (q : Part) : Part :=
  let keep (x : L2Line) : Bool :=
    !(l2Class host x && (if host then inOpposite q.esys.toNat x.sys else inOpposite q.edom.toNat x.dom))
  { q with l2 := q.l2.filter keep, dswp := q.dswp && host, sswp := q.sswp && !host }
/-- A domain-class bump. -/
def bumpDom (q : Part) : Part :=
  let q := if q.dswp then sweepPart false q else q
  { q with edom := q.edom + 1, dswp := q.edom + 1 = 0#4 || q.edom + 1 = 8#4 }
/-- A system-class bump. -/
def bumpSys (q : Part) : Part :=
  let q := if q.sswp then sweepPart true q else q
  { q with esys := q.esys + 1, sswp := q.esys + 1 = 0#4 || q.esys + 1 = 8#4 }
/-- The loads of groups for which a test holds whose fills carry an edition land, as fills that are outstanding when a bump
is requested do before it takes effect (R251). -/
def landEditions (here : Nat → Bool) (s : State) : State :=
  (s.groups.filter fun (e : Nat × Group) => !e.2.pend.isEmpty && here e.1).foldl (fun s (e : Nat × Group) =>
    e.2.pend.foldl (fun s (x : Nat × Pend) =>
      if x.2.fill.any fun (f : Fill) => f.ed.isSome then landLoad e.1 x.1 s else s) s) s
/-- A device-class bump of a core; a sweep that it starts counts (R251, R252, R371). -/
def bumpDev (core : Nat) (s : State) : State :=
  let s := (landEditions (fun g => s.coreOf g = core) s).modCore core bumpCore
  s.perf core 0x0E (if (s.core core).swp then 1 else 0)
/-- A bump of a class of a partition's L2 (R251). -/
def bumpPart (d p : Nat) (host : Bool) (s : State) : State :=
  let here (g : Nat) : Bool := s.coreOf g / 256 = d && s.partOfCore (s.coreOf g) = p
  (landEditions here s).modPart d p (if host then bumpSys else bumpDom)
/-- The same, asked for by an acquire of a core; a sweep that it starts counts there (R371). -/
def bumpL2 (core : Nat) (host : Bool) (s : State) : State :=
  let d := core / 256
  let p := s.partOfCore core
  let s := bumpPart d p host s
  s.perf core 0x0E (if (if host then (s.part d p).sswp else (s.part d p).dswp) then 1 else 0)
/-- An acquire at a scope by a group of a core (R250, R251). -/
def acquire (core scope : Nat) (s : State) : State :=
  let s := if 2 ≤ scope then bumpDev core s else s
  let s := if 4 ≤ scope then bumpL2 core false s else s
  if 5 ≤ scope then bumpL2 core true s else s

end Sys2Proof.Machine
end

