-- ==== Sys2Proof/Machine/Access.lean ====
section
/-! DEFINITION. Sys2Proof/Machine/Access.lean: loads, stores, gathers, scatters, atomics, acquire and release, fences,
prefetch and flush (R220 to R240). -/

namespace Sys2Proof.Machine
open Sys2Proof

/-! ### Addresses -/

/-- The byte displacement of a kind-1 prefix on format M (R85). -/
def dispM (e : Pfx) : Int := match e.k1 with | some m => m.toInt | none => 0
/-- A lane's address in format M (R92, R221). -/
def addrM (s : State) (e : Pfx) (x : BitVec 1) (o a n l : Nat) : Nat :=
  let off := if x = 0#1 then (s.g.rdV l o).toNat else (o + l) * n
  wrapNat 64 (((rs s a).toNat + off : Nat) + dispM e)
/-- A lane's address in format A: its pair (R222). -/
def addrA (s : State) (g : BitVec 6) (l : Nat) : Nat := s.g.rdWords l (2 * g.toNat) 2
/-- Bytes of a type (R46). -/
def tyBytes (t : Nat) : Nat := tyWidth t / 8

/-! ### The common course of a memory instruction -/

/-- Lanes of a list of checked accesses. -/
def lanesMask (rs : List (LaneAcc × LaneR)) : Dword := maskOf (rs.map fun (x : LaneAcc × LaneR) => x.1.lane)

/-- The instruction enters its counter and is done at issue (R353). -/
def enterDone (k : Nat) (G : Group) : Group := (G.enterOp k 1).doneOp k (G.ocOf k).iss.toNat

/-- The scope of the accesses of lanes: the space's, or the widest folio scope (R197, R242). -/
def passScope (sp : Nat) (pass : List (LaneAcc × LaneR)) : Nat :=
  match sp with
  | 0 => pass.foldl (fun m (x : LaneAcc × LaneR) => match x.2 with
      | .global ps => ps.foldl (fun m (q : Piece) => max m q.scope) m
      | _ => m) 0
  | 4 => 0
  | k => k

/-- What a memory instruction asks for: its counter, its permission (1 read, 2 write, 3 atomic, 5 a read that is always
translated), access size, natural alignment, space, and the accesses of its lanes. -/
structure MemReq where
  cnt : Nat
  perm : Nat
  n : Nat
  al : Bool
  sp : Nat
  acc : List LaneAcc
  deriving DecidableEq, Repr

/-- The checked accesses of a request (R223). -/
def MemReq.checked (q : MemReq) (s : State) : List (LaneAcc × LaneR) :=
  q.acc.map fun a => (a, laneChk s s.cur.grp q.sp q.n q.perm q.al a)
/-- A translation of the request is still to come (R330). -/
def MemReq.untranslated (q : MemReq) (s : State) : Bool :=
  (q.checked s).any fun (x : LaneAcc × LaneR) => x.2 = .wait

/-- Issue of a memory instruction (R223, R353): while a translation is still to come it does not issue (log entry 132);
it waits for room in its counter and for what `ready` asks (R208, R209); every lane's causes are found, failing lanes park,
and the accesses of the others are sent by `send`, which takes the number of the operation. -/
def memBody (i : Instr) (q : MemReq) (dest : BitVec 16) (ready : List (LaneAcc × LaneR) → State → Bool)
    (send : Nat → List (LaneAcc × LaneR) → State → State) (s : State) : State :=
  let rs := q.checked s
  let pass := rs.filter fun (x : LaneAcc × LaneR) => match x.2 with | .fail _ _ _ => false | _ => true
  let op := (s.g.ocOf q.cnt).iss.toNat
  if q.untranslated s then s
  else if decide (255 ≤ (s.g.ocOf q.cnt).value) || !ready pass s then stall i (accNats q.acc) s
  else
    match worst (failsOf rs) with
    | none => send op pass (s.modG fun G => G.noteOp q.cnt op (passScope q.sp pass))
    | some w =>
      let sub := s.cur.mask
      let plan := parkPlan s.g sub (maskOf ((failsOf rs).map Prod.fst)) pass.isEmpty s.uid
      if plan.1 = sub then
        let at_ := waiting s
        parkReport i sub plan.2.1 plan.2.2 w q.perm dest (s.modG fun G => unCount at_ (enterDone q.cnt G))
      else
        let s := s.modG fun G => G.noteOp q.cnt op (passScope q.sp pass)
        let t := send op pass { s with cur := { s.cur with mask := sub &&& ~~~plan.1 } }
        parkReport i plan.1 plan.2.1 plan.2.2 w q.perm dest { t with cur := s.cur }

/-- Issue of a memory instruction: operands are read once, and kept while it waits (R208, R209, R353). -/
def memIssue (i : Instr) (m : Dword) (req : State → MemReq) (body : MemReq → State → State) (s : State) : Out :=
  match waiting s with
  | some (_, b) => .next (body { req s with acc := natsAcc b.data } s)
  | none => issue i m (fun s => body (req s) s) s

/-- Instructions that access memory and can hold a younger access of the group back while they wait. -/
def isMem : Instr → Bool
  | .ldG _ _ | .ldSp _ _ | .ldCl _ _ | .ldCh _ _ | .ldLn _ _ | .stG _ _ | .stSp _ _ | .stCl _ _ | .stCh _ _ | .stLn _ _
  | .gather _ _ | .scatter _ _ | .atom _ _ | .atomr _ _ | .cas _ _ _ _ _ | .lda _ _ | .strel _ _ | .cflush _ _ _ _ _ _
  | .acqPromote _ _ | .tfill _ _ _ _ _ _ => true
  | _ => false
/-- An older memory instruction of the group waits at its issue (R229). -/
def olderMem (G : Group) (n : Nat) : Bool := G.blocks.any fun (b : Nat × Block) => decide (b.1 < n) && isMem b.2.instr
/-- The place of the instruction at hand in its group's issue order. -/
def seqOf (s : State) : Nat := match waiting s with | some (b, _) => b | none => s.uid
/-- Adds an access to those that a group has to make, in issue order. -/
def addHeld (h : Held) : List Held → List Held
  | [] => [h]
  | x :: t => if h.seq < x.seq then h :: x :: t else x :: addHeld h t

/-! ### Reading -/

/-- The byte that a core's write path holds for a key (R229, R245). -/
def wpByte (wp : List WLine) (k : Nat) : Option Byte :=
  wp.foldl (fun b w => if w.line = k / 256 then
    w.recs.foldl (fun b r => match kget r.cells k with | some x => some x | none => b) b else b) none
/-- The write path holds every byte of a sector. -/
def wpWhole (wp : List WLine) (sec : Nat) : Bool :=
  wp.any (fun w => w.line = sec / 8) && (List.range 32).all fun j => (wpByte wp (32 * sec + j)).isSome

/-- A byte as the core reads it past its L1: its write path over the L2 (R209, R229, R244). -/
def missByte (s : State) (c : Core) (d p kind pa : Nat) : Byte × Nat :=
  let k := pkey d p pa
  let m := l2Read s d p kind pa
  match wpByte c.wp k with
  | none => m
  | some b => if m.2 = 0 || wpWhole c.wp (k / 32) then (b, 0) else m

/-- The bytes of a piece, each with its poison reason (R224). -/
def pieceBytes (s : State) (c : Core) (d p : Nat) (x : Piece) : List (Byte × Nat) :=
  (List.range x.len).map fun j =>
    match x.hit with
    | some h => (memGet h.data (h.line * 256 + (x.va + j) % 256), 0)
    | none => missByte s c d p x.kind (x.pa + j)

/-- A byte of a space on the die; one that a retired team has given back is open (R200; log entry 128). -/
def dieByte (s : State) (k : Nat) : Byte := if gkSpace k = 4 then Config.freedScratch s.free k else memGet s.mem k
/-- The bytes that a lane reads. -/
def laneBytes (s : State) (c : Core) (d p : Nat) : LaneR → List (Byte × Nat)
  | .global ps => ps.flatMap (pieceBytes s c d p)
  | .keys ks => ks.map fun k => (dieByte s k, secBad s k)
  | _ => []

/-- The pieces of checked accesses that miss the L1. -/
def missPieces (rs : List (LaneAcc × LaneR)) : List Piece :=
  rs.flatMap fun (x : LaneAcc × LaneR) => match x.2 with | .global ps => ps.filter fun q => q.hit.isNone | _ => []

/-- The requests of pieces: one for each line, with its sector mask, in the order of the lowest lane that touches it
(R207, R208). `inst`: they install what they bring. -/
def missFills (inst : Bool) (c : Core) (d p : Nat) (ps : List Piece) : List Fill :=
  (ps.foldl (fun (m : KV Fill) x =>
    let line := pkey d p x.pa / 256
    let f := (kget m line).getD ⟨x.va / 256, line, 0, x.kind, x.scope, if x.kind ≤ 1 then none else some c.ed.toNat, inst⟩
    aput m line { f with mask := (BitVec.ofNat 8 f.mask ||| (1#8 <<< (x.pa / 32 % 8))).toNat }) []).map Prod.snd

/-- Sectors with a miss-status entry in a core (R208). -/
def coreSectors (s : State) (core : Nat) : List Nat :=
  (s.groups.flatMap fun (e : Nat × Group) =>
    if e.2.pend.isEmpty || s.coreOf e.1 ≠ core then []
    else e.2.pend.flatMap fun (x : Nat × Pend) => x.2.fill.flatMap fun (f : Fill) =>
      (secsOf f.mask fun _ => true).map fun k => 8 * f.line + k).eraseDups

/-- Instructions that wait for miss-status entries. -/
def isLoadClass : Instr → Bool
  | .ldG _ _ | .gather _ _ | .atomr _ _ | .cas _ _ _ _ _ | .lda _ _ | .tfill _ _ _ _ _ _ => true
  | _ => false
/-- An older load-class instruction of the core waits (R208). -/
def olderWaits (s : State) (core me : Nat) : Bool :=
  s.groups.any fun (e : Nat × Group) => e.2.blocks.any fun (b : Nat × Block) =>
    decide (b.1 < me) && isLoadClass b.2.instr && s.coreOf e.1 = core

/-- Enough miss-status entries are free for the misses, and no older instruction waits for some (R208). -/
def entriesFree (s : State) (core d p : Nat) (ps : List Piece) : Bool :=
  let need := (ps.map fun x => pkey d p x.pa / 32).eraseDups
  need.isEmpty ||
    (let used := coreSectors s core
     decide (used.length + (need.filter fun k => !used.contains k).length ≤ 4096) && !olderWaits s core (seqOf s))

/-- The device may read the pieces now (R213, R215, R427). -/
def readsFree (s : State) (d p : Nat) (ps : List Piece) : Bool :=
  ps.all fun x => readFree s (place s d p x.kind 1 x.pa)
/-- The apply units may apply atomics to the pieces now: their homes hold the lines (R234). -/
def atomsFree (s : State) (d p : Nat) (ps : List Piece) : Bool :=
  ps.all fun x => let pl := place s d p x.kind 3 x.pa; writeFree s pl.hd pl
/-- The request that must go to a home before the pieces can be read, or written by an atomic (R214). -/
def piecesWant (s : State) (d p : Nat) (wr : Bool) (ps : List Piece) : Option (HKind × Nat × Nat) :=
  ps.findSome? fun x =>
    let pl := place s d p x.kind (if wr then 3 else 1) x.pa
    wantOf s (if wr then pl.hd else d) wr pl
/-- Pieces that need miss-status entries: those of sectors that the L1 does not hold valid (R208). -/
def entryPieces (c : Core) (asid : Nat) (ps : List Piece) : List Piece :=
  ps.filter fun q => (l1Hit c asid q.va).isNone
/-- Distinct sectors of pieces (R206). -/
def sectorCount (d p : Nat) (ps : List Piece) : Nat := ((ps.map fun x => pkey d p x.pa / 32).eraseDups).length

/-- The lowest poison reason of some bytes, 0 for none (R224). -/
def lowReason : List (Byte × Nat) → Nat
  | [] => 0
  | x :: t => if x.2 = 0 then lowReason t else if lowReason t = 0 then x.2 else min x.2 (lowReason t)

/-- Words from bytes, four at a time, each with its mark; a poisoned word is zero (R224). -/
def wordsOf (lane reg : Nat) (bs : List (Byte × Nat)) : Nat → List LateWord
  | 0 => []
  | n + 1 =>
    let h := bs.take 4
    let m := lowReason h
    ⟨lane, reg, if m = 0 then BitVec.ofNat 32 (leNat (h.map Prod.fst)) else 0#32, m, false⟩
      :: wordsOf lane (reg + 1) (bs.drop 4) n

/-- The register words of a loaded element: narrow types are extended into one word (R221). -/
def loadWords (t lane reg : Nat) (bs : List (Byte × Nat)) : List LateWord :=
  if bs.length < 4 then
    let m := lowReason bs
    let v := leNat (bs.map Prod.fst)
    let x := if tySigned t then wrapNat 32 (sextNat (tyWidth t) v) else v
    [⟨lane, reg, if m = 0 then BitVec.ofNat 32 x else 0#32, m, false⟩]
  else wordsOf lane reg bs (tyWords t)

/-- The addresses of the poisoned sectors of a lane's access, by reason (R224). -/
def keepsOf (a : Nat) (bs : List (Byte × Nat)) : List (Nat × Dword) :=
  ((List.range bs.length).zip bs).filterMap fun (x : Nat × Byte × Nat) =>
    if x.2.2 = 0 then none else some (x.2.2, BitVec.ofNat 64 ((a + x.1) / 32 * 32 % 2 ^ 57))

/-- A device's copy of each coherent line that is read (R214). -/
def readHomes (d p : Nat) (ps : List Piece) (s : State) : State :=
  ps.foldl (fun s x => cohRead s (place s d p x.kind 1 x.pa) d) s

/-- Pieces of a .G access. -/
def piecesOf : LaneR → List Piece
  | .global ps => ps
  | _ => []
/-- All pieces of checked accesses. -/
def allPieces (rs : List (LaneAcc × LaneR)) : List Piece := rs.flatMap fun (x : LaneAcc × LaneR) => piecesOf x.2
/-- An access as the L1 serves it now (R230, R250): of a plain read, and of one that is always translated. -/
def rehit (c : Core) (asid : Nat) (x : LaneAcc × LaneR) : LaneAcc × LaneR :=
  match x.2 with
  | .global ps => (x.1, .global (ps.map fun q => { q with hit := l1Hit c asid q.va }))
  | r => (x.1, r)

/-- Words that a load will bring, by lane: their register words are known at issue (R221). -/
def openWords (t reg n : Nat) (a : LaneAcc) : List LateWord :=
  (List.range (if n < 4 then 1 else tyWords t)).map fun j => ⟨a.lane, reg + j, 0#32, 0, false⟩
/-- The load enters its counter with its accesses still to be made (R230, R99); the sub-group goes on. `om`: bytes of
operand memory that a TFILL will write. -/
def openLoad (i : Instr) (op cbk : Nat) (words : List LateWord) (fills : List Fill) (om : List (Nat × Byte × Nat))
    (pass : List (LaneAcc × LaneR)) (s : State) : State :=
  let n := s.uid
  let h : Held := ⟨seqOf s, i, op, n, pass⟩
  let p : Pend := { op := op, made := false, words := words, keeps := [], fill := fills, om := om, cbk := cbk, cbm := 0 }
  let s := (s.modG fun G => let G := G.enterOp 0 1; { G with pend := kput G.pend n p, defer := addHeld h G.defer }).fresh
  if words.isEmpty then finish i {} s
  else finishLate i n { vws := words.map fun w => (w.lane, w.reg, 0#32) } s.nextPc s

/-- The completing lanes of a load are sent: watchpoints look at them (R186), and their requests take miss-status entries
(R208, R371). -/
def loadSend (i : Instr) (q : MemReq) (t reg cbk op : Nat) (pass : List (LaneAcc × LaneR)) (s : State) : State :=
  let core := s.coreOf s.cur.grp
  let c := s.contOf s.cur.grp
  let K := s.core core
  if pass.isEmpty then finish i {} (s.modG (enterDone 0))
  else
    let need := entryPieces K c.asid (allPieces pass)
    let s := if q.sp = 0 then s.modG (watchAcc (watchNow s) (if q.perm = 3 then 3 else 1) q.n (pass.map Prod.fst)) else s
    let used := coreSectors s core
    let taken := ((need.map fun x => pkey c.d c.p x.pa / 32).eraseDups.filter fun k => !used.contains k).length
    let s := (s.perf core 0x07 (sectorCount c.d c.p (allPieces pass) - sectorCount c.d c.p need)).perf core 0x08 taken
    openLoad i op cbk (if q.cnt = 0 && reg < 128 then pass.flatMap fun x => openWords t reg q.n x.1 else [])
      (missFills (q.perm ≠ 3) K c.d c.p need) [] pass s

/-- Puts the values that an access brings into the words of its load; a word that has been overtaken stays so (R99), and
one that a protocol error has marked keeps its mark, but for a lower reason (R392, R224). -/
def fillWords (vals : List LateWord) (p : Pend) : Pend :=
  { p with words := p.words.map fun w =>
      match vals.find? fun v => v.lane = w.lane && v.reg = w.reg with
      | some v => if w.mark = 0 then { w with val := v.val, mark := v.mark } else { w with mark := if v.mark = 1 then 1 else w.mark }
      | none => w }
/-- The lanes whose bytes carry no poison (R231). -/
def cleanLanes (vals : List (LaneAcc × List (Byte × Nat))) : Dword :=
  maskOf ((vals.filter fun (x : LaneAcc × List (Byte × Nat)) => lowReason x.2 = 0).map fun x => x.1.lane)
/-- The accesses of load `n` of a group have been made, and brought these bytes: its words are on their way (R224, R230). -/
def madeLoad (g n t reg : Nat) (vals : List (LaneAcc × List (Byte × Nat))) (s : State) : State :=
  let words := vals.flatMap fun (x : LaneAcc × List (Byte × Nat)) => loadWords t x.1.lane reg x.2
  let om (p : Pend) : List (Nat × Byte × Nat) :=
    if p.om.isEmpty then [] else
    let bs := vals.flatMap fun (x : LaneAcc × List (Byte × Nat)) => x.2.map fun b => (b.1, lowReason x.2)
    (p.om.zip bs).map fun (y : (Nat × Byte × Nat) × Byte × Nat) => (y.1.1, if y.2.2 = 0 then y.2.1 else 0#8, y.2.2)
  s.modGrp g fun G => { G with pend := kmod G.pend n fun p =>
    { fillWords words p with
      made := true
      om := om p
      keeps := p.keeps ++ vals.flatMap fun (x : LaneAcc × List (Byte × Nat)) => keepsOf x.1.addr x.2
      cbm := cleanLanes vals } }
/-- A load's reads are made (R230): the L1 serves what it holds valid and current, the L2 the rest. -/
def loadMake (g t reg : Nat) (h : Held) (s : State) : State :=
  let core := s.coreOf g
  let c := s.contOf g
  let pass := h.acc.map (rehit (s.core core) c.asid)
  let vals := pass.map fun (x : LaneAcc × LaneR) => (x.1, laneBytes s (s.core core) c.d c.p x.2)
  madeLoad g h.pend t reg vals (readHomes c.d c.p (missPieces pass) s)
/-- A load's reads can be made now. -/
def loadFree (g : Nat) (h : Held) (s : State) : Bool :=
  let c := s.contOf g
  readsFree s c.d c.p (missPieces (h.acc.map (rehit (s.core (s.coreOf g)) c.asid)))

/-- Miss-status entries are free for a load (R208). -/
def loadReady (pass : List (LaneAcc × LaneR)) (s : State) : Bool :=
  let core := s.coreOf s.cur.grp
  let c := s.contOf s.cur.grp
  let need := entryPieces (s.core core) c.asid (allPieces pass)
  need.isEmpty || entriesFree s core c.d c.p need

/-- The accesses of LD in a space (R92, R220). -/
def loadReq (i : Instr) (e : Pfx) (f : MForm) (sp : Nat) (s : State) : MemReq :=
  let n := tyBytes (effTy i)
  ⟨0, 1, n, false, sp, (lanesOf s.g.width (activeMask e f.p s)).map fun l =>
    ⟨l, addrM s e f.x f.o.toNat f.a.toNat n l, 0, 0⟩⟩
/-- The accesses of ST in a space (R92, R220). -/
def storeReq (i : Instr) (e : Pfx) (f : MForm) (sp : Nat) (s : State) : MemReq :=
  let n := tyBytes (effTy i)
  ⟨1, 2, n, false, sp, (lanesOf s.g.width (activeMask e f.p s)).map fun l =>
    ⟨l, addrM s e f.x f.o.toNat f.a.toNat n l, s.g.rdWords l f.d.toNat (tyWords (effTy i)), 0⟩⟩

/-! ### Writing -/

/-- The cells of accesses to the spaces on the die, with the virtual address of each (R228). -/
def dieCells (n : Nat) (pass : List (LaneAcc × LaneR)) : KV Byte × List (Nat × Nat) :=
  pass.foldl (fun (m : KV Byte × List (Nat × Nat)) (x : LaneAcc × LaneR) =>
    match x.2 with
    | .keys ks =>
      let c := (List.range n).zip ks
      (putCells m.1 (c.map fun (y : Nat × Nat) => (y.2, byteOf x.1.x y.1)),
       m.2 ++ c.map fun (y : Nat × Nat) => (y.2 / 32, x.1.addr + y.1))
    | _ => m) ([], [])

/-- Stores to the spaces on the die perform at once (R230, R244); sectors that fail are reported (R226). The flag list
names the failed sectors. -/
def dieStore (g op n : Nat) (pass : List (LaneAcc × LaneR)) (s : State) : State × List Nat :=
  let c := dieCells n pass
  (bySector (c.1.filter fun (y : Nat × Byte) => gkSpace y.1 ≠ 4)).foldl (fun (r : State × List Nat) x =>
    let t := putSector r.1 x
    if t.2 then (t.1, r.2)
    else
      let va := ((c.2.filter fun (y : Nat × Nat) => y.1 = x.1).map Prod.snd).foldl min (2 ^ 57 - 1)
      (t.1.modGrp g (addFail op 0x10 va), r.2 ++ [x.1])) (s, [])

/-- Sectors of a SCATTER's writes with the lanes that write them (R231). -/
def scatSecs (d p : Nat) (pass : List (LaneAcc × LaneR)) : KV Dword :=
  pass.foldl (fun m (x : LaneAcc × LaneR) => (piecesOf x.2).foldl (fun m q =>
    let k := pkey d p q.pa / 32
    kput m k (rget m k ||| (1#64 <<< x.1.lane))) m) []

/-- An access with its operation is sent; the sub-group goes on (R230, R353). -/
def openStore (i : Instr) (op : Nat) (pass : List (LaneAcc × LaneR)) (s : State) : State :=
  let h : Held := ⟨seqOf s, i, op, 0, pass⟩
  finish i {} ((s.modG fun G => { G.enterOp 1 1 with defer := addHeld h G.defer }).fresh)

/-- The completing lanes of a store are sent (R230, R231). `cbk`: a SCATTER's bitmap plus 1. -/
def storeSend (i : Instr) (q : MemReq) (cbk op : Nat) (pass : List (LaneAcc × LaneR)) (s : State) : State :=
  let c := s.contOf s.cur.grp
  if pass.isEmpty then finish i {} (s.modG (enterDone 1))
  else
    let ws := watchNow s
    let s := if q.sp ≠ 0 then s else s.modG fun G =>
      let G := watchAcc ws (if q.perm = 3 then 3 else 2) q.n (pass.map Prod.fst) G
      if cbk = 0 then G else { G with scat := G.scat ++ [⟨op, cbk - 1, scatSecs c.d c.p pass, 0⟩] }
    openStore i op pass s

/-- A store's writes are made: in .G they enter the write path, elsewhere they perform (R209, R230, R231). -/
def storeMake (g n cbk : Nat) (h : Held) (s : State) : State :=
  let c := s.contOf g
  if h.acc.all fun (x : LaneAcc × LaneR) => match x.2 with | .keys _ => true | _ => false then
    let r := dieStore g h.op n h.acc s
    let good := h.acc.filter fun (x : LaneAcc × LaneR) => match x.2 with
      | .keys ks => !ks.any fun k => r.2.contains (k / 32) | _ => false
    r.1.modGrp g fun G =>
      let G := G.doneOp 1 h.op
      if cbk = 0 then G else { G with cb := kput G.cb (cbk - 1) (rget G.cb (cbk - 1) ||| lanesMask good) }
  else enterStores g h.op (storeLines c.d c.p (h.acc.map fun (x : LaneAcc × LaneR) => (x.1, piecesOf x.2))) s

/-- The write path of a group's core has a free entry for each new line of some accesses (R209). -/
def pathRoom (g : Nat) (pass : List (LaneAcc × LaneR)) (s : State) : Bool :=
  let c := s.contOf g
  let K := s.core (s.coreOf g)
  let ls := storeLines c.d c.p (pass.map fun (x : LaneAcc × LaneR) => (x.1, piecesOf x.2))
  decide (K.wp.length + wpNeed K ls ≤ 512)
/-- Stores may go (R209). -/
def storeReady (pass : List (LaneAcc × LaneR)) (s : State) : Bool := pathRoom s.cur.grp pass s

/-! ### Gathers and scatters -/

/-- The instruction is a GATHER or SCATTER that names cb(k). -/
def namesCb (k : Nat) : Instr → Bool
  | .gather _ f | .scatter _ f => f.f.toNat % 8 = k
  | _ => false
/-- An older operation of the group that names cb(k) is in flight, or an older q2 block is unread (R232). -/
def cbBusy (s : State) (g k : Nat) : Bool :=
  let G := s.grp g
  (G.pend.any fun (e : Nat × Pend) => e.2.cbk = k + 1) || (G.scat.any fun (x : Scat) => x.k = k) || !G.q2.isEmpty
    || (G.blocks.any fun (b : Nat × Block) => namesCb k b.2.instr) || (G.defer.any fun (h : Held) => namesCb k h.instr)
    || s.cmds.any fun (e : Nat × Cmd) => e.2.src = 2 && e.2.grp = g &&
      (e.2.blk.isEmpty || (((e.2.blk[0]?).getD 0#64).getLsbD 44 && bf ((e.2.blk[0]?).getD 0#64) 47 45 = k))

/-- GATHER and SCATTER at issue: .RS skips lanes already done, otherwise the bitmap is cleared (R231). -/
def cbStart (k : Nat) (rs : Bool) (acc : List LaneAcc) (s : State) : List LaneAcc × State :=
  if rs then (acc.filter fun a => !(rget s.g.cb k).getLsbD a.lane, s)
  else (acc, s.modG fun G => { G with cb := kput G.cb k (rget G.cb k &&& ~~~(maskOf (acc.map LaneAcc.lane))) })

/-- The course of GATHER and SCATTER: they do not issue while an older user of the bitmap is in flight (R232). -/
def cbBody (k : Nat) (rs : Bool) (body : MemReq → State → State) (q : MemReq) (s : State) : State :=
  if (waiting s).isSome then body q s
  else
    let r := cbStart k rs q.acc s
    if cbBusy s s.cur.grp k || ({ q with acc := r.1 } : MemReq).untranslated s then s
    else body { q with acc := r.1 } r.2

/-- The accesses of GATHER (R222, R231). -/
def gatherReq (e : Pfx) (f : AForm) (s : State) : MemReq :=
  ⟨0, 1, tyBytes (effTy (.gather e f)), false, f.s.toNat, (lanesOf s.g.width (activeMask e f.p s)).map fun l =>
    ⟨l, addrA s f.g l, 0, 0⟩⟩
/-- The accesses of SCATTER (R222, R231). -/
def scatterReq (e : Pfx) (f : AForm) (s : State) : MemReq :=
  ⟨1, 2, tyBytes (effTy (.scatter e f)), false, f.s.toNat, (lanesOf s.g.width (activeMask e f.p s)).map fun l =>
    ⟨l, addrA s f.g l, s.g.rdWords l f.d.toNat (tyWords (effTy (.scatter e f))), 0⟩⟩

/-! ### Atomics -/

/-- The new value of an atomic function and the exceptions of the apply unit (R233, R63). -/
def atomVal (f t o x : Nat) : Nat × Flags :=
  let w := tyWidth t
  let ext (v : Nat) : Int := if tySigned t then sextNat w v else (v % 2 ^ w : Nat)
  match f with
  | 0 => ((o + x) % 2 ^ w, 0#6)
  | 1 => (if ext x < ext o then x % 2 ^ w else o, 0#6)
  | 2 => (if ext o < ext x then x % 2 ^ w else o, 0#6)
  | 3 => ((BitVec.ofNat w o &&& BitVec.ofNat w x).toNat, 0#6)
  | 4 => ((BitVec.ofNat w o ||| BitVec.ofNat w x).toNat, 0#6)
  | 5 => ((BitVec.ofNat w o ^^^ BitVec.ofNat w x).toNat, 0#6)
  | 6 => (x % 2 ^ w, 0#6)
  | 7 => fArithBits t 0 0 false o x
  | 8 => fMinMax t false false o x
  | 9 => fMinMax t true false o x
  | _ => ((o + x) % 2 ^ 128, 0#6)
/-- The new value of an atomic function (R233). -/
def atomNew (f t o x : Nat) : Nat := (atomVal f t o x).1

/-- One atomic at the keys of its bytes: the old value and the poison reason; not applied on poison (R226, R234). -/
def atomKeys (s : State) (ks : List Nat) (mirror : List Nat) (g : Nat → Option Nat) : State × Nat × Nat :=
  let bad := lowReason (ks.map fun k => (0#8, secBad s k))
  if bad ≠ 0 then (s, 0, bad)
  else if ks.any fun k => gkSpace k = 4 then (s, leNat (ks.map (dieByte s)), 0)
  else
    let old := leNat (ks.map (memGet s.mem))
    match g old with
    | none => (s, old, 0)
    | some v =>
      let put (m : Mem) (ks : List Nat) : Mem :=
        ((List.range ks.length).zip ks).foldl (fun m (x : Nat × Nat) => memSet m x.2 (byteOf v x.1)) m
      ({ s with mem := put (put s.mem ks) mirror }, old, 0)

/-- One atomic at the apply unit of a partition's physical address (R234). -/
def atomAt (s : State) (d p kind pa n : Nat) (g : Nat → Option Nat) : State × Nat × Nat :=
  let pl := place s d p kind 3 pa
  if pl.bad ≠ 0 then (s, 0, pl.bad)
  else
    let s := wroteAt pl (1#8 <<< (pl.key / 32 % 8)) (cohWrite s pl pl.hd)
    let s := match pl.key2 with | some k => mirrorFlush k s | none => s
    let ks (k : Nat) : List Nat := (List.range n).map (k + ·)
    atomKeys s (ks pl.key) (match pl.key2 with | some k => ks k | none => []) g

/-- An atomic invalidates the sectors it touches in the issuing core's L1 (R234) and drops them from its partition's L2
copy, so that the group's later loads see it (R229). -/
def atomStale (core d p pa : Nat) (s : State) : State :=
  let k := pkey d p pa
  let off (v : BitVec 8) : BitVec 8 := v &&& ~~~(1#8 <<< (k / 32 % 8))
  let s := s.modCore core fun c => { c with l1 := c.l1.map fun x =>
    if x.line = k / 256 then { x with valid := off x.valid } else x }
  if (s.part d p).l2.isEmpty then s
  else s.modPart d p fun q => { q with l2 := q.l2.map fun x =>
    if x.line = k / 256 then { x with valid := off x.valid } else x }

/-- The atomic of one lane: the state, the old value and the poison reason. -/
def atomLane (core d p n : Nat) (g : LaneAcc → Nat → Option Nat) (s : State) (x : LaneAcc × LaneR) : State × Nat × Nat :=
  match x.2 with
  | .global (q :: _) => atomAt (atomStale core d p q.pa s) d p q.kind q.pa n (g x.1)
  | .keys ks => atomKeys s ks [] (g x.1)
  | _ => (s, 0, 0)

/-- An atomic's lanes can be applied now: older stores of their lines can perform, their homes hold the lines, and the write
path and the apply units are free (R234). -/
def atomFree (g : Nat) (acc : List (LaneAcc × LaneR)) (s : State) : Bool :=
  let core := s.coreOf g
  let c := s.contOf g
  let ps := allPieces acc
  let lines := ps.map fun x => pkey c.d c.p x.pa / 256
  atomsFree s c.d c.p ps && (s.core core).wp.all fun w => !lines.contains w.line || lineReady s core w

/-- Miss-status entries are free for a returning atomic (R208). -/
def atomReady (load : Bool) (pass : List (LaneAcc × LaneR)) (s : State) : Bool := !load || loadReady pass s

/-- The lanes of an atomic are applied in ascending lane order (R228, R234). `f`: the new value, or none. -/
def atomMake (g n t reg : Nat) (load : Bool) (f : LaneAcc → Nat → Option Nat) (h : Held) (s : State) : State :=
  let core := s.coreOf g
  let c := s.contOf g
  let s := drainLines core ((allPieces h.acc).map fun x => pkey c.d c.p x.pa / 256) s
  let r := h.acc.foldl (fun (r : State × List (LaneAcc × Nat × Nat)) x =>
    let y := atomLane core c.d c.p n f r.1 x
    (y.1, r.2 ++ [(x.1, y.2.1, y.2.2)])) (s, [])
  if load then
    madeLoad g h.pend t reg (r.2.map fun (x : LaneAcc × Nat × Nat) =>
      (x.1, (leBytes x.2.1 n).map fun b => (b, x.2.2))) r.1
  else
    r.1.modGrp g fun G => (r.2.foldl (fun G (x : LaneAcc × Nat × Nat) =>
      if x.2.2 = 0 then G else addFail h.op (poisonCause x.2.2) x.1.addr G) G).doneOp 1 h.op

/-- The accesses of ATOM, and of ATOMR, whose operand stands in RC (R84, R222, R233). -/
def atomReq (i : Instr) (e : Pfx) (f : AForm) (load : Bool) (s : State) : MemReq :=
  ⟨if load then 0 else 1, 3, tyBytes (effTy i), true, f.s.toNat, (lanesOf s.g.width (activeMask e f.p s)).map fun l =>
    ⟨l, addrA s f.g l, s.g.rdWords l (if load then e.rc f.d else f.d).toNat (tyWords (effTy i)), 0⟩⟩
/-- The accesses of CAS (R222, R233). -/
def casReq (e : Pfx) (sp : BitVec 3) (g : BitVec 6) (d : BitVec 7) (p : BitVec 2) (s : State) : MemReq :=
  let t := effTy (.cas e sp g d p)
  ⟨0, 3, tyBytes t, true, sp.toNat, (lanesOf s.g.width (activeMask e p s)).map fun l =>
    ⟨l, addrA s g l, s.g.rdWords l d.toNat (tyWords t), s.g.rdWords l (e.rc d).toNat (tyWords t)⟩⟩

/-! ### Acquire, release and fences -/

/-- The accesses of LDA (R236). -/
def ldaReq (e : Pfx) (f : AqForm) (s : State) : MemReq :=
  let n := tyBytes (effTy (.lda e f))
  ⟨0, 5, n, true, 0, (lanesOf s.g.width (activeMask e f.p s)).map fun l =>
    ⟨l, addrM s e 1#1 f.k.toNat f.a.toNat n l, 0, 0⟩⟩
/-- The accesses of STREL (R236). -/
def strelReq (e : Pfx) (f : AqForm) (s : State) : MemReq :=
  let n := tyBytes (effTy (.strel e f))
  ⟨1, 2, n, true, 0, (lanesOf s.g.width (activeMask e f.p s)).map fun l =>
    ⟨l, addrM s e 1#1 f.k.toNat f.a.toNat n l, s.g.rdWords l f.d.toNat (tyWords (effTy (.strel e f))), 0⟩⟩

/-- Everything that a release at a scope waits for performs: the core's write path at .CLU or wider, with the writes whose
values the group may have read, and the updates of mirrors at .DOM or wider (R244, R247, R257). -/
def performAt (core scope : Nat) (s : State) : State :=
  let s := if 2 ≤ scope then drainCore core s else s
  if 4 ≤ scope then s.mlog.foldl mirrorApply s else s
/-- That can happen now. -/
def performFree (core scope : Nat) (s : State) : Bool := decide (scope < 2) || wpReady s core

/-- The effect of a fence: older accesses perform at its scope, then its bumps (R237, R244, R247). `kind`: 0 full, 1 .R,
2 .W. -/
def fenceAt (core kind scope : Nat) (s : State) : State :=
  let s := performAt core scope s
  if kind ≠ 2 then acquire core scope s else s

/-! ### Prefetch and flush -/

/-- A line leaves the L2 of its home's partition: its dirty sectors go to the memory-side cache, and with `mem` on to DRAM
(R240). -/
def flushHome (mem : Bool) (d p line : Nat) (s : State) : State :=
  let v := s.dev d
  s.modPart d p fun q =>
    let q := match kget q.l2d line with
      | some x =>
        let q := { q with l2d := kdel q.l2d line }
        if x.dirty = 0#8 then q else mscPut s.free (v.mscLines p) line x.dirty true q
      | none => q
    if mem then { q with msc := kmod q.msc line fun x => { x with dirty := 0#8 } } else q
/-- CFLUSH on one line: the L1 copy, the L2 copy, and the node's place in a spine tag go (R240, R214). -/
def flushLine (core d p lv : Nat) (s : State) (q : Piece) : State :=
  let line := pkey d p q.pa / 256
  let s := drainLines core [line] s
  let s := s.modCore core fun c => { c with l1 := c.l1.filter fun x => x.line ≠ line }
  if lv = 0 then s
  else
    let s := if (s.part d p).l2.isEmpty then s
      else s.modPart d p fun x => { x with l2 := x.l2.filter fun y => y.line ≠ line }
    let pl := place s d p q.kind 1 q.pa
    let s := match if pl.bad ≠ 0 then none else homeLine pl.key with
      | some x => if x.1 = d then flushHome (lv = 2) x.1 x.2.1 x.2.2 s else s
      | none => s
    cohLeave s pl d
/-- The lines of a CFLUSH can be flushed now. -/
def flushFree (g : Nat) (acc : List (LaneAcc × LaneR)) (s : State) : Bool :=
  let core := s.coreOf g
  let c := s.contOf g
  let ps := allPieces acc
  let lines := ps.map fun x => pkey c.d c.p x.pa / 256
  (ps.all fun x => let pl := place s c.d c.p x.kind 1 x.pa; pl.bad ≠ 0 || (!pl.stall && !homeBusy s pl))
    && (s.core core).wp.all fun w => !lines.contains w.line || lineReady s core w
/-- A CFLUSH is made: every write-back has reached its destination when the step ends (R240). -/
def flushMake (g lv : Nat) (h : Held) (s : State) : State :=
  let c := s.contOf g
  ((allPieces h.acc).foldl (flushLine (s.coreOf g) c.d c.p lv) s).modGrp g (·.doneOp 1 h.op)
/-- The accesses of CFLUSH (R240). -/
def cflushReq (e : Pfx) (x : BitVec 1) (o : BitVec 7) (a : BitVec 6) (lv : BitVec 2) (p : BitVec 2) (s : State) : MemReq :=
  let n := tyBytes (effTy (.cflush e x o a lv p))
  ⟨1, 5, n, false, 0, (lanesOf s.g.width (activeMask e p s)).map fun l =>
    ⟨l, addrM s e x o.toNat a.toNat n l, 0, 0⟩⟩
/-- The completing lanes of a CFLUSH are sent. -/
def flushSend (i : Instr) (op : Nat) (pass : List (LaneAcc × LaneR)) (s : State) : State :=
  if pass.isEmpty then finish i {} (s.modG (enterDone 1)) else openStore i op pass s
/-- The accesses of TFILL; the data of each names OFF (R271). -/
def tfillReq (e : Pfx) (x : BitVec 1) (o : BitVec 7) (a d : BitVec 6) (p : BitVec 2) (s : State) : MemReq :=
  let n := tyBytes (effTy (.tfill e x o a d p))
  let off := (rs s d.toNat).toNat
  ⟨0, 5, n, false, e.xo, (lanesOf s.g.width (activeMask e p s)).map fun l =>
    ⟨l, addrM s e x o.toNat a.toNat n l, off, off⟩⟩

/-! ### Making the accesses of a group in issue order (R229) -/

/-- The oldest access of a group can be made now: no older instruction of the group waits at its issue, and what it needs
of the write path and of homes is there. -/
def heldFree (g : Nat) (h : Held) (s : State) : Bool :=
  let core := s.coreOf g
  !olderMem (s.grp g) h.seq && match h.instr with
    | .stG _ _ | .stSp _ _ | .stCl _ _ | .stCh _ _ | .stLn _ _ | .scatter _ _ => pathRoom g h.acc s
    | .strel _ f => pathRoom g h.acc s && performFree core f.s.toNat s
    | .atom _ _ | .atomr _ _ | .cas _ _ _ _ _ => atomFree g h.acc s
    | .cflush _ _ _ _ _ _ => flushFree g h.acc s
    | .fence _ _ a => performFree core a.toNat s
    | _ => loadFree g h s
/-- The request that a home must have first (R214). -/
def heldWant (g : Nat) (h : Held) (s : State) : Option (HKind × Nat × Nat) :=
  let c := s.contOf g
  match h.instr with
  | .stG _ _ | .stSp _ _ | .stCl _ _ | .stCh _ _ | .stLn _ _ | .scatter _ _ | .strel _ _ | .fence _ _ _
  | .cflush _ _ _ _ _ _ => none
  | .atom _ _ | .atomr _ _ | .cas _ _ _ _ _ => piecesWant s c.d c.p true (allPieces h.acc)
  | _ => piecesWant s c.d c.p false (missPieces (h.acc.map (rehit (s.core (s.coreOf g)) c.asid)))
/-- An access of a group is made. -/
def heldMake (g : Nat) (h : Held) (s : State) : State :=
  let t := effTy h.instr
  let n := tyBytes t
  match h.instr with
  | .ldG _ f | .ldSp _ f | .ldCl _ f | .ldCh _ f | .ldLn _ f => loadMake g t f.d.toNat h s
  | .gather _ f => loadMake g t f.d.toNat h s
  | .lda _ f => acquire (s.coreOf g) f.s.toNat (loadMake g t f.d.toNat h s)
  | .tfill _ _ _ _ _ _ => loadMake g t 0 h s
  | .stG _ _ | .stSp _ _ | .stCl _ _ | .stCh _ _ | .stLn _ _ => storeMake g n 0 h s
  | .scatter _ f => storeMake g n (f.f.toNat % 8 + 1) h s
  | .strel _ f => storeMake g n 0 h (performAt (s.coreOf g) f.s.toNat s)
  | .atom _ f => atomMake g n t 0 false (fun a o => some (atomNew f.f.toNat t o a.x)) h s
  | .atomr _ f => atomMake g n t f.d.toNat true (fun a o => some (atomNew f.f.toNat t o a.x)) h s
  | .cas _ _ _ d _ => atomMake g n t d.toNat true (fun a o => if o = a.y then some a.x else none) h s
  | .fence _ b a => fenceAt (s.coreOf g) b.toNat a.toNat s
  | .cflush _ _ _ _ lv _ => flushMake g lv.toNat h s
  | _ => s
/-- Accesses of a group are made, oldest first, as far as they can be. -/
def settleHeld (g : Nat) : Nat → State → State
  | 0, s => s
  | n + 1, s =>
    match (s.grp g).defer with
    | [] => s
    | h :: t => if heldFree g h s then settleHeld g n (heldMake g h (s.modGrp g fun G => { G with defer := t })) else s
/-- The same for all that the group has. -/
def settleGroup (g : Nat) (s : State) : State := settleHeld g (s.grp g).defer.length s

/-- Issue of a memory instruction, after which the group's accesses are made as far as they can be. -/
def memRun (i : Instr) (m : Dword) (req : State → MemReq) (dest : BitVec 16)
    (ready : List (LaneAcc × LaneR) → State → Bool) (send : MemReq → Nat → List (LaneAcc × LaneR) → State → State)
    (s : State) : Out :=
  memIssue i m req (fun q s => settleGroup s.cur.grp (memBody i q dest ready (send q) s)) s

/-! ### The instructions -/

/-- LD in space `sp` (R220, R230). -/
def loadM (i : Instr) (e : Pfx) (f : MForm) (sp : Nat) (s : State) : Out :=
  memRun i (activeMask e f.p s) (loadReq i e f sp) (destDesc i) loadReady
    (fun q op => loadSend i q (effTy i) f.d.toNat 0 op) s
def execLdG (e : Pfx) (f : MForm) (s : State) : Out := loadM (.ldG e f) e f 0 s
def execLdSp (e : Pfx) (f : MForm) (s : State) : Out := loadM (.ldSp e f) e f 1 s
def execLdCl (e : Pfx) (f : MForm) (s : State) : Out := loadM (.ldCl e f) e f 2 s
def execLdCh (e : Pfx) (f : MForm) (s : State) : Out := loadM (.ldCh e f) e f 3 s
def execLdLn (e : Pfx) (f : MForm) (s : State) : Out := loadM (.ldLn e f) e f 4 s

/-- ST in space `sp` (R220, R230). -/
def storeM (i : Instr) (e : Pfx) (f : MForm) (sp : Nat) (s : State) : Out :=
  memRun i (activeMask e f.p s) (storeReq i e f sp) 0 storeReady (fun q op => storeSend i q 0 op) s
def execStG (e : Pfx) (f : MForm) (s : State) : Out := storeM (.stG e f) e f 0 s
def execStSp (e : Pfx) (f : MForm) (s : State) : Out := storeM (.stSp e f) e f 1 s
def execStCl (e : Pfx) (f : MForm) (s : State) : Out := storeM (.stCl e f) e f 2 s
def execStCh (e : Pfx) (f : MForm) (s : State) : Out := storeM (.stCh e f) e f 3 s
def execStLn (e : Pfx) (f : MForm) (s : State) : Out := storeM (.stLn e f) e f 4 s

/-- GATHER (R231). -/
def execGather (e : Pfx) (f : AForm) (s : State) : Out :=
  let i : Instr := .gather e f
  let k := f.f.toNat % 8
  memIssue i (activeMask e f.p s) (gatherReq e f) (cbBody k (f.f.getLsbD 3) fun q s =>
    settleGroup s.cur.grp (memBody i q (destDesc i) loadReady (fun op => loadSend i q (effTy i) f.d.toNat (k + 1) op) s)) s
/-- SCATTER (R231). -/
def execScatter (e : Pfx) (f : AForm) (s : State) : Out :=
  let i : Instr := .scatter e f
  let k := f.f.toNat % 8
  memIssue i (activeMask e f.p s) (scatterReq e f) (cbBody k (f.f.getLsbD 3) fun q s =>
    settleGroup s.cur.grp (memBody i q 0 storeReady (fun op => storeSend i q (k + 1) op) s)) s

/-- ATOM (R233, R234). -/
def execAtom (e : Pfx) (f : AForm) (s : State) : Out :=
  let i : Instr := .atom e f
  memRun i (activeMask e f.p s) (atomReq i e f false) 0 (atomReady false) (fun q op => storeSend i q 0 op) s
/-- ATOMR (R233, R234). -/
def execAtomr (e : Pfx) (f : AForm) (s : State) : Out :=
  let i : Instr := .atomr e f
  memRun i (activeMask e f.p s) (atomReq i e f true) (destDesc i) (atomReady true)
    (fun q op => loadSend i q (effTy i) f.d.toNat 0 op) s
/-- CAS (R233, R234). -/
def execCas (e : Pfx) (sp : BitVec 3) (g : BitVec 6) (d : BitVec 7) (p : BitVec 2) (s : State) : Out :=
  let i : Instr := .cas e sp g d p
  memRun i (activeMask e p s) (casReq e sp g d p) (destDesc i) (atomReady true)
    (fun q op => loadSend i q (effTy i) d.toNat 0 op) s

/-- LDA: a load, then an acquire at its scope (R236, R251). -/
def execLda (e : Pfx) (f : AqForm) (s : State) : Out :=
  let i : Instr := .lda e f
  memRun i (activeMask e f.p s) (ldaReq e f) (destDesc i) loadReady (fun q op => loadSend i q (effTy i) f.d.toNat 0 op) s
/-- STREL: everything older performs at its scope first, then it stores (R236, R247). -/
def execStrel (e : Pfx) (f : AqForm) (s : State) : Out :=
  let i : Instr := .strel e f
  memRun i (activeMask e f.p s) (strelReq e f) 0 storeReady (fun q op => storeSend i q 0 op) s

/-- FENCE: it takes its place among the group's accesses; the sub-group goes on (R237). -/
def execFence (e : Pfx) (b a : BitVec 7) (s : State) : Out :=
  let i : Instr := .fence e b a
  let h : Held := ⟨s.uid, i, 0, 0, []⟩
  .next (settleGroup s.cur.grp (finish i {} ((s.modG fun G => { G with defer := addHeld h G.defer }).fresh)))

/-- ACQ.PROMOTE: it waits until the group's older accesses are made and the victim's write path can perform; then the victim
bumps, and it acts as FENCE.DEV (R238, R253). -/
def execAcqPromote (e : Pfx) (a : BitVec 7) (s : State) : Out :=
  let i : Instr := .acqPromote e a
  let core := s.coreOf s.cur.grp
  let c := s.contOf s.cur.grp
  let v := match waiting s with | some (_, b) => (b.data[0]?).getD 0 | none => (rs s a.toNat).toNat
  .next (if (s.dev c.d).ncores c.p ≤ v then trapNow i 0x42 s.cur.mask (BitVec.ofNat 64 (v % 2 ^ 57)) s
    else
      let victim := coreKey c.d (((s.dev c.d).physOf c.p v).getD 0)
      if (s.g.defer.any fun h => decide (h.seq < seqOf s)) || olderMem s.g (seqOf s) || !wpReady s victim || !wpReady s core then stall i [v] s
      else settleGroup s.cur.grp (finish i {} (fenceAt core 0 3 (bumpDev victim (drainCore victim s)))))

/-- PREF: sectors that the L1 does not hold fill the L1 and the L2, or the L2 only; those that it holds fill the L2. It never
traps, blocks or writes a register, and it is dropped while the group has accesses still to make (R239). -/
def execPref (e : Pfx) (x : BitVec 1) (o : BitVec 7) (a : BitVec 6) (lv : BitVec 1) (p : BitVec 2) (s : State) : Out :=
  let i : Instr := .pref e x o a lv p
  let n := tyBytes (effTy i)
  let s := landFor (srcRegs i) s
  let g := s.cur.grp
  let c := s.contOf g
  let core := s.coreOf g
  let accs := (lanesOf s.g.width (activeMask e p s)).map fun l => (⟨l, addrM s e x o.toNat a.toNat n l, 0, 0⟩ : LaneAcc)
  let rs := (accs.map fun y => (y, laneChk s g 0 n 5 false y)).filter fun (y : LaneAcc × LaneR) =>
    match y.2 with | .global _ => true | _ => false
  let miss := missPieces rs
  let fill (l1 : Bool) (s : State) (f : Fill) : State :=
    let t := fillLine core c.d c.p c.asid f s
    if l1 then t else { t with cores := s.cores }
  let have_ := (allPieces rs).filter fun q => q.hit.isSome
  .next (finish i {} (if s.g.defer.isEmpty && readsFree s c.d c.p (allPieces rs) && entriesFree s core c.d c.p miss then
      let K := s.core core
      let s := readHomes c.d c.p (allPieces rs) s
      let s := (missFills true K c.d c.p have_).foldl (fill false) s
      (missFills true K c.d c.p miss).foldl (fill (lv = 0#1)) s
    else s))
/-- CFLUSH (R240). -/
def execCflush (e : Pfx) (x : BitVec 1) (o : BitVec 7) (a : BitVec 6) (lv : BitVec 2) (p : BitVec 2) (s : State) : Out :=
  let i : Instr := .cflush e x o a lv p
  memRun i (activeMask e p s) (cflushReq e x o a lv p) 0 (fun _ _ => true) (fun _ op => flushSend i op) s

/-- The request of a memory instruction (R220 to R240), which must be translated before it issues (log entry 132). -/
def memReq (i : Instr) (s : State) : Option MemReq :=
  match i with
  | .ldG e f => some (loadReq i e f 0 s)
  | .ldSp e f => some (loadReq i e f 1 s)
  | .ldCl e f => some (loadReq i e f 2 s)
  | .ldCh e f => some (loadReq i e f 3 s)
  | .ldLn e f => some (loadReq i e f 4 s)
  | .stG e f => some (storeReq i e f 0 s)
  | .stSp e f => some (storeReq i e f 1 s)
  | .stCl e f => some (storeReq i e f 2 s)
  | .stCh e f => some (storeReq i e f 3 s)
  | .stLn e f => some (storeReq i e f 4 s)
  | .gather e f => let q := gatherReq e f s; some { q with acc := (cbStart (f.f.toNat % 8) (f.f.getLsbD 3) q.acc s).1 }
  | .scatter e f => let q := scatterReq e f s; some { q with acc := (cbStart (f.f.toNat % 8) (f.f.getLsbD 3) q.acc s).1 }
  | .atom e f => some (atomReq i e f false s)
  | .atomr e f => some (atomReq i e f true s)
  | .cas e sp g d p => some (casReq e sp g d p s)
  | .lda e f => some (ldaReq e f s)
  | .strel e f => some (strelReq e f s)
  | .cflush e x o a lv p => some (cflushReq e x o a lv p s)
  | .tfill e x o a d p => some (tfillReq e x o a d p s)
  | _ => none

end Sys2Proof.Machine
end

