-- ==== Sys2Proof/Machine/Control.lean ====
section
/-! DEFINITION. Sys2Proof/Machine/Control.lean: branches, calls, meeting addresses and lane control (R172 to R181). -/

namespace Sys2Proof.Machine
open Sys2Proof

/-- The code range of the issuing group's kernel holds bytes [a, a + n) (R73). -/
def inCode (s : State) (g a n : Nat) : Bool :=
  let k := (s.launchOf g).desc
  decide (k.entry.toNat ≤ a) && decide (a + n ≤ k.entry.toNat + k.codesz)

/-- A transfer outside the code range: the branch has completed, and the sub-group traps at once (R73, R175, R385). -/
def codeTrap (tgt : Nat) (s : State) : State :=
  takeTrap s.cur.grp
    { cause := 0x30, tlanes := s.cur.mask, tva := BitVec.ofNat 64 tgt, treta := BitVec.ofNat 57 (tgt / 2 * 2),
      tdest := 0, sub := s.cur.mask, next := BitVec.ofNat 57 (tgt / 2 * 2), decoded := false, retire := false } s

/-- A control transfer of the issuing sub-group (R174, R175). -/
def transfer (i : Instr) (r : Res) (tgt : Nat) (s : State) : State :=
  let t := finishAt i r (BitVec.ofNat 57 tgt) s
  if inCode s s.cur.grp tgt 2 then t else codeTrap tgt t

/-- The target of a displacement in halfwords (R79). -/
def relTarget (s : State) (d : Int) : Nat := wrapNat 57 ((s.cur.pc.toNat : Int) + 2 * d)

/-- The condition C of BR (R172). -/
def brCond (c : Nat) (cc : BitVec 4) : Bool :=
  match c with
  | 0 => true
  | 1 => ccZ cc
  | 2 => !ccZ cc
  | 3 => ccN cc != ccV cc
  | 4 => ccN cc == ccV cc
  | 5 => !ccZ cc && ccN cc == ccV cc
  | 6 => ccZ cc || ccN cc != ccV cc
  | 7 => !ccC cc
  | 8 => ccC cc
  | 9 => ccC cc && !ccZ cc
  | 10 => !ccC cc || ccZ cc
  | 11 => ccN cc
  | 12 => !ccN cc
  | 13 => ccV cc
  | _ => !ccV cc

/-- I16 or IMM23 : I16 as a displacement (R85). -/
def disp16 (e : Pfx) (i : BitVec 16) : Int := match e.k1 with | some m => (m ++ i).toInt | none => i.toInt
/-- I21 or IMM23 : I21 as a displacement (R85). -/
def disp21 (e : Pfx) (i : BitVec 21) : Int := match e.k1 with | some m => (m ++ i).toInt | none => i.toInt

/-- BR (R172). -/
def execBr (e : Pfx) (i : BitVec 16) (c : BitVec 5) (s : State) : Out :=
  .next (if brCond c.toNat s.sc.cc then transfer (.br e i c) {} (relTarget s (disp16 e i)) s
    else finish (.br e i c) {} s)
/-- BRP: the predicate's bits of the sub-group (R173). -/
def execBrp (e : Pfx) (i : BitVec 16) (sn : BitVec 1) (k : BitVec 4) (s : State) : Out :=
  let m := predVal s k.toNat &&& s.cur.mask
  .next (if (m = 0#64) == (sn = 0#1) then transfer (.brp e i sn k) {} (relTarget s (disp16 e i)) s
    else finish (.brp e i sn k) {} s)
/-- JMP (R174). -/
def execJmp (e : Pfx) (i : BitVec 21) (s : State) : Out :=
  .next (transfer (.jmp e i) {} (relTarget s (disp21 e i)) s)
/-- CALL writes the address that follows it to s63 (R174). -/
def execCall (e : Pfx) (i : BitVec 21) (s : State) : Out :=
  .next (transfer (.call e i) { sws := [(63, s.nextPc.zeroExtend 64)] } (relTarget s (disp21 e i)) s)
/-- RET: to s(a) with bit 0 cleared (R174). -/
def execRet (e : Pfx) (a : BitVec 7) (s : State) : Out :=
  .next (transfer (.ret e a) {} ((rs s a.toNat).toNat / 2 * 2) s)

/-- A lane after SPLIT: every lane whose new address is its meeting address arrives at once (R177, R14). -/
def splitLane (x : Dword) (new : BitVec 57) (l : Lane) : Lane :=
  { l with meet := x, pc := new, blk := 0, st := if new.zeroExtend 64 = x then .held else .running }
/-- SPLIT (R177): saves MEET, sets it, and sends the lanes of M to T and the others on. T outside the code range traps at
the next fetch (log entry 129). -/
def execSplit (e : Pfx) (f : BitVec 6) (q : BitVec 4) (i : BitVec 11) (s : State) : Out :=
  let ins : Instr := .split e f q i
  let t : BitVec 57 := BitVec.ofNat 57 (relTarget s i.toInt)
  let x : Dword := BitVec.ofNat 64 (relTarget s (match e.k1 with | some m => m.toInt | none => 0))
  let m := predVal s q.toNat &&& s.cur.mask
  let ls := lanesOf s.g.width s.cur.mask
  let r : Res := { vws := ls.flatMap fun l => wordsAt l (2 * f.toNat) (s.g.lane l).meet.toNat 2 }
  let copy := s.cid
  let sub := s.cur.mask
  let nx := s.nextPc
  .next (s.modG fun G =>
    let G := (writeRes false copy r G).push (entryOf ins sub copy 0 r)
    let mv (l : Nat × Lane) : Nat × Lane :=
      if sub.getLsbD l.1 then
        (l.1, splitLane x (if m.getLsbD l.1 then t else nx) l.2)
      else l
    releaseDue { G with lanes := G.lanes.map mv })

/-- Sets MEET in every lane of the sub-group. -/
def setMeet (m : Dword) (f : Nat → Dword) (G : Group) : Group :=
  let up (l : Nat × Lane) : Nat × Lane := if m.getLsbD l.1 then (l.1, { l.2 with meet := f l.1 }) else l
  { G with lanes := G.lanes.map up }
/-- JOIN (R178). -/
def execJoin (e : Pfx) (a : BitVec 7) (s : State) : Out :=
  issue (.join e a) s.cur.mask (fun s =>
    finish (.join e a) {} (s.modG fun G => setMeet s.cur.mask (fun l => BitVec.ofNat 64 (s.g.rdWords l a.toNat 2)) G)) s
/-- MEETSET (R179). -/
def execMeetset (e : Pfx) (i : BitVec 21) (s : State) : Out :=
  let x : Dword := BitVec.ofNat 64 (relTarget s (disp21 e i))
  .next (finish (.meetset e i) {} (s.modG fun G => setMeet s.cur.mask (fun _ => x) G))

/-- ELECT (R180). -/
def execElect (e : Pfx) (b a d : BitVec 7) (s : State) : Out :=
  issueS (.elect e b a d) (fun s =>
    let j := lowBit (predVal s b.toNat &&& s.cur.mask)
    { pws := [(d.toNat, if j < 64 then 1#64 <<< j else 0#64)], sws := [(a.toNat, BitVec.ofNat 64 j)] }) s

/-- The lanes of a mask exit (R181, R19, R23). -/
def exitLanes (m : Dword) (G : Group) : Group :=
  let ex (l : Nat × Lane) : Nat × Lane := if m.getLsbD l.1 then (l.1, { l.2 with st := .exited, blk := 0 }) else l
  gcCopies (releaseDue { G with lanes := G.lanes.map ex, xmask := m })
/-- NOP changes nothing and counts (R181). -/
def execNop (e : Pfx) (s : State) : Out := issueS (.nop e) (fun _ => {}) s
/-- YIELD: a pending swap is served at any boundary; else NOP (R194). -/
def execYield (e : Pfx) (s : State) : Out := issueS (.yield e) (fun _ => {}) s

end Sys2Proof.Machine
end

