-- ==== Sys2Proof/Machine/Tiles.lean ====
section
/-! DEFINITION. Sys2Proof/Machine/Tiles.lean: operand slots, accumulator regions and what the matrix operations of a bank
reference (R262 to R270, R275, R118, R268). -/

namespace Sys2Proof.Machine
open Sys2Proof

/-- A doubleword of a parameter block (R275). -/
def MOp.dw (o : MOp) (i : Nat) : Dword := (o.blk[i]?).getD 0#64
def MOp.tag (o : MOp) : Nat := bf (o.dw 0) 63 48
def MOp.k (o : MOp) : Nat := bf (o.dw 0) 32 24
def MOp.n (o : MOp) : Nat := bf (o.dw 0) 23 17 + 1
def MOp.m (o : MOp) : Nat := bf (o.dw 0) 16 10 + 1
def MOp.ct (o : MOp) : Nat := bf (o.dw 0) 9 8
def MOp.sb (o : MOp) : Nat := bf (o.dw 0) 7 4
def MOp.sa (o : MOp) : Nat := bf (o.dw 0) 3 0
def MOp.byslot (o : MOp) : Nat := bf (o.dw 1) 52 49
def MOp.sob (o : MOp) : Nat := bf (o.dw 1) 48 45
def MOp.ssb (o : MOp) : Nat := bf (o.dw 1) 44 41
def MOp.mxb (o : MOp) : Bool := (o.dw 1).getLsbD 40
def MOp.soa (o : MOp) : Nat := bf (o.dw 1) 39 36
def MOp.ssa (o : MOp) : Nat := bf (o.dw 1) 35 32
def MOp.mxa (o : MOp) : Bool := (o.dw 1).getLsbD 31
def MOp.bobj (o : MOp) : Nat := bf (o.dw 1) 30 24
def MOp.be (o : MOp) : Bool := (o.dw 1).getLsbD 23
def MOp.aos (o : MOp) : Bool := (o.dw 1).getLsbD 22
def MOp.bypass (o : MOp) : Bool := (o.dw 1).getLsbD 21
def MOp.dr (o : MOp) : Bool := (o.dw 1).getLsbD 20
def MOp.acc (o : MOp) : Bool := (o.dw 1).getLsbD 19
def MOp.sn (o : MOp) : Bool := (o.dw 1).getLsbD 18
def MOp.rm (o : MOp) : Nat := bf (o.dw 1) 17 15
def MOp.dt (o : MOp) : Nat := bf (o.dw 1) 14 10
def MOp.tb (o : MOp) : Nat := bf (o.dw 1) 9 5
def MOp.ta (o : MOp) : Nat := bf (o.dw 1) 4 0
def MOp.daddr (o : MOp) : Nat := bf (o.dw 2) 63 3 * 8
def MOp.dsp (o : MOp) : Nat := bf (o.dw 2) 2 0
def MOp.dstride (o : MOp) : Nat := bf (o.dw 3) 31 0
def MOp.seed (o : MOp) : Dword := o.dw 4
def MOp.row0 (o : MOp) : Nat := bf (o.dw 5) 31 0
def MOp.col0 (o : MOp) : Nat := bf (o.dw 5) 63 32

/-- MCFG.FWR of a region, and WBASE (R265). -/
def Cont.fwr (c : Cont) (t : Nat) : Bool := c.mcfg.getLsbD t && decide (t < 4)
def Cont.wbase (c : Cont) : Int := sextNat 10 (bf c.mcfg 25 16)

/-- The regions that an operation's tile occupies (R263). -/
def MOp.regions (o : MOp) (c : Cont) : List Nat :=
  if c.fwr o.ct then (List.range ((o.m + 31) / 32)).map (o.ct + ·) else [o.ct]
/-- The operand and scale slots that the products read (R269). -/
def MOp.srcSlots (o : MOp) : List Nat :=
  [o.sa, o.sb] ++ (if o.mxa then [o.ssa] else []) ++ (if o.mxb then [o.ssb] else [])
/-- The slots an operation references (R269). -/
def MOp.slotRefs (o : MOp) : List Nat :=
  match o.stage with
  | .queued | .products => o.srcSlots ++ (if o.bypass then [o.byslot] else [])
  | .convert => if o.bypass then [o.byslot] else []
  | _ => []
/-- The regions an operation references (R269). -/
def MOp.regionRefs (o : MOp) (c : Cont) : List Nat :=
  match o.stage with
  | .queued | .products | .convert => o.regions c
  | _ => []

/-- A slot is claimed (R267). -/
def Cont.claimed (c : Cont) (k : Nat) : Bool := c.claims.getLsbD k
/-- An operation of the bank references a slot (R269). -/
def Cont.slotBusy (c : Cont) (k : Nat) : Bool := c.mq.any fun (e : Nat × MOp) => e.2.slotRefs.contains k
/-- An operation of the bank references a region (R269). -/
def Cont.regionBusy (c : Cont) (t : Nat) : Bool := c.mq.any fun (e : Nat × MOp) => (e.2.regionRefs c).contains t

/-- The mask of the numbers below n for which a test holds. -/
def bitsOf (n : Nat) (f : Nat → Bool) : Nat := (maskOf ((List.range n).filter f)).toNat

/-- TSTAT (R118). -/
def Cont.tstat (c : Cont) : Dword :=
  let tiles := bitsOf 4 c.regionBusy
  let nt := ((List.range 4).filter c.regionBusy).length
  let ns := ((List.range 16).filter c.claimed).length
  BitVec.ofNat 64 (c.claims.toNat * 2 ^ 48 + tiles * 2 ^ 44 + 256 * (4 - nt) * 2 ^ 33 + 64 * (16 - ns) * 2 ^ 22)

/-- MQSTAT (R268); `other`: the array runs an operation of the core's other bank. -/
def Cont.mqstat (c : Cont) (other : Bool) : Dword :=
  let st (p : MStage → Bool) : Nat := (c.mq.filter fun (e : Nat × MOp) => p e.2.stage).length
  BitVec.ofNat 64 ((if other then 2 ^ 9 else 0)
    + (if st (fun x => x = .products || x = .convert || x = .drain) = 0 then 0 else 2 ^ 8)
    + st (fun x => x = .queued) % 64)

/-- Zeroes a slot and clears its marks (R267). -/
def zeroSlot (cid k : Nat) (s : State) : State :=
  { s with
    mem := memClear s.mem (operandKey cid (16384 * k)) (operandKey cid (16384 * (k + 1)))
    psn := s.psn.filter fun (e : Nat × Nat) =>
      e.1 < operandKey cid (16384 * k) / 32 || operandKey cid (16384 * (k + 1)) / 32 ≤ e.1 }

end Sys2Proof.Machine
end

