-- ==== Sys2Proof/Machine/Regs.lean ====
section
/-! DEFINITION. Sys2Proof/Machine/Regs.lean: predicate logic, moves, indexed registers, parking rows and the window
(R100 to R117). -/

namespace Sys2Proof.Machine
open Sys2Proof

/-- A predicate result masked to the width (R102). -/
def predOp (i : Instr) (d : BitVec 6) (f : State → Dword) (s : State) : Out :=
  issueS i (fun s => { pws := [(d.toNat, f s &&& s.g.full)] }) s
def execPand (e : Pfx) (b a d : BitVec 6) (s : State) : Out :=
  predOp (.pand e b a d) d (fun s => predVal s a.toNat &&& predVal s b.toNat) s
def execPor (e : Pfx) (b a d : BitVec 6) (s : State) : Out :=
  predOp (.por e b a d) d (fun s => predVal s a.toNat ||| predVal s b.toNat) s
def execPxor (e : Pfx) (b a d : BitVec 6) (s : State) : Out :=
  predOp (.pxor e b a d) d (fun s => predVal s a.toNat ^^^ predVal s b.toNat) s
def execPandn (e : Pfx) (b a d : BitVec 6) (s : State) : Out :=
  predOp (.pandn e b a d) d (fun s => predVal s a.toNat &&& ~~~(predVal s b.toNat)) s
def execPnot (e : Pfx) (a d : BitVec 6) (s : State) : Out :=
  predOp (.pnot e a d) d (fun s => ~~~(predVal s a.toNat)) s
def execPset (e : Pfx) (a d : BitVec 6) (s : State) : Out :=
  predOp (.pset e a d) d (fun s => rs s a.toNat) s
def execPget (e : Pfx) (a d : BitVec 6) (s : State) : Out :=
  issueS (.pget e a d) (fun s => { sws := [(d.toNat, predVal s a.toNat)] }) s

/-- MOV (R106). -/
def execMov (e : Pfx) (f : GForm) (s : State) : Out :=
  let t := effTy (.mov e f)
  let sv := (rs s f.b.toNat).toNat
  vecOp (.mov e f) e f.p f.d (tyWords t) (fun G l =>
    (if f.a = 0#7 then G.rdWords l f.b.toNat (tyWords t) else sv, 0#6)) s

/-- Index register k of a lane (R103). -/
def Group.rdIx (G : Group) (l k : Nat) : Word := rget G.ix (4 * l + k)
/-- The outcome of an indexed operand in a lane (R105): out of bounds, at or above the count, or the register. -/
inductive IxSel where
  | bad | far | reg (r : Nat)
  deriving DecidableEq, Repr
/-- The register that v[ixK + off] names in a lane (R103, R105). -/
def ixSel (G : Group) (k : Nat) (off : BitVec 7) (l : Nat) : IxSel :=
  let x := G.rdIx l k
  let j : Int := sextNat 16 (bf x 31 16) + off.toInt
  if j < 0 ∨ bf x 7 0 ≤ j.toNat then .bad
  else if G.nregs ≤ bf x 14 8 + j.toNat then .far
  else .reg (bf x 14 8 + j.toNat)
/-- The lanes whose indexed operand has the given outcome. -/
def ixLanes (G : Group) (k : Nat) (off : BitVec 7) (ls : List Nat) (o : IxSel) : Dword :=
  maskOf (ls.filter fun l => ixSel G k off l = o)
/-- The registers that the lanes reach. -/
def ixRegs (G : Group) (k : Nat) (off : BitVec 7) (ls : List Nat) : List (Nat × Nat) :=
  ls.filterMap fun l => match ixSel G k off l with | .reg r => some (l, r) | _ => none

/-- MOVIX: all or nothing across the lanes (R105). -/
def execMovix (e : Pfx) (f : NForm) (s : State) : Out :=
  let i : Instr := .movix e f
  let k := f.a.toNat % 4
  let ls := lanesOf s.g.width (activeMask e f.p s)
  let bad := ixLanes s.g k f.b ls .bad
  let far := ixLanes s.g k f.b ls .far
  if bad ≠ 0#64 then .next (trapNow i 0x40 bad 0 s)
  else if far ≠ 0#64 then .next (trapNow i 0x5A far 0 s)
  else
    let rg := ixRegs s.g k f.b ls
    issueAcross i (rg.map fun (x : Nat × Nat) => ⟨x.2, 1, false, false⟩)
      (fun _ => rg.map fun (x : Nat × Nat) => (x.1, x.1, x.2, 1))
      (fun s => { vws := rg.map fun (x : Nat × Nat) => (x.1, f.d.toNat, s.g.rdV x.1 x.2) }) s
/-- STIX: a bank write of vs at the indexed register (R105). -/
def execStix (e : Pfx) (f : NForm) (s : State) : Out :=
  let i : Instr := .stix e f
  let k := f.a.toNat % 4
  let m := activeMask e f.p s
  issue i m (fun s =>
    let ls := lanesOf s.g.width m
    let bad := ixLanes s.g k f.b ls .bad
    let far := ixLanes s.g k f.b ls .far
    if bad ≠ 0#64 then trapNow i 0x40 bad 0 s
    else if far ≠ 0#64 then trapNow i 0x5A far 0 s
    else finish i { vws := (ixRegs s.g k f.b ls).map fun (x : Nat × Nat) => (x.1, x.2, s.g.rdV x.1 f.d.toNat) } s) s

/-- The new value of an index register (R104). -/
def ixNew (mode : Nat) (old x : Word) : Word :=
  match mode with
  | 0 => x.extractLsb' 16 16 ++ 0#1 ++ x.extractLsb' 8 7 ++ BitVec.ofNat 8 (min (bf x 7 0) 128)
  | 1 => x.extractLsb' 0 16 ++ old.extractLsb' 0 16
  | _ => (old.extractLsb' 16 16 + x.extractLsb' 0 16) ++ old.extractLsb' 0 16
/-- IXSET (R104). -/
def execIxset (e : Pfx) (b : BitVec 7) (md k : BitVec 2) (p : BitVec 2) (s : State) : Out :=
  let i : Instr := .ixset e b md k p
  let m := activeMask e p s
  issue i m (fun s =>
    let ls := lanesOf s.g.width m
    let vals := ls.map fun l => (l, ixNew md.toNat (s.g.rdIx l k.toNat) (BitVec.ofNat 32 (opCount s.g (bOp e b) l)))
    finish i {} (s.modG fun G =>
      { G with ix := vals.foldl (fun m (x : Nat × Word) => kput m (4 * x.1 + k.toNat) x.2) G.ix })) s

/-- The issuing group's bank content. -/
def State.cc (s : State) : Cont := s.contOf s.cur.grp
/-- The identity of the issuing group's bank content. -/
def State.ccId (s : State) : Nat := (s.teamOf s.cur.grp).cont
/-- Key of byte 4i of parking row j (R115). -/
def rowKey (cid : Nat) (acc : Bool) (j l : Nat) : Nat := (if acc then accKey cid else operandKey cid) (256 * j + 4 * l)
/-- The cause of PARK and UNPARK for a row word and a count (R116, R117): PARK-ROW, TILE-BUSY, or none. -/
def parkCause (c : Cont) (r : Dword) (cnt : Nat) : Option Nat :=
  let acc := r.getLsbD 10
  let row := bf r 9 0
  let unit := if acc then 256 else 64
  if bf r 63 11 ≠ 0 || row / unit ≠ (row + cnt - 1) / unit then some 0x41
  else if (if acc then c.regionBusy (row / 256) else c.claimed (row / 64) || c.slotBusy (row / 64)) then some 0x44
  else none
/-- Writes a 32-bit value into four bytes of memory. -/
def memPut32 (m : Mem) (k : Nat) (x : Word) : Mem :=
  (List.range 4).foldl (fun m j => memSet m (k + j) (x.extractLsb' (8 * j) 8)) m
/-- PARK (R116). -/
def execPark (e : Pfx) (c : BitVec 4) (a d : BitVec 7) (p : BitVec 2) (s : State) : Out :=
  let i : Instr := .park e c a d p
  let m := activeMask e p s
  issue i m (fun s =>
    let r := rs s a.toNat
    match parkCause s.cc r (c.toNat + 1) with
    | some cause => trapNow i cause s.cur.mask 0 s
    | none =>
      let s := landFills s.ccId (256 * bf r 9 0) (256 * (bf r 9 0 + c.toNat + 1)) s
      let cells := (List.range (c.toNat + 1)).flatMap fun j => (lanesOf s.g.width m).map fun l =>
        (rowKey s.ccId (r.getLsbD 10) (bf r 9 0 + j) l, s.g.rdV l (d.toNat + j))
      finish i {} { s with mem := cells.foldl (fun m (x : Nat × Word) => memPut32 m x.1 x.2) s.mem }) s
/-- UNPARK: words from a marked operand sector are zero and marked (R116, R224, R272). -/
def execUnpark (e : Pfx) (c : BitVec 4) (a d : BitVec 7) (p : BitVec 2) (s : State) : Out :=
  let i : Instr := .unpark e c a d p
  let m := activeMask e p s
  issue i m (fun s =>
    let r := rs s a.toNat
    match parkCause s.cc r (c.toNat + 1) with
    | some cause => trapNow i cause s.cur.mask 0 s
    | none =>
      let s := landFills s.ccId (256 * bf r 9 0) (256 * (bf r 9 0 + c.toNat + 1)) s
      let words := (List.range (c.toNat + 1)).flatMap fun j => (lanesOf s.g.width m).map fun l =>
        let k := rowKey s.ccId (r.getLsbD 10) (bf r 9 0 + j) l
        let bad := secBad s k
        (l, d.toNat + j, (if bad = 0 then BitVec.ofNat 32 (memLe s.mem k 4) else 0#32 : Word), bad)
      let s := finish i { vws := words.map fun (x : Nat × Nat × Word × Nat) => (x.1, x.2.1, x.2.2.1) } s
      s.modG fun G => { G with pz := words.foldl (fun z (x : Nat × Nat × Word × Nat) =>
        if x.2.2.2 = 0 then z else kput z (vk x.1 x.2.1) x.2.2.2) G.pz }) s

/-- Entry k of the saved window image (R112, R114). -/
def savedEntry (G : Group) (k : Nat) : Option WinEntry :=
  match G.frame with | some f => f.win[k]? | none => none
/-- The word that WINRD copies into a lane (R114): of a vector entry, the lane's words in register order. -/
def winrdWord (G : Group) (k part l : Nat) : Word :=
  match savedEntry G k with
  | none => 0#32
  | some w =>
    if !w.wr then 0#32
    else if part = 4 then (if w.lanes.getLsbD l then 1#32 else 0#32)
    else if 2 ^ w.wd ≤ part then 0#32
    else if w.sc then (kget w.vals (sk w.reg part)).getD 0#32
    else ((((w.vals.filter fun (x : Nat × Word) => x.1 / 128 = l)[part]?).map Prod.snd)).getD 0#32
/-- WINRD (R114): an entry whose values have not arrived is waited for. -/
def execWinrd (e : Pfx) (b : BitVec 7) (k : BitVec 3) (d : BitVec 7) (p : BitVec 2) (s : State) : Out :=
  let i : Instr := .winrd e b k d p
  let s := match savedEntry s.g k.toNat with
    | some w => if w.late = 0 then s else landLoad s.cur.grp w.late s
    | none => s
  vecOp i e p d 1 (fun G l => ((winrdWord G k.toNat b.toNat l).toNat, 0#6)) s

end Sys2Proof.Machine
end

