-- ==== Sys2Proof/Machine/Matrix.lean ====
section
/-! DEFINITION. Sys2Proof/Machine/Matrix.lean: configuring, claiming and filling operand memory (R265 to R273). -/

namespace Sys2Proof.Machine
open Sys2Proof

/-- Writes the bank content of the issuing group. -/
def State.modCC (s : State) (f : Cont → Cont) : State := s.modCont s.ccId f

/-- TCFG (R267). -/
def execTcfg (e : Pfx) (a : BitVec 7) (s : State) : Out :=
  let i : Instr := .tcfg e a
  let x := rs s a.toNat
  .next (if s.cc.claims ≠ 0#16 || (List.range 4).any s.cc.regionBusy then trapNow i 0x44 s.cur.mask 0 s
    else finish i {} (s.modCC fun c => { c with mcfg := BitVec.ofNat 64 (bf x 25 16 * 2 ^ 16 + bf x 3 0) }))

/-- Claims slots and zeroes them (R267). -/
def claimSlots (got : Nat) (s : State) : State :=
  let cid := s.ccId
  let s := s.modCC fun c => { c with claims := c.claims ||| BitVec.ofNat 16 got }
  ((List.range 16).filter fun k => got / 2 ^ k % 2 = 1).foldl (fun s k => zeroSlot cid k s) s
/-- The results of a claim: s(d) and CC (R267). -/
def claimRes (d : BitVec 7) (got : Nat) : Res :=
  { sws := [(d.toNat, BitVec.ofNat 64 got)], cc := some (ccOf false (got = 0) false false) }
/-- TCLAIM (R267). -/
def execTclaim (e : Pfx) (a d : BitVec 7) (s : State) : Out :=
  let i : Instr := .tclaim e a d
  let want := bf (rs s a.toNat) 15 0
  let got := if (BitVec.ofNat 16 want &&& s.cc.claims) = 0#16 then want else 0
  .next (finish i (claimRes d got) (claimSlots got s))
/-- TCLAIM.ANY (R267). -/
def execTclaimAny (e : Pfx) (n d : BitVec 7) (s : State) : Out :=
  let i : Instr := .tclaimAny e n d
  let free := ((List.range 16).filter fun k => !s.cc.claimed k).take n.toNat
  let got := if free.length = n.toNat then free.foldl (fun m k => m + 2 ^ k) 0 else 0
  .next (finish i (claimRes d got) (claimSlots got s))
/-- A TFILL of the bank that has issued has still to read the bytes of [lo, hi) of operand memory (R270). -/
def fillOpen (s : State) (cid lo hi : Nat) : Bool :=
  (s.groupsOf cid).any fun g => (s.grp g).pend.any fun (e : Nat × Pend) =>
    !e.2.made && e.2.om.any fun (b : Nat × Byte × Nat) => decide (lo ≤ b.1) && decide (b.1 < hi)
/-- The slots of a mask. -/
def slotList (m : Nat) : List Nat := (List.range 16).filter fun k => m / 2 ^ k % 2 = 1
/-- A slot cannot be released yet: an operation references it, or a TFILL has still to write it (R267, R270). -/
def relBusy (s : State) (k : Nat) : Bool := s.cc.slotBusy k || fillOpen s s.ccId (16384 * k) (16384 * (k + 1))
/-- TREL: it takes its place in the bank order when no operation references the slots (R267, R270; log entry 132). -/
def execTrel (e : Pfx) (a : BitVec 7) (s : State) : Out :=
  let i : Instr := .trel e a
  let m := bf (rs s a.toNat) 15 0
  let cid := s.ccId
  .next (if (slotList m).any fun k => !s.cc.claimed k then trapNow i 0x45 s.cur.mask 0 s
    else if (slotList m).any (relBusy s) then s
    else
      let s := (slotList m).foldl (fun s k => landFills cid (16384 * k) (16384 * (k + 1)) s) s
      finish i {} (s.modCC fun c => { c with claims := c.claims &&& ~~~(BitVec.ofNat 16 m) }))
/-- The array runs an operation of the core's other bank (R268). -/
def otherRuns (s : State) : Bool :=
  match s.cc.at? with
  | none => false
  | some (k, b) =>
    let o := if b = 0 then (s.core k).b1 else (s.core k).b0
    o.st ≠ .empty && (s.cont o.cont).mq.any fun (e : Nat × MOp) => e.2.stage = .products || e.2.stage = .convert
/-- TSTATR (R267, R268). -/
def execTstatr (e : Pfx) (sl d : BitVec 7) (s : State) : Out :=
  issueS (.tstatr e sl d) (fun s =>
    { sws := [(d.toNat, match sl.toNat with
        | 0 => s.cc.mcfg | 1 => s.cc.tstat | _ => s.cc.mqstat (otherRuns s))] }) s

/-- Bytes of operand or accumulator storage that lanes name: OFF + lane × n (R271, R273). -/
def rowOffs (off n : Nat) (ls : List Nat) : List Nat := ls.map fun l => off + l * n
/-- The checks of OFF (R271, R273): a cause and TVA. `busy`: the test on a byte's slot or region with its cause. -/
def offCause (w n : Nat) (off : Dword) (ls : List Nat) (bad : Nat → Bool) (cause : Nat) : Option (Nat × Dword) :=
  if bf off 63 18 ≠ 0 || decide (262144 < off.toNat + w * n) then some (0x42, BitVec.ofNat 64 (off.toNat % 2 ^ 57))
  else if off.toNat % n ≠ 0 then some (0x43, 0#64)
  else if (rowOffs off.toNat n ls).any bad then some (cause, 0#64)
  else none

/-- The completing lanes of a TFILL are sent; the operand bytes that it will write are known (R271, R272). -/
def fillSend (i : Instr) (q : MemReq) (off op : Nat) (pass : List (LaneAcc × LaneR)) (s : State) : State :=
  let core := s.coreOf s.cur.grp
  let c := s.contOf s.cur.grp
  let K := s.core core
  if pass.isEmpty then finish i {} (s.modG (enterDone 0))
  else
    let need := entryPieces K c.asid (allPieces pass)
    let s := if q.sp = 0 then s.modG (watchAcc (watchNow s) 1 q.n (pass.map Prod.fst)) else s
    let used := coreSectors s core
    let taken := ((need.map fun x => pkey c.d c.p x.pa / 32).eraseDups.filter fun k => !used.contains k).length
    let s := (s.perf core 0x07 (sectorCount c.d c.p (allPieces pass) - sectorCount c.d c.p need)).perf core 0x08 taken
    let om := pass.flatMap fun (x : LaneAcc × LaneR) => (List.range q.n).map fun j => (off + x.1.lane * q.n + j, 0#8, 0)
    openLoad i op 0 [] (missFills true K c.d c.p need) om pass s

/-- Operand bytes cannot be written yet: an operation pushed before references their slot, or a TFILL that issued before has
still to write one of them (R270). -/
def rowBusy (s : State) (n : Nat) (offs : List Nat) : Bool :=
  offs.any fun a => s.cc.slotBusy (a / 16384) || fillOpen s s.ccId a (a + n)
/-- TFILLs that issued before and write some of the bytes land first (R270). -/
def landRows (n : Nat) (offs : List Nat) (s : State) : State :=
  let cid := s.ccId
  offs.foldl (fun s a => landFills cid a (a + n) s) s
/-- TFILL (R271): it issues when its operand bytes can be written (R270; log entry 132). -/
def execTfill (e : Pfx) (x : BitVec 1) (o : BitVec 7) (a d : BitVec 6) (p : BitVec 2) (s : State) : Out :=
  let i : Instr := .tfill e x o a d p
  let n := tyBytes (effTy i)
  let m := activeMask e p s
  memIssue i m (tfillReq e x o a d p) (fun q s =>
    let off : Dword := match q.acc with | y :: _ => BitVec.ofNat 64 y.x | [] => rs s d.toNat
    let ls := q.acc.map LaneAcc.lane
    match if (waiting s).isSome then none
      else offCause s.g.width n off ls (fun b => !s.cc.claimed (b / 16384)) 0x45 with
    | some c => trapNow i c.1 m c.2 s
    | none =>
      if rowBusy s n (rowOffs off.toNat n ls) then s
      else
        let s := landRows n (rowOffs off.toNat n ls) s
        settleGroup s.cur.grp (memBody i q 0 loadReady (fun op => fillSend i q off.toNat op) s)) s

/-- Writes operand bytes: whole sectors lose their marks (R272). -/
def putOperand (cid : Nat) (cells : List (Nat × Byte)) (s : State) : State :=
  { s with
    mem := cells.foldl (fun m (c : Nat × Byte) => memSet m (operandKey cid c.1) c.2) s.mem
    psn := clearWhole (cells.map fun (c : Nat × Byte) => operandKey cid c.1) s.psn }

/-- TROW (R273): .OM issues when its operand bytes can be written (R270; log entry 132). -/
def execTrow (e : Pfx) (f : NForm) (s : State) : Out :=
  let i : Instr := .trow e f
  let t := effTy i
  let n := tyBytes t
  let m := activeMask e f.p s
  issue i m (fun s =>
    let ls := lanesOf s.g.width m
    let off := rs s f.a.toNat
    let offs := rowOffs off.toNat n ls
    if e.xo = 0 then
      match offCause s.g.width n off ls (fun b => !s.cc.claimed (b / 16384)) 0x45 with
      | some c => trapNow i c.1 m c.2 s
      | none =>
        if rowBusy s n offs then s
        else
          let cells := ls.flatMap fun l => (List.range n).map fun j =>
            (off.toNat + l * n + j, byteOf (s.g.rdWords l f.b.toNat (tyWords t)) j)
          finish i {} (putOperand s.ccId cells (landRows n offs s))
    else
      match offCause s.g.width n off ls (fun b => s.cc.regionBusy (b / 65536)) 0x44 with
      | some c => trapNow i c.1 m c.2 s
      | none =>
        let word (l : Nat) : Nat := memLe s.mem (accKey s.ccId (off.toNat + l * n)) n
        finish i { vws := ls.flatMap fun l => wordsAt l f.d.toNat (word l) (n / 4) } s) s

/-- Operand bytes at OFF that pass their checks cannot be written yet (R270, R271). -/
def rowWaits (t : Nat) (off : Dword) (m : Dword) (s : State) : Bool :=
  let n := tyBytes t
  let ls := lanesOf s.g.width m
  offCause s.g.width n off ls (fun b => !s.cc.claimed (b / 16384)) 0x45 = none && rowBusy s n (rowOffs off.toNat n ls)
/-- The instruction must wait for its place in the bank order, so that it does not issue yet (R267, R270; log entry 132). -/
def bankWaits (i : Instr) (s : State) : Bool :=
  match i with
  | .trel _ a =>
    let ks := slotList (bf (rs s a.toNat) 15 0)
    ks.all s.cc.claimed && ks.any (relBusy s)
  | .tfill e _ _ _ d p => rowWaits (effTy i) (rs s d.toNat) (activeMask e p s) s
  | .trow e f => e.xo = 0 && rowWaits (effTy i) (rs s f.a.toNat) (activeMask e f.p s) s
  | _ => false

end Sys2Proof.Machine
end

