-- ==== Sys2Proof/Machine/Waits.lean ====
section
/-! DEFINITION. Sys2Proof/Machine/Waits.lean: sub-groups that wait in an instruction (R18, R20), the events that end a wait, and
barrier objects (R356 to R362). -/

namespace Sys2Proof.Machine
open Sys2Proof

/-! ### Running for a sub-group that waits -/

/-- The lanes that wait in blocked instruction b. -/
def Group.blkLanes (G : Group) (b : Nat) : Dword :=
  maskOf ((G.lanes.filter fun (l : Nat × Lane) => l.2.blk = b).map Prod.fst)
/-- The sub-group that waits in block b of group g, as the one that issues. -/
def atBlock (g b : Nat) (s : State) : State :=
  match kget (s.grp g).blocks b with
  | none => s
  | some x => { s with cur := ⟨g, (s.grp g).blkLanes b, x.pc, x.len⟩ }
/-- Runs the sub-group that waits in block b of group g. -/
def runBlock (g b : Nat) (f : State → State) (s : State) : State :=
  match kget (s.grp g).blocks b with
  | none => s
  | some _ => { f (atBlock g b s) with cur := s.cur }
/-- The blocked instructions of a group for which a test holds. -/
def Group.blocksOf (G : Group) (f : Block → Bool) : List Nat :=
  (G.blocks.filter fun (b : Nat × Block) => f b.2).map Prod.fst
/-- The sub-groups of a group that sleep. -/
def isSleep (b : Block) : Bool := match b.instr with | .sleep _ _ => true | _ => false
/-- A blocked instruction completes without a result. -/
def endBlock (g b : Nat) (s : State) : State :=
  match kget (s.grp g).blocks b with
  | none => s
  | some x => runBlock g b (finish x.instr {}) s
/-- Every sleeping sub-group of a group wakes (R195); in a bank that is not active it does so when the bank is active again
(R383). -/
def wakeGroup (g : Nat) (s : State) : State :=
  if atBoundary s g then ((s.grp g).blocksOf isSleep).foldl (fun s b => endBlock g b s) s
  else s.modGrp g fun G => { G with blocks := G.blocks.map fun (b : Nat × Block) =>
    (b.1, if isSleep b.2 then { b.2 with data := [(b.2.data[0]?).getD 0, 0] } else b.2) }
/-- Every sleeping sub-group of a team wakes (R195). -/
def wakeTeam (t : Nat) (s : State) : State := (s.team t).groups.foldl (fun s g => wakeGroup g s) s

/-! ### Results for a group -/

/-- Entries enter a pop queue of a group as one run; they leave `rsv` reservations, and wake sleepers (R294, R298,
R195). -/
def pushResult (g k rsv : Nat) (es : List QEntry) (s : State) : State :=
  if (kget s.groups g).isNone then s
  else
    let s := s.modGrp g fun G =>
      let G : Group := { G with res := kput G.res k ((kget G.res k).getD 0 - rsv) }
      match k with
      | 1 => { G with q1 := G.q1 ++ es }
      | 3 => { G with q3 := G.q3 ++ es }
      | _ => { G with q5 := G.q5 ++ es }
    if es.isEmpty then s else wakeGroup g s

/-! ### Barrier objects -/

/-- Barrier objects that a team owns (R356). -/
def State.barCount (s : State) (t : Nat) : Nat := (s.launch (s.team t).launch).desc.bo
/-- A barrier object of a team; placement sets it to the team's lanes (R358). -/
def Team.bar (t : Team) (k : Nat) : Bar := (kget t.bars k).getD ⟨0, 0, 0, 0, 0, 0, false, false⟩
/-- One completed phase (R359). -/
def Bar.turn (b : Bar) : Bar :=
  { b with
    ca := b.ca - b.at_.zeroExtend 32
    cb := b.cb - b.bt.zeroExtend 56
    bt := b.bt0
    phase := b.phase + 1 }
/-- The current phase is complete (R357, R359). -/
def Bar.full (b : Bar) : Bool :=
  !b.sat && !b.err && (decide (b.at_ ≠ 0) || decide (b.bt ≠ 0)) && decide (b.at_.toNat ≤ b.ca.toNat)
    && decide (b.bt.toNat ≤ b.cb.toNat)
/-- The completion loop (R359); `fuel` bounds the phases: each takes an arrival or a byte. -/
def Bar.settle (b : Bar) : Nat → Bar
  | 0 => b
  | n + 1 => if b.full then b.turn.settle n else b
/-- Phases that the counts can complete at once: the completions end when AT arrivals or BT bytes are spent, and a
phase whose new target is lower ends with the counts. -/
def Bar.phases (b : Bar) : Nat :=
  1 + (if b.at_ ≠ 0 then b.ca.toNat / b.at_.toNat else if b.bt0 ≠ 0 then b.cb.toNat / b.bt0.toNat else 1)
/-- The object after an update (R359). -/
def Bar.upd (b : Bar) : Bar := b.settle b.phases
/-- Arrivals are added; a clip saturates the object (R357). -/
def Bar.arrive (b : Bar) (n : Nat) : Bar :=
  let v := b.ca.toNat + n
  { b with ca := BitVec.ofNat 32 (min v (2 ^ 32 - 1)), sat := b.sat || decide (2 ^ 32 - 1 < v) }
/-- Bytes are credited; a clip saturates the object (R357). -/
def Bar.credit (b : Bar) (n : Nat) : Bar :=
  let v := b.cb.toNat + n
  { b with cb := BitVec.ofNat 56 (min v (2 ^ 56 - 1)), sat := b.sat || decide (2 ^ 56 - 1 < v) }
/-- done(n): the phase has reached n (R360). -/
def Bar.done (b : Bar) (n : Nat) : Bool := decide ((b.phase - BitVec.ofNat 32 n).toNat < 2 ^ 31)

/-- The object and phase that a blocked BARWAIT waits for. -/
def barWaits (k : Nat) (bar : Bar) (b : Block) : Bool :=
  match b.instr with
  | .barwait _ _ d => d.toNat = k && bar.done ((b.data[0]?).getD 0)
  | _ => false
/-- A blocked BARWAIT completes as an acquire at .DEV (R259, R360). -/
def endBarwait (g b : Nat) (s : State) : State := endBlock g b (acquire (s.coreOf g) 3 s)
/-- One update of a barrier object: phases complete, waiters are released, sleepers wake (R359, R361, R195). A waiter in a
bank that is not active looks again when it is (R383). -/
def barUpdate (t k : Nat) (f : Bar → Bar) (s : State) : State :=
  let b0 := f ((s.team t).bar k)
  let b := b0.upd
  let s := s.modTeam t fun T => { T with bars := kput T.bars k b }
  let s := ((s.team t).groups.filter (atBoundary s)).foldl (fun s g =>
    ((s.grp g).blocksOf (barWaits k b)).foldl (fun s x => endBarwait g x s) s) s
  if b.phase ≠ b0.phase then wakeTeam t s else s
/-- A byte credit applies; one to an index beyond the team's objects is discarded and counted (R356, R363). -/
def creditBar (t k n : Nat) (s : State) : State :=
  if k < s.barCount t then barUpdate t k (·.credit n) s
  else
    match (s.cont (s.team t).cont).at? with
    | some (c, b) => s.perfIn c b 0x0D 1
    | none => s

/-! ### Acquires of a WAIT -/

/-- Counters of the group that a WAIT with these thresholds covers: (class, threshold). -/
def waitThr (t n s l : BitVec 5) : List (Nat × Nat) := [(0, l.toNat), (1, s.toNat), (2, n.toNat), (3, t.toNat)]
/-- The thresholds are reached (R354). `iss`: ISS of each class at the WAIT's issue. -/
def waitMet (G : Group) (iss : List Nat) (thr : List (Nat × Nat)) : Bool :=
  thr.all fun (x : Nat × Nat) =>
    decide (((G.ocOf x.1).ret - BitVec.ofNat 32 ((iss[x.1]?).getD 0) + BitVec.ofNat 32 x.2).toNat < 2 ^ 31)
/-- An operation entered before the youngest N(k) of a class (R354). -/
def coversOp (iss thr op : Nat) : Bool :=
  decide ((BitVec.ofNat 32 iss - BitVec.ofNat 32 thr - BitVec.ofNat 32 op - 1#32 : Word).toNat < 2 ^ 31)
/-- The widest scope of the covered operations (R247, R258). -/
def waitScope (G : Group) (iss : List Nat) (thr : List (Nat × Nat)) : Nat :=
  thr.foldl (fun m (x : Nat × Nat) =>
    (G.ocOf x.1).scp.foldl (fun m (e : Nat × Nat) => if coversOp ((iss[x.1]?).getD 0) x.2 e.1 then max m e.2 else m)
      (max m (G.ocOf x.1).top)) 0

end Sys2Proof.Machine
end

