-- ==== Sys2Proof/Machine/Queue.lean ====
section
/-! DEFINITION. Sys2Proof/Machine/Queue.lean: the queue instructions (R286 to R295). -/

namespace Sys2Proof.Machine
open Sys2Proof

/-- Capacity of a queue in entries (R286). -/
def qCap (k : Nat) : Nat :=
  match k with | 0 => 32 | 1 => 32 | 2 => 16 | 3 => 64 | 4 => 8 | 5 => 16 | 6 => 4 | 7 => 8 | _ => 64
/-- Result queue of a push queue and the reservation of one push (R286). -/
def qResult (k : Nat) : Option (Nat × Nat) :=
  match k with | 0 => some (1, 1) | 2 | 6 => some (3, 2) | 4 => some (5, 2) | _ => none
/-- The outstanding-operation counter that a push enters (R352). -/
def qCounter (k : Nat) : Option Nat := match k with | 0 => some 3 | 2 | 4 | 6 => some 2 | _ => none

/-- Operations of a bank whose blocks have not been read (R274, R293). -/
def Cont.unread (c : Cont) : Nat := (c.mq.filter fun (e : Nat × MOp) => e.2.stage = .pushed).length
/-- A pop queue of a group, or a queue of its team (R286). -/
def popQ (s : State) (g k : Nat) : List QEntry :=
  let G := s.grp g
  match k with
  | 1 => G.q1
  | 3 => G.q3
  | 5 => G.q5
  | _ => (kget (s.teamOf g).tq k).getD []
/-- Writes back a pop queue. -/
def putQ (g k : Nat) (es : List QEntry) (s : State) : State :=
  match k with
  | 1 => s.modGrp g fun G => { G with q1 := es }
  | 3 => s.modGrp g fun G => { G with q3 := es }
  | 5 => s.modGrp g fun G => { G with q5 := es }
  | _ => s.modTeam (s.grp g).team fun T => { T with tq := kput T.tq k es }
/-- Entries of a queue: present in a pop queue, unread in a push queue (R286, R293). -/
def qCount (s : State) (g k : Nat) : Nat :=
  let G := s.grp g
  match k with
  | 0 => (s.contOf g).unread
  | 2 => G.q2.length
  | 4 => G.q4.length
  | 6 => G.q6.length
  | 7 => G.q7.length
  | k => (popQ s g k).length
/-- Permits of a link that are lost (R366). -/
def qLost (s : State) (g k : Nat) : Nat :=
  if 8 ≤ k then (kget (s.teamOf g).tlost k).getD 0 else (kget (s.grp g).lost k).getD 0
/-- Reservations in a result queue (R286). -/
def qRsv (s : State) (g k : Nat) : Nat := (kget (s.grp g).res k).getD 0
/-- The largest run that a push would append now (R289, R293, R294). -/
def qRoom (s : State) (g k : Nat) : Nat :=
  let own := qCap k - qCount s g k - qLost s g k
  match qResult k with
  | some (r, per) => min own ((qCap r - qCount s g r - qRsv s g r - qLost s g r) / per)
  | none => own

/-! ### QPUSH -/

/-- A matrix operation as its push makes it (R274). -/
def newMOp (g op : Nat) (val : Dword) : MOp :=
  { grp := g, op := op, val := val, stage := .pushed, blk := [], status := 0, flags := 0, core := 0, dst := [],
    landed := 0, mark := 0, quiet := false }

/-- A value is appended to its queue with its reservation and the watchpoints at its push; `op`: its place in the counter
(R289, R311, R182). -/
def appendOne (ws : KV Dword) (g k : Nat) (x : Nat × Dword) (s : State) : State :=
  let s := match qResult k with
    | some (r, per) => s.modGrp g fun G => { G with res := kput G.res r ((kget G.res r).getD 0 + per) }
    | none => s
  let p : Push := ⟨x.2, x.1, (List.range 4).map fun i => rget ws i, 0⟩
  match k with
  | 0 => (s.modCont (s.teamOf g).cont fun c => { c with mq := kput c.mq s.uid (newMOp g x.1 x.2) }).fresh
  | 2 => s.modGrp g fun G => { G with q2 := G.q2 ++ [p] }
  | 4 => s.modGrp g fun G => { G with q4 := G.q4 ++ [p] }
  | 6 => s.modGrp g fun G => { G with q6 := G.q6 ++ [p] }
  | 7 => s.modGrp g fun G => { G with q7 := G.q7 ++ [⟨x.2, 0, 0⟩] }
  | k => putQ g k (popQ s g k ++ [⟨x.2, 0, 0⟩]) s

/-- A run is appended as one unit; a push to a team queue wakes the team's sleepers (R289, R295, R195). -/
def appendRun (ws : KV Dword) (g k op : Nat) (run : List Dword) (s : State) : State :=
  let s := ((List.range run.length).map (fun i => (op + i) % 2 ^ 32) |>.zip run).foldl (fun s x => appendOne ws g k x s) s
  if 8 ≤ k && !run.isEmpty then wakeTeam (s.grp g).team s else s

/-- An older blocked push of the group to the same queue (R295). -/
def olderPush (s : State) (g k me : Nat) : Bool :=
  (s.grp g).blocks.any fun (b : Nat × Block) => decide (b.1 < me) &&
    match b.2.instr with | .qpush _ f => f.d.toNat = k | _ => false

/-- The operations of a push enter their counter at its issue, when the counter has room (R352, R353). `ent`: 0 when they
have not entered, else their first number plus 1. -/
def pushEnter (g k n ent : Nat) (s : State) : Nat × State :=
  match qCounter k with
  | none => (1, s)
  | some c =>
    let C := (s.grp g).ocOf c
    if ent ≠ 0 then (ent, s)
    else if 255 < C.value + n then (0, s)
    else (C.iss.toNat + 1, s.modGrp g fun G => G.enterOp c n)

/-- The largest run that QPUSH would append now without blocking (R293): none behind a blocked push of the group to the
queue (R295), and no more than the counter has room for (R353). -/
def qFree (s : State) (g k : Nat) : Nat :=
  if olderPush s g k s.uid then 0
  else match qCounter k with
    | some c => min (qRoom s g k) (255 - ((s.grp g).ocOf c).value)
    | none => qRoom s g k

/-- The course of a push whose operands are read (R289). -/
def pushBody (i : Instr) (k ent : Nat) (run : List Dword) (s : State) : State :=
  let g := s.cur.grp
  let r := pushEnter g k run.length ent s
  let me := match waiting s with | some (b, _) => b | none => s.uid
  if run.isEmpty then finish i {} s
  else if r.1 = 0 || decide (qRoom r.2 g k < run.length) || olderPush s g k me then
    let t := stall i (r.1 :: run.map BitVec.toNat) r.2
    match waiting s with
    | some (b, _) => t.modG fun G => { G with blocks := kmod G.blocks b fun (x : Block) =>
        { x with data := r.1 :: run.map BitVec.toNat } }
    | none => t
  else finish i {} (appendRun (watchNow s) g k (r.1 - 1) run r.2)

/-- QPUSH (R289). -/
def execQpush (e : Pfx) (f : NForm) (s : State) : Out :=
  let i : Instr := .qpush e f
  let m := activeMask e f.p s
  let k := f.d.toNat
  match waiting s with
  | some (_, b) => .next (pushBody i k ((b.data[0]?).getD 0) ((b.data.drop 1).map (BitVec.ofNat 64)) s)
  | none =>
    issue i m (fun s =>
      let run : List Dword :=
        if f.a = 0#7 then (lanesOf s.g.width m).map fun l => BitVec.ofNat 64 (s.g.rdWords l f.b.toNat (tyWords (effTy i)))
        else if m = 0#64 then [] else [rs s f.b.toNat]
      if qCap k < run.length then trapNow i 0x46 m (BitVec.ofNat 64 run.length) s
      else pushBody i k 0 run s) s

/-! ### QPOP and QTRY -/

/-- The results of popped entries: unmarked ones go to their lanes, or to s(d) (R290, R292). -/
def popRes (scalar : Bool) (ls : List Nat) (d n : Nat) (es : List QEntry) : Res :=
  let good := (ls.zip es).filter fun (x : Nat × QEntry) => x.2.mark = 0
  if scalar then { sws := good.map fun (x : Nat × QEntry) => (d, x.2.val) }
  else { vws := good.flatMap fun (x : Nat × QEntry) => wordsAt x.1 d x.2.val.toNat n }

/-- Entries are taken; marked ones trap after the others are written (R292). `cc`: QTRY's condition code. -/
def takeRun (i : Instr) (f : NForm) (k : Nat) (ls : List Nat) (m : Nat) (cc : Option (BitVec 4)) (s : State) : State :=
  let g := s.cur.grp
  let q := popQ s g k
  let es := q.take m
  let s := putQ g k (q.drop m) s
  let scalar := f.a ≠ 0#7
  let r : Res := { popRes scalar ls f.d.toNat (tyWords (effTy i)) es with cc := cc }
  let bad := (ls.zip es).filter fun (x : Nat × QEntry) => x.2.mark ≠ 0
  match bad with
  | [] => finish i r s
  | h :: t =>
    let why := t.foldl (fun w (x : Nat × QEntry) => min w x.2.mark) h.2.mark
    let va := ((bad.find? fun (x : Nat × QEntry) => x.2.mark = why).map fun (x : Nat × QEntry) => x.2.va).getD 0#64
    let w := waiting s
    let gone : Bool := match w with | some (_, b) => decide (b.sdst = 0) | none => false
    let copy := s.cid
    let s := s.modG fun G => unCount w (writeRes false copy { r with sws := if gone then [] else r.sws } G)
    trapNext (poisonCause why) (maskOf (bad.map Prod.fst)) va (destDesc i) s

/-- The lanes that take entries: the selected ones, or the lowest for a scalar (R290, R292). -/
def popLanes (w : Nat) (scalar : Bool) (m : Dword) : List Nat :=
  if scalar then (lanesOf w m).take 1 else lanesOf w m

/-- QPOP (R290). -/
def execQpop (e : Pfx) (f : NForm) (s : State) : Out :=
  let i : Instr := .qpop e f
  let k := f.b.toNat
  let m : Dword := match waiting s with
    | some (_, b) => BitVec.ofNat 64 ((b.data[0]?).getD 0) | none => activeMask e f.p s
  let ls := popLanes s.g.width (f.a ≠ 0#7) m
  .next (if qCap k < ls.length then trapNow i 0x46 m (BitVec.ofNat 64 ls.length) s
    else if (popQ s s.cur.grp k).length < ls.length then stall i [m.toNat] s
    else takeRun i f k ls ls.length none s)

/-- QTRY (R291). -/
def execQtry (e : Pfx) (f : NForm) (s : State) : Out :=
  let i : Instr := .qtry e f
  let k := f.b.toNat
  let ls := popLanes s.g.width (f.a ≠ 0#7) (activeMask e f.p s)
  let n := ls.length
  let m := min n (popQ s s.cur.grp k).length
  .next (takeRun i f k ls m (some (ccOf false (m = 0) (m = n) false)) s)

/-- QSTAT (R293). -/
def execQstat (e : Pfx) (b d : BitVec 7) (s : State) : Out :=
  issueS (.qstat e b d) (fun s =>
    let g := s.cur.grp
    let k := b.toNat
    let pop := k = 1 || k = 3 || k = 5
    let rsv := if pop then qRsv s g k else 0
    let room := if pop then 0 else qFree s g k
    { sws := [(d.toNat, BitVec.ofNat 64
        (qCap k * 2 ^ 32 + rsv % 256 * 2 ^ 16 + room % 256 * 2 ^ 8 + qCount s g k % 256))] }) s

/-! ### The events that end a wait in a queue instruction -/

/-- Block b of group g is a push that can be accepted now (R289); its bank is active (R383). -/
def roomFreed (g b : Nat) (s : State) : Bool :=
  match kget (s.grp g).blocks b with
  | some x =>
    match x.instr with
    | .qpush _ f =>
      let k := f.d.toNat
      let n := x.data.length - 1
      let r := pushEnter g k n ((x.data[0]?).getD 0) s
      atBoundary s g && r.1 ≠ 0 && decide (n ≤ qRoom r.2 g k) && !olderPush s g k b
    | _ => false
  | none => false
/-- Runs a blocked queue instruction again. -/
def againQueue (i : Instr) (s : State) : State :=
  match i with
  | .qpush e f => match execQpush e f s with | .next t => t | _ => s
  | .qpop e f => match execQpop e f s with | .next t => t | _ => s
  | _ => s
/-- The instruction that block b of group g holds. -/
def blockInstr (g b : Nat) (s : State) : Instr :=
  match kget (s.grp g).blocks b with | some x => x.instr | none => .nop ⟨none, none⟩
/-- QUEUE_ROOM_FREED (R289). -/
def execQueueRoomFreed (g b : Nat) (s : State) : Out :=
  guardEv "QUEUE_ROOM_FREED" (roomFreed g b s) (runBlock g b (againQueue (blockInstr g b s)) s)
/-- Block b of group g is a QPOP whose entries are present (R290); its bank is active (R383). In handler mode marked entries
wait for RETT, unless the handler itself pops them (R387). -/
def entriesThere (g b : Nat) (s : State) : Bool :=
  match kget (s.grp g).blocks b with
  | some x =>
    match x.instr with
    | .qpop _ f =>
      let m : Dword := BitVec.ofNat 64 ((x.data[0]?).getD 0)
      let n := (popLanes (s.grp g).width (f.a ≠ 0#7) m).length
      let marked : Bool := ((popQ s g f.b.toNat).take n).any fun e => e.mark ≠ 0
      atBoundary s g && decide (n ≤ (popQ s g f.b.toNat).length) && match (s.grp g).frame with
        | some y => !marked || x.mask &&& y.sub ≠ 0#64
        | none => true
    | _ => false
  | none => false
/-- QUEUE_ENTRIES_ARRIVE (R290). -/
def execQueueEntriesArrive (g b : Nat) (s : State) : Out :=
  guardEv "QUEUE_ENTRIES_ARRIVE" (entriesThere g b s) (runBlock g b (againQueue (blockInstr g b s)) s)

end Sys2Proof.Machine
end

