-- ==== Sys2Proof/Machine/Barrier.lean ====
section
/-! DEFINITION. Sys2Proof/Machine/Barrier.lean: WAIT and its reports (R354, R355), the barrier instructions (R360), the grid
barrier (R364), EXIT (R181) and SLEEP (R195). -/

namespace Sys2Proof.Machine
open Sys2Proof

/-! ### WAIT -/

/-- The place in issue order of an operation relative to ISS: the larger, the older. -/
def opAge (iss op : Nat) : Nat := (BitVec.ofNat 32 iss - BitVec.ofNat 32 op : Word).toNat
/-- Among reports, those with the lowest cause, and the address of the first of the oldest (R226, R394). -/
def firstReport (iss : Nat) (rs : List FailRep) : Option (BitVec 8 × Dword) :=
  match rs with
  | [] => none
  | r :: t =>
    let c := t.foldl (fun (m : BitVec 8) (x : FailRep) => if x.cause < m then x.cause else m) r.cause
    let hit := rs.filter fun (x : FailRep) => x.cause = c
    let age := hit.foldl (fun m (x : FailRep) => max m (opAge iss x.op)) 0
    let old := hit.filter fun (x : FailRep) => opAge iss x.op = age
    some (c, BitVec.ofNat 64 (old.foldl (fun m (x : FailRep) => min m x.va.toNat) (2 ^ 57 - 1)))

/-- A report that a WAIT delivers: failed writes first, then copy watches (R355, R387). -/
def waitReport (G : Group) (iss : List Nat) (thr : List (Nat × Nat)) : Option (Bool × BitVec 8 × Dword) :=
  let at_ (k : Nat) : Nat := (iss[k]?).getD 0
  let th (k : Nat) : Nat := (kget thr k).getD 0
  match firstReport (at_ 1) (G.fails.filter fun (x : FailRep) => coversOp (at_ 1) (th 1) x.op) with
  | some r => some (true, r.1, r.2)
  | none => (firstReport (at_ 2) (G.cwatch.filter fun (x : FailRep) => coversOp (at_ 2) (th 2) x.op)).map
      fun (r : BitVec 8 × Dword) => (false, r.1, r.2)

/-- A WAIT whose thresholds are reached delivers a report, or completes as an acquire (R354, R355). In handler mode a report
waits until RETT (R386, R387). -/
def waitDone (i : Instr) (iss : List Nat) (thr : List (Nat × Nat)) (s : State) : State :=
  match if s.g.frame.isSome then none else waitReport s.g iss thr with
  | some (fl, c, va) =>
    let w := waiting s
    let k := if fl then 1 else 2
    let keep (x : FailRep) : Bool :=
      x.cause ≠ c || !coversOp ((iss[k]?).getD 0) ((kget thr k).getD 0) x.op
    let s := s.modG fun G => unCount w (if fl then { G with fails := G.fails.filter keep }
      else { G with cwatch := G.cwatch.filter keep })
    takeTrap s.cur.grp
      { cause := c, tlanes := s.cur.mask, tva := va, treta := s.cur.pc, tdest := 0, sub := s.cur.mask,
        next := s.nextPc, decoded := true, retire := false } s
  | none => finish i {} (acquire (s.coreOf s.cur.grp) (waitScope s.g iss thr) s)

/-- WAIT (R354). -/
def execWait (e : Pfx) (t n sc l : BitVec 5) (s : State) : Out :=
  let i : Instr := .wait e t n sc l
  let thr := waitThr t n sc l
  let iss := match waiting s with
    | some (_, b) => b.data | none => (List.range 4).map fun k => (s.g.ocOf k).iss.toNat
  .next (if waitMet s.g iss thr then waitDone i iss thr s else stall i iss s)

/-- A trap that is due at the group's boundary goes before a report (R387): a woken record, a lost permit, or a watch match
of no higher code, before a copy watch. -/
def boundaryFirst (G : Group) (r : Bool × BitVec 8 × Dword) : Bool :=
  !r.1 && ((G.recs.any fun (x : Nat × Rec) => x.2.woken) || !G.lostRep.isEmpty
    || G.watchRep.any fun (x : Nat × Dword × Dword) => decide (0x90 + x.1 ≤ r.2.1.toNat))
/-- Block b of group g is a WAIT whose thresholds are reached, in an active bank (R383), and whose report, if it has one,
may be delivered now (R387). -/
def waitReady (g b : Nat) (s : State) : Bool :=
  let G := s.grp g
  match kget G.blocks b with
  | some x => (match x.instr with
    | .wait _ t n sc l =>
      let thr := waitThr t n sc l
      atBoundary s g && waitMet G x.data thr && match waitReport G x.data thr, G.frame with
        | none, _ => true
        | some r, none => !boundaryFirst G r
        | some _, some f => x.mask &&& f.sub ≠ 0#64
    | _ => false)
  | none => false
/-- Runs a blocked WAIT again. -/
def againWait (i : Instr) (s : State) : State :=
  match i with
  | .wait e t n sc l => match execWait e t n sc l s with | .next x => x | _ => s
  | _ => s
/-- WAIT_COMPLETION (R354). -/
def execWaitCompletion (g b : Nat) (s : State) : Out :=
  guardEv "WAIT_COMPLETION" (waitReady g b s) (runBlock g b (againWait (blockInstr g b s)) s)

/-! ### Barrier objects -/

/-- Issue of a barrier instruction on object k: BARRIER-RANGE first (R356), then an uncorrectable error of the object
(R431) where it counts. -/
def barIssue (i : Instr) (k : Nat) (err : Bool) (body : State → State) (s : State) : Out :=
  let t := (s.grp s.cur.grp).team
  .next (if s.barCount t ≤ k then trapNow i 0x47 s.cur.mask (BitVec.ofNat 64 k) s
    else if err && ((s.team t).bar k).err then trapNow i 0x11 s.cur.mask (BitVec.ofNat 64 k) s
    else body s)
/-- An update by the issuing sub-group: the instruction completes, then the object is updated (R359). -/
def barDo (i : Instr) (k : Nat) (f : Bar → Bar) (s : State) : State :=
  barUpdate (s.grp s.cur.grp).team k f (finish i {} s)

/-- BARINIT (R360). -/
def execBarinit (e : Pfx) (b a d : BitVec 7) (s : State) : Out :=
  let at_ := rs s a.toNat
  let bt := rs s b.toNat
  barIssue (.barinit e b a d) d.toNat false (barDo (.barinit e b a d) d.toNat fun _ =>
    { phase := 0, at_ := at_.extractLsb' 0 16, bt0 := bt.extractLsb' 0 48, bt := bt.extractLsb' 0 48, ca := 0, cb := 0,
      sat := false, err := false }) s
/-- BARARR (R360). -/
def execBararr (e : Pfx) (d : BitVec 7) (s : State) : Out :=
  barIssue (.bararr e d) d.toNat true (barDo (.bararr e d) d.toNat (·.arrive (popcount s.cur.mask))) s
/-- BARARR.N (R360). -/
def execBararrN (e : Pfx) (a d : BitVec 7) (s : State) : Out :=
  barIssue (.bararrN e a d) d.toNat true (barDo (.bararrN e a d) d.toNat (·.arrive (bf (rs s a.toNat) 15 0))) s
/-- BAREXP (R360). -/
def execBarexp (e : Pfx) (a d : BitVec 7) (s : State) : Out :=
  let n := rs s a.toNat
  barIssue (.barexp e a d) d.toNat false
    (barDo (.barexp e a d) d.toNat fun b => { b with bt := b.bt + n.extractLsb' 0 48 }) s
/-- BARWAIT (R360): it acquires at .DEV when the phase is done, else it waits. -/
def execBarwait (e : Pfx) (a d : BitVec 7) (s : State) : Out :=
  let i : Instr := .barwait e a d
  let n := match waiting s with | some (_, b) => (b.data[0]?).getD 0 | none => bf (rs s a.toNat) 31 0
  barIssue i d.toNat true (fun s =>
    if ((s.teamOf s.cur.grp).bar d.toNat).done n then finish i {} (acquire (s.coreOf s.cur.grp) 3 s)
    else stall i [n] s) s
/-- BARTEST (R360). -/
def execBartest (e : Pfx) (b a d : BitVec 7) (s : State) : Out :=
  let i : Instr := .bartest e b a d
  barIssue i b.toNat true (fun s =>
    let x := (s.teamOf s.cur.grp).bar b.toNat
    let ok := x.done (bf (rs s a.toNat) 31 0)
    let s := if ok then acquire (s.coreOf s.cur.grp) 3 s else s
    finish i { sws := [(d.toNat, x.phase.zeroExtend 64)], cc := some (ccOf false ok false false) } s) s

/-! ### The grid barrier -/

/-- Groups of a launch. -/
def launchGroups (s : State) (l : Nat) : List Nat :=
  (s.teams.filter fun (t : Nat × Team) => t.2.launch = l).flatMap fun (t : Nat × Team) => t.2.groups
/-- Lanes of a group that are not EXITED. -/
def Group.live (G : Group) : Nat := (G.lanes.filter fun (l : Nat × Lane) => l.2.st ≠ .exited).length
/-- A sub-group that has arrived at the grid barrier. -/
def isGbar (b : Block) : Bool := match b.instr with | .gbar _ => (b.data[0]?).getD 0 = 1 | _ => false
/-- A sub-group that waits in GBAR goes on: it acquires at .DEV (R364). -/
def endGbar (g b : Nat) (s : State) : State := endBlock g b (acquire (s.coreOf g) 3 s)
/-- The generation completes when every live lane has arrived: each waiter acquires at .DEV and goes on (R364), in a bank
that is not active when it is active again (R383). -/
def gbarCheck (l : Nat) (s : State) : State :=
  let L := s.launch l
  let gs := launchGroups s l
  let live := gs.foldl (fun n g => n + (s.grp g).live) 0
  if L.arrivals = 0 || decide (L.arrivals < live) then s
  else
    let s := s.modLaunch l fun x => { x with gen := x.gen + 1, arrivals := 0 }
    (gs.filter (atBoundary s)).foldl (fun s g => ((s.grp g).blocksOf isGbar).foldl (fun s b => endGbar g b s) s) s
/-- The group's older accesses have been made and the writes of its core can perform (R364, R247). -/
def gbarFree (s : State) : Bool := s.g.defer.isEmpty && !olderMem s.g (seqOf s) && wpReady s (s.coreOf s.cur.grp)
/-- The sub-group arrives at the grid barrier (R364): it keeps the generation of its arrival. -/
def gbarArrive (i : Instr) (s : State) : State :=
  let l := (s.teamOf s.cur.grp).launch
  let data := [1, (s.launch l).gen]
  let s := stall i data (drainCore (s.coreOf s.cur.grp) s)
  let b := (s.g.lane (lowBit s.cur.mask)).blk
  let s := s.modG fun G => { G with blocks := kmod G.blocks b fun (y : Block) => { y with data := data } }
  gbarCheck l (s.modLaunch l fun y => { y with arrivals := y.arrivals + popcount s.cur.mask })
/-- GBAR: the older writes perform at .DEV, then the sub-group arrives and waits (R364, R247). -/
def execGbar (e : Pfx) (s : State) : Out :=
  let i : Instr := .gbar e
  let L := s.launch (s.teamOf s.cur.grp).launch
  .next (if !L.desc.gs then trapNow i 0x5B s.cur.mask 0 s
    else match waiting s with
      | some (b, x) =>
        if (x.data[0]?).getD 0 = 1 then (if (x.data[1]?).getD 0 = L.gen then s else endGbar s.cur.grp b s)
        else if gbarFree s then gbarArrive i s else s
      | none => if gbarFree s then gbarArrive i s else stall i [0] s)

/-- EXIT (R181): it can complete a generation of the grid barrier (R364). -/
def execExit (e : Pfx) (s : State) : Out :=
  let sub := s.cur.mask
  let w := entryOf (.exit e) sub s.cid 0 {}
  .next (gbarCheck (s.teamOf s.cur.grp).launch (s.modG fun G => exitLanes sub (G.push w)))

/-! ### SLEEP -/

/-- SLEEP (R195). -/
def execSleep (e : Pfx) (a : BitVec 7) (s : State) : Out :=
  let i : Instr := .sleep e a
  let n := bf (rs s a.toNat) 31 0
  .next (match waiting s with
    | some _ => s
    | none => if n = 0 then finish i {} s else stall i [s.time.toNat, n] s)
/-- Block b of group g is a SLEEP whose time is over. -/
def sleepOver (g b : Nat) (s : State) : Bool :=
  match kget (s.grp g).blocks b with
  | some x => isSleep x && atBoundary s g &&
      decide ((x.data[1]?).getD 0 ≤ (s.time - BitVec.ofNat 64 ((x.data[0]?).getD 0)).toNat)
  | none => false
/-- SLEEP_TIMEOUT (R195). -/
def execSleepTimeout (g b : Nat) (s : State) : Out :=
  guardEv "SLEEP_TIMEOUT" (sleepOver g b s) (endBlock g b s)

end Sys2Proof.Machine
end

