-- ==== Sys2Proof/Machine/Engine.lean ====
section
/-! DEFINITION. Sys2Proof/Machine/Engine.lean: the accesses of engines (R258, R296, R301, R307): places, reads, writes, poison, and
their entries in the fault ring. -/

namespace Sys2Proof.Machine
open Sys2Proof

/-- Whom an engine acts for: device, partition, ASID, and the team whose .SP and .CL it reaches (0 for none). -/
structure Party where
  d : Nat
  p : Nat
  asid : Nat
  team : Nat
  deriving DecidableEq, Repr

/-- The party of a group. -/
def partyOf (s : State) (g : Nat) : Party :=
  let c := s.contOf g
  ⟨c.d, c.p, c.asid, (s.grp g).team⟩

/-- The key of a byte of .SP, .CL or .CH for a team (R197 to R201). -/
def teamKey (s : State) (pt : Party) (sp a : Nat) : Option Nat :=
  let T := s.team pt.team
  let L := s.launch T.launch
  let there := (kget s.teams pt.team).isSome
  match sp with
  | 1 => if there && decide (a < L.desc.sc * 256) then some (scratchKey pt.team a) else none
  | 2 =>
    let c := a / 2 ^ 18
    let n := L.desc.clusterSize
    if there && decide (c < n) && decide (a % 2 ^ 18 < L.desc.sc * 256) then
      some (match if c = T.idx % n then some pt.team
          else (s.teams.find? fun (e : Nat × Team) => e.2.launch = T.launch && e.2.idx = T.idx / n * n + c).map Prod.fst with
        | some t => scratchKey t (a % 2 ^ 18)
        | none => freedKey a)
    else none
  | 3 =>
    let v := s.dev pt.d
    let w := v.asidRow pt.asid 2
    if v.asidOk pt.asid && decide (a < bf w 13 7 * 2 ^ 20) then some (gk 1 pt.d pt.p (bf w 6 0 * 2 ^ 20 + a)) else none
  | _ => none
/-- The keys of a range; none when a byte lies outside its space (R198). -/
def teamKeys (s : State) (pt : Party) (sp a : Nat) : Nat → Option (List Nat)
  | 0 => some []
  | n + 1 => match teamKey s pt sp a, teamKeys s pt sp (a + 1) n with
    | some k, some t => some (k :: t)
    | _, _ => none

/-- The outcome of an engine's checks (R307). -/
inductive EngR where
  | glob (ps : List EPiece)
  | keys (ks : List Nat)
  | fault (va : Nat) (perm tpoi : Bool)
  | bounds
  | wait
  deriving DecidableEq, Repr

/-- Joins the outcomes of pieces: the first failure stands. -/
def engJoin : List EngR → EngR
  | [] => .glob []
  | r :: t =>
    match r with
    | .glob a => (match engJoin t with | .glob b => .glob (a ++ b) | x => x)
    | x => x
/-- Checks one piece of a .G access (R223, R317). -/
def engPiece (s : State) (pt : Party) (perm : Nat) (x : Nat × Nat) : EngR :=
  match translate s pt.d pt.p pt.asid x.1 with
  | .fault t => .fault (x.1 % 2 ^ 57) false t
  | .wait => .wait
  | .ok pa kind _ xwr => if permOk perm kind xwr then .glob [⟨x.1, pa, x.2, kind⟩] else .fault (x.1 % 2 ^ 57) true false
/-- The kind of access that a home sees: 1 read, 2 write, 3 atomic. -/
def homePerm (perm : Nat) : Nat := match perm with | 6 => 2 | 7 => 3 | k => k
/-- Checks an access of `n` bytes (R198, R223). `perm`: 1 read; 2 write and 3 atomic of a matrix drain; 6 write and 7 atomic
of another engine. -/
def engChk (s : State) (pt : Party) (perm sp a n : Nat) : EngR :=
  if sp = 0 then engJoin ((sectorCut (n / 32 + 2) a n).map (engPiece s pt perm))
  else match teamKeys s pt sp a n with | some ks => .keys ks | none => .bounds
/-- The pieces of a range named by physical address (R304). -/
def physPieces (s : State) (d p pa n : Nat) : List EPiece :=
  (sectorCut (n / 32 + 2) pa n).map fun x => ⟨x.1, x.1, x.2, ((s.part d p).folKind x.1).1⟩

/-- The bytes lie on another device or a switch (R225, R299). -/
def farPiece (x : EPiece) : Bool := x.pa / 2 ^ 52 = 4 || x.pa / 2 ^ 52 = 8
def farR : EngR → Bool
  | .glob ps => ps.any farPiece
  | _ => false
/-- The bytes do not lie on the party's own device (R259, R277). -/
def offDevice : EngR → Bool
  | .glob ps => ps.any fun x => x.pa / 2 ^ 52 ≠ 0
  | _ => false
/-- The place of a piece of an engine's access. -/
def engPlace (s : State) (pt : Party) (perm : Nat) (x : EPiece) : Place := place s pt.d pt.p x.kind (homePerm perm) x.pa
/-- An engine's access can be made now: nothing is under way at its homes, and they hold what it needs (R213 to R215, R427). -/
def engFree (s : State) (pt : Party) (perm : Nat) : EngR → Bool
  | .glob ps => ps.all fun x =>
    let pl := engPlace s pt perm x
    match homePerm perm with | 1 => readFree s pl | 2 => writeFree s pt.d pl | _ => writeFree s pl.hd pl
  | .wait => false
  | _ => true
/-- The request that a home must have before an engine's access (R214). -/
def engWant (s : State) (pt : Party) (perm : Nat) : EngR → Option (HKind × Nat × Nat)
  | .glob ps => ps.findSome? fun x =>
    let pl := engPlace s pt perm x
    wantOf s (if homePerm perm = 3 then pl.hd else pt.d) (homePerm perm ≠ 1) pl
  | _ => none
/-- Where bytes of ranges in .G lie by translation alone (R259, R276, R299): off the device, or the first one without a
translation. -/
def rangePlaces (s : State) (pt : Party) (xs : List (Nat × Nat)) : List (Nat × Tr) :=
  (xs.flatMap fun x => sectorCut (x.2 / 32 + 2) x.1 x.2).map fun y => (y.1, translate s pt.d pt.p pt.asid y.1)
def placesOff (xs : List (Nat × Tr)) : Bool :=
  xs.any fun x => match x.2 with | .wait => true | .ok pa _ _ _ => pa / 2 ^ 52 ≠ 0 | .fault _ => false
def placesLost (xs : List (Nat × Tr)) : Option (Nat × Bool) :=
  xs.findSome? fun x => match x.2 with | .fault t => some (x.1 % 2 ^ 57, t) | _ => none

/-! ### Reading -/

/-- A byte that an engine read: its address, its key at its home, value, poison reason, and whether the target refused the
access rather than held poison. -/
structure EByte where
  va : Nat
  key : Nat
  val : Byte
  mark : Nat
  refused : Bool
  deriving DecidableEq, Repr

/-- The bytes of an access as an engine reads them (R258). `wp`: the write path through which it reads a command
structure. -/
def engBytes (s : State) (pt : Party) (K : Option Core) : EngR → List EByte
  | .glob ps => ps.flatMap fun x =>
    let pl := engPlace s pt 1 x
    let ref : Bool := pl.bad ≠ 0
    (List.range x.len).map fun j =>
      let b := match K with
        | some c => missByte s c pt.d pt.p x.kind (x.pa + j)
        | none => l2Read s pt.d pt.p x.kind (x.pa + j)
      ⟨x.va + j, pl.key + j, b.1, b.2, ref⟩
  | .keys ks => ks.map fun k => ⟨0, k, dieByte s k, secBad s k, false⟩
  | _ => []
/-- An engine's read brings coherent lines under their tags (R214). -/
def engTouch (pt : Party) (r : EngR) (s : State) : State :=
  match r with
  | .glob ps => ps.foldl (fun s x =>
    let pl := engPlace s pt 1 x
    needAt pl (1#8 <<< (pl.key / 32 % 8)) (cohRead s pl pt.d)) s
  | _ => s
/-- The number whose bytes were read. -/
def ebNat (bs : List EByte) : Nat := leNat (bs.map EByte.val)
/-- The first poisoned byte. -/
def ebBad (bs : List EByte) : Option EByte := bs.find? fun b => b.mark ≠ 0
/-- Doublewords from bytes. -/
def ebDwords (bs : List EByte) : Nat → List Dword
  | 0 => []
  | n + 1 => BitVec.ofNat 64 (ebNat (bs.take 8)) :: ebDwords (bs.drop 8) n

/-- A command structure as it was read (R258 item 1, R300): its doublewords; a fault; its first poisoned byte, with the
doublewords, poisoned bytes as zeros, and the numbers of those that are not clean; or a wait. -/
inductive Blk where
  | ok (ws : List Dword)
  | fault
  | poison (b : EByte) (ws : List Dword) (bad : List Nat)
  | wait
  deriving DecidableEq, Repr
/-- Reads a command structure of `n` bytes. -/
def readBlk (s : State) (pt : Party) (K : Option Core) (sp a n : Nat) : Blk :=
  let r := engChk s pt 1 sp a n
  match r with
  | .wait => .wait
  | .fault _ _ _ => .fault
  | .bounds => .fault
  | r =>
    if !engFree s pt 1 r then .wait
    else
      let bs := engBytes s pt K r
      match ebBad bs with
      | some b =>
        .poison b (ebDwords (bs.map fun x => if x.mark = 0 then x else { x with val := 0#8 }) (n / 8))
          ((List.range (n / 8)).filter fun i => ((bs.drop (8 * i)).take 8).any fun x => x.mark ≠ 0)
      | none => .ok (ebDwords bs (n / 8))
/-- The core whose write path an engine sees for a group, or saw last when the group is saved (R258 item 1). -/
def grpCore (s : State) (g : Nat) : Option Core :=
  let c := s.contOf g
  some (s.core (match c.at? with | some x => x.1 | none => c.last))

/-! ### Writing -/

/-- The bytes of an access as cells: `v` gives byte j its value and mark. -/
def engCells (pt : Party) (r : EngR) (va : Nat) (v : Nat → Byte × Nat) : List ECell :=
  match r with
  | .glob ps => (ps.foldl (fun (acc : List ECell × Nat) x =>
      (acc.1 ++ (List.range x.len).map fun j =>
        (⟨pkey pt.d pt.p (x.pa + j), x.va + j, x.kind, (v (acc.2 + j)).1, (v (acc.2 + j)).2⟩ : ECell), acc.2 + x.len))
      ([], 0)).1
  | .keys ks => ((List.range ks.length).zip ks).map fun (x : Nat × Nat) =>
      (⟨x.2, va + x.1, 2, (v x.1).1, (v x.1).2⟩ : ECell)
  | _ => []
/-- Cells by sector, a later cell of a byte in place of an earlier. -/
def cellSectors (cs : List ECell) : KV (List ECell) :=
  cs.foldl (fun (m : KV (List ECell)) c =>
    let k := c.key / 32
    kput m k (((kget m k).getD []).filter (fun (x : ECell) => x.key ≠ c.key) ++ [c])) []
/-- Writes the poison codeword to the sector at its home (R225, R302); it reads as POISON (R392). -/
def poisonCell (pt : Party) (c : ECell) (s : State) : State :=
  let reason := 1
  if gkSpace c.key = 4 then s
  else if gkSpace c.key = 8 then
    let pl := place s pt.d pt.p c.kind 2 (gkOff c.key)
    if pl.bad ≠ 0 then s
    else
      let s := wroteAt pl (1#8 <<< (pl.key / 32 % 8)) (cohWrite s pl pt.d)
      poisonSectors s ([pl.key / 32] ++ (match pl.key2 with | some k => [k / 32] | none => [])) reason
  else poisonSectors s [c.key / 32] reason
/-- Writes the cells of one sector: the reason of a failure (0 none) and whether the target refused it. A poisoned source
leaves the poison codeword (R302); a partial write of a poisoned sector performs nothing (R226). -/
def engSector (pt : Party) (op : Nat × Nat) (s : State) (x : Nat × List ECell) : State × Nat × Bool :=
  let cells := x.2.map fun (c : ECell) => (c.key, c.val)
  let bad := x.2.any fun (c : ECell) => c.mark ≠ 0
  match x.2 with
  | [] => (s, 0, false)
  | c :: _ =>
    let refused : Bool := gkSpace c.key = 8 && (place s pt.d pt.p c.kind 2 (gkOff c.key)).bad ≠ 0
    if bad then (poisonCell pt c s, 0, false)
    else if gkSpace c.key = 4 then (s, 0, false)
    else if gkSpace c.key = 8 then
      let r := performSector pt.d pt.p c.kind op s (x.1, cells)
      (r.1, r.2, refused)
    else
      let why := secBad s (32 * x.1)
      let r := putSector s (x.1, cells)
      (r.1, if r.2 then 0 else why, false)
/-- The home of a sector of cells can take a write now (R213, R214, R427). -/
def engSectorFree (s : State) (pt : Party) (x : Nat × List ECell) : Bool :=
  match x.2 with
  | c :: _ => gkSpace c.key ≠ 8 ||
      writeFree s pt.d (place s pt.d pt.p c.kind 2 (gkOff c.key))
  | [] => true
/-- The request that the home must have first (R214). -/
def engSectorWant (s : State) (pt : Party) (x : Nat × List ECell) : Option (HKind × Nat × Nat) :=
  match x.2 with
  | c :: _ => if gkSpace c.key = 8 then wantOf s pt.d true (place s pt.d pt.p c.kind 2 (gkOff c.key)) else none
  | [] => none

/-! ### Faults -/

/-- The fault-ring entry of an engine (R307, R312). `unit`: which copy engine runs the command is not fixed. -/
def engFault (s : State) (pt : Party) (g : Nat) (u : Nat) (va : Nat) (perm tpoi : Bool) (kind : Nat) : FEnt :=
  { seq := 0, asid := pt.asid, va := BitVec.ofNat 64 va, perm := perm, kind := kind, tpoi := tpoi, merged := false,
    eng := true, unit := (Config.copyEngine u).toNat, bank := s.bankOf g, slot := (s.grp g).slot }

end Sys2Proof.Machine
end

