-- ==== Sys2Proof/Machine/Command.lean ====
section
/-! DEFINITION. Sys2Proof/Machine/Command.lean: command blocks and their checks (R296 to R300), COPY (R301 to R303), and what
landed bytes do (R299, R363, R394). -/

namespace Sys2Proof.Machine
open Sys2Proof

/-! ### Fields -/

/-- Doubleword i of a command block. -/
def Cmd.w (c : Cmd) (i : Nat) : Dword := (c.blk[i]?).getD 0#64
def Cmd.opc (c : Cmd) : Nat := bf (c.w 0) 3 0
def Cmd.arg (c : Cmd) : Nat := bf (c.w 0) 31 8
def Cmd.rv (c : Cmd) : Bool := (c.w 0).getLsbD 32
def Cmd.nt (c : Cmd) : Bool := (c.w 0).getLsbD 33
def Cmd.cntBit (c : Cmd) : Bool := (c.w 0).getLsbD 34
def Cmd.be (c : Cmd) : Bool := (c.w 0).getLsbD 35
def Cmd.bobj (c : Cmd) : Nat := bf (c.w 0) 42 36
def Cmd.rs (c : Cmd) : Bool := (c.w 0).getLsbD 43
def Cmd.cbe (c : Cmd) : Bool := (c.w 0).getLsbD 44
def Cmd.cbk (c : Cmd) : Nat := bf (c.w 0) 47 45
def Cmd.tag (c : Cmd) : Nat := bf (c.w 0) 63 48
/-- The party a command acts for. -/
def Cmd.party (c : Cmd) : Party := ⟨c.d, c.p, c.asid, c.team⟩
def State.cmd? (s : State) (u : Nat) : Option Cmd := kget s.cmds u

/-- The order of the statuses that running commands meet (R300). -/
def statusRank (st : Nat) : Nat :=
  match st with | 0x0A => 0 | 0x0B => 1 | 0x0C => 2 | 0x0D => 3 | 0x09 => 4 | 0x0E => 5 | 0x0F => 6 | _ => 9
/-- Notes a failure; the first in R300's order stands, with the address of its first occurrence. -/
def Cmd.fail (c : Cmd) (st : Nat) (va : Dword) (reason : Nat) : Cmd :=
  if statusRank st < statusRank c.status then { c with status := st, paddr := va, reason := reason } else c
/-- The command has moved all it will move. -/
def Cmd.stop (c : Cmd) : Cmd := { c with stage := .finished }

/-! ### The checks of a block (R300) -/

/-- A COPY's fields (R301). -/
def Cmd.nd (c : Cmd) : Nat := bf (c.w 3) 17 14
def Cmd.st (c : Cmd) : Nat := bf (c.w 3) 4 0
def Cmd.dt (c : Cmd) : Nat := bf (c.w 3) 9 5
def Cmd.rm (c : Cmd) : Nat := bf (c.w 3) 12 10
def Cmd.sn (c : Cmd) : Bool := (c.w 3).getLsbD 13
def Cmd.wbase (c : Cmd) : Int := sextNat 10 (bf (c.w 3) 27 18)
def Cmd.ssp (c : Cmd) : Nat := bf (c.w 1) 2 0
def Cmd.dsp (c : Cmd) : Nat := bf (c.w 2) 2 0
def Cmd.ext (c : Cmd) (j : Nat) : Nat := (c.w (8 + 4 * j)).toNat
def Cmd.sstr (c : Cmd) (j : Nat) : Int := (c.w (9 + 4 * j)).toInt
def Cmd.dstr (c : Cmd) (j : Nat) : Int := (c.w (10 + 4 * j)).toInt

/-- Bytes of a block, from its first doubleword and the doubleword that holds ND (R301, R304). -/
def blockLen (w0 w3 : Dword) : Nat :=
  if bf w0 3 0 = 0 && decide (1 ≤ bf w3 17 14) && decide (bf w3 17 14 ≤ 9) then 64 + 32 * bf w3 17 14 else 64

/-- A conversion pair that COPY accepts (R302, R54, R155). -/
def copyTypes (st dt : Nat) : Bool :=
  if st = dt then tyWidth st ≠ 0
  else if st = 0x0A then tyFloat dt || tyInt dt
  else if dt = 0x0A then tyFloat st || tyInt st
  else (tyFloat st || tyFloat dt) && (tyFloat st || tyInt st || st = 0x09) && (tyFloat dt || tyInt dt)

/-- Doublewords [lo, hi) of the block are zero. -/
def Cmd.zeros (c : Cmd) (lo hi : Nat) : Bool := (List.range (hi - lo)).all fun i => c.w (lo + i) = 0#64
/-- A side of a COPY whose element is below 8 bits: dense, rows of whole bytes (R301). -/
def denseOk (c : Cmd) (t : Nat) (str : Int) : Bool := 8 ≤ tyWidth t || (str = 0 && c.ext 0 * tyWidth t % 8 = 0)
/-- The static checks of a COPY (R300, R301): 0 when it passes. -/
def ckCopy (c : Cmd) : Nat :=
  if c.arg ≠ 0 || bf (c.w 3) 63 28 ≠ 0 || !c.zeros 6 8 || decide (3 < c.ssp) || decide (3 < c.dsp)
      || (List.range c.nd).any fun j => c.w (11 + 4 * j) ≠ 0#64 then 0x01
  else if !copyTypes c.st c.dt then 0x02
  else if decide (5 ≤ c.rm) || (c.rm = 4 && !srAllowed c.dt) then 0x03
  else if c.nd = 0 || decide (9 < c.nd) || ((List.range c.nd).any fun j => c.ext j = 0 || decide (2 ^ 32 ≤ c.ext j))
      || !denseOk c c.st (c.sstr 0) || !denseOk c c.dt (c.dstr 0) then 0x04
  else 0
/-- REMOTE names a peer window or kitty memory (R304). -/
def remoteOk (x : Dword) : Bool := x.toNat / 2 ^ 52 = 4 || x.toNat / 2 ^ 52 = 8
/-- READ and WRITE (R304). -/
def ckMove (c : Cmd) : Nat :=
  if c.arg ≠ 0 || !remoteOk (c.w 1) || decide (3 < c.dsp) || !c.zeros 4 8 then 0x01
  else if c.w 3 = 0#64 || decide (2 ^ 32 ≤ (c.w 3).toNat) then 0x04
  else 0
/-- Type and function of ATOM, CAS and REDUCE (R304). -/
def Cmd.ty (c : Cmd) : Nat := c.arg % 32
def Cmd.fn (c : Cmd) : Nat := c.arg / 32 % 16
/-- ATOM (R304). -/
def ckAtom (c : Cmd) : Nat :=
  let t := c.ty
  let n := tyWidth t / 8
  if decide (1024 ≤ c.arg) || !remoteOk (c.w 1) || !c.zeros 4 8 || (n ≠ 16 && c.w 3 ≠ 0#64) then 0x01
  else if decide (10 < c.fn) || !(atomTypes c.fn).2.contains t || (c.fn = 6 && c.arg / 512 = 1) || (n = 16 && c.rv) then 0x02
  else if (c.w 1).toNat % n ≠ 0 then 0x04
  else 0
/-- CAS (R304). -/
def ckCas (c : Cmd) : Nat :=
  if decide (32 ≤ c.arg) || !remoteOk (c.w 1) || !c.zeros 4 8 then 0x01
  else if c.ty ≠ 0x1B && c.ty ≠ 0x1C then 0x02
  else if (c.w 1).toNat % (tyWidth c.ty / 8) ≠ 0 then 0x04
  else 0
/-- REDUCE (R304). -/
def ckReduce (c : Cmd) : Nat :=
  if decide (512 ≤ c.arg) || !remoteOk (c.w 1) || decide (3 < c.dsp) || !c.zeros 4 8 then 0x01
  else if !(([0, 1, 2, 7, 8, 9, 10] : List Nat).contains c.fn) || !(atomTypes c.fn).2.contains c.ty then 0x02
  else if c.w 3 = 0#64 || decide (2 ^ 32 ≤ (c.w 3).toNat) || (c.w 1).toNat % (tyWidth c.ty / 8) ≠ 0 then 0x04
  else 0
/-- KALLOC (R305, R425). -/
def ckKalloc (c : Cmd) : Nat :=
  let k := c.arg % 4
  let n := (c.w 1).toNat
  if decide (16384 ≤ c.arg) || k = 3 || (k = 2 && c.arg / 4 % 64 = c.arg / 256 % 64) || !c.zeros 2 8 then 0x01
  else if n = 0 || n % 2 ^ 21 ≠ 0 || (k = 1 && decide (2 ^ 36 < n)) || (k = 2 && decide (2 ^ 30 < n)) then 0x04
  else 0
/-- KFREE's block (R305). -/
def ckKfree (c : Cmd) : Nat := if c.arg ≠ 0 || !c.zeros 2 8 then 0x01 else 0
/-- SIGNAL (R306). -/
def ckSignal (c : Cmd) : Nat := if !c.be || c.arg ≠ 0 || bf (c.w 1) 63 32 ≠ 0 || !c.zeros 2 8 then 0x01 else 0

/-- The status with which a COPY node of nonzero flags completes: BAD-NODE, told apart from the statuses of R300 (R348). -/
def badFlags : Nat := 0x100
/-- The checks that need no access to the data (R300). `q`: 2 or 6, 0 for a graph node (R347). -/
def ckBlock (q : Nat) (c : Cmd) : Nat :=
  let o := c.opc
  let node : Bool := q = 0
  if node && (bf (c.w 0) 44 43 ≠ 0 || bf (c.w 0) 35 32 ≠ 0) then badFlags
  else if decide (8 < o) || bf (c.w 0) 7 4 ≠ 0 || (node && o ≠ 0) || (q = 6 && o ≠ 6 && o ≠ 7)
      || (!node && !c.be && !c.cntBit) || (c.be && (o = 2 || o = 3 || o = 4 || o = 5))
      || (node && (!(c.ssp = 0 || c.ssp = 3) || !(c.dsp = 0 || c.dsp = 3))) then 0x01
  else match o with
    | 0 => ckCopy c
    | 1 | 2 => ckMove c
    | 3 => ckAtom c
    | 4 => ckCas c
    | 5 => ckReduce c
    | 6 => ckKalloc c
    | 7 => ckKfree c
    | _ => ckSignal c

end Sys2Proof.Machine
end

