-- ==== Sys2Proof/Machine/Moves.lean ====
section
/-! DEFINITION. Sys2Proof/Machine/Moves.lean: reading a command block and the commands COPY, READ and WRITE with their spans
(R299 to R304, R307, R363, R394, R423). -/

namespace Sys2Proof.Machine
open Sys2Proof

/-! ### COMMAND_BLOCK_READ -/

/-- A command as its block read makes it. -/
def mkCmd (src grp : Nat) (pt : Party) (gen cls node : Nat) (p : Push) : Cmd :=
  { src := src, grp := grp, team := pt.team, node := node, d := pt.d, p := pt.p, asid := pt.asid, gen := gen, cls := cls,
    val := p.val, op := p.op, cnt := true, watch := p.watch, stage := .queued, blk := [], status := 0, flags := 0,
    paddr := 0, reason := p.mark, ret := 0, next := 0, landed := 0, spans := [], chunks := [], seq := none, pri := none, fkind := 0,
    launch := 0, begun := false, scope := 3, olds := [], part := [], quiet := false }
/-- Space and address of a pushed value (R296); the value itself is good. -/
def valSp (v : Dword) : Nat := bf v 2 0
def valAddr (v : Dword) : Nat := v.toNat / 64 * 64
def valOk (v : Dword) : Bool := (valSp v = 0 || valSp v = 1 || valSp v = 3) && bf v 5 3 = 0

/-- A command that its block read ends. -/
def Cmd.ends (c : Cmd) (st : Nat) (va : Dword) (why : Nat) : Cmd :=
  { c with status := st, paddr := va, reason := why, stage := .finished }
/-- A command with the doublewords of its block; `bad`: those that read as poison. Where CNT could not be read, the copy
counter retires with the command (R352; log entry 133). -/
def Cmd.take (c : Cmd) (ws : List Dword) (bad : List Nat) : Cmd :=
  { c with blk := ws, cnt := bad.contains 0 || ((ws[0]?).getD 0#64).getLsbD 34 }
/-- COPY, READ, WRITE and REDUCE begin when the older commands of their queue have begun (R299). -/
def Cmd.begins (c : Cmd) : Bool := c.opc = 0 || c.opc = 1 || c.opc = 2 || c.opc = 5
/-- The block is clean: its checks (R300). -/
def Cmd.judged (q : Nat) (c : Cmd) : Cmd :=
  let st := ckBlock q c
  if st ≠ 0 then c.ends st 0 0 else { c with stage := if c.begins then .block else .run, begun := !c.begins }
/-- The rest of a block whose first 64 bytes were read: BLOCK-FAULT stands before SRC-POISON (R300). -/
def loadTail (s : State) (q : Nat) (K : Option Core) (c : Cmd) (ws : List Dword) (bad : List Nat) : Option Cmd :=
  let w0 := (ws[0]?).getD 0#64
  let n := if bad.contains 0 || (bf w0 3 0 = 0 && bad.contains 3) then 64 else blockLen w0 ((ws[3]?).getD 0#64)
  match readBlk s c.party K (valSp c.val) (valAddr c.val) n with
  | .wait => none
  | .fault => some ((c.take ws bad).ends 0x08 0 0)
  | .poison b ws bad => some ((c.take ws bad).ends 0x0C (BitVec.ofNat 64 (valAddr c.val)) b.mark)
  | .ok ws => some ((c.take ws []).judged q)
/-- Reads a command block: the command with its block or its failure; none while it cannot be read (R296, R300). An entry
that carries a mark names no block (R287; log entry 134). -/
def loadCmd (s : State) (q : Nat) (K : Option Core) (c : Cmd) : Option Cmd :=
  if c.reason ≠ 0 then some (c.ends 0x0C 0 c.reason)
  else if !valOk c.val || (q = 0 && valSp c.val = 1) then some (c.ends 0x01 0 0)
  else
    match readBlk s c.party K (valSp c.val) (valAddr c.val) 64 with
    | .wait => none
    | .fault => some (c.ends 0x08 0 0)
    | .ok ws => loadTail s q K c ws []
    | .poison _ ws bad => loadTail s q K c ws bad

/-- The next push of q2 or q6 of a group. -/
def headPush (G : Group) (q : Nat) : Option Push := match q with | 2 => G.q2.head? | 6 => G.q6.head? | _ => none
/-- The command that a block read would make, with its number: a new one for a queue, its own for a graph node. -/
def blockRead (s : State) (src q : Nat) : Option (Nat × Cmd) :=
  if q = 0 then
    match s.cmd? src with
    | some c => if c.stage = .queued && c.src = 0 then (loadCmd s 0 none c).map fun x => (src, x) else none
    | none => none
  else
    match kget s.groups src with
    | none => none
    | some G =>
      match headPush G q with
      | none => none
      | some p =>
        let pt := partyOf s src
        let c := mkCmd q src pt ((s.dev pt.d).ctxOf pt.asid).gen (s.teamOf src).cls 0 p
        (loadCmd s q (grpCore s src) c).map fun x => (s.uid, x)
/-- The block leaves its queue; with CNT = 0 the entry is done at the read (R352). -/
def blockDone (src q : Nat) (s : State) : State :=
  match blockRead s src q with
  | none => s
  | some (u, c) =>
    let s := { s with cmds := kput s.cmds u c }
    if q = 0 then s
    else
      let s := s.fresh.modGrp src fun G =>
        if q = 2 then { G with q2 := G.q2.drop 1 } else { G with q6 := G.q6.drop 1 }
      if !c.cnt then s.modGrp src fun G => G.doneOp 2 c.op else s
/-- COMMAND_BLOCK_READ (R296, R300). -/
def execCommandBlockRead (src q : Nat) (s : State) : Out :=
  guardEv "COMMAND_BLOCK_READ" (blockRead s src q).isSome (blockDone src q s)

/-! ### The bytes of a command -/

/-- Elements that move as one unit, so that sub-byte elements move in whole bytes (R46, R301). -/
def Cmd.unit (c : Cmd) : Nat :=
  if tyWidth c.st = 6 || tyWidth c.dt = 6 then 4 else if tyWidth c.st = 4 || tyWidth c.dt = 4 then 2 else 1
/-- Coordinates of an element, innermost first (R301). -/
def Cmd.coords (c : Cmd) (lin : Nat) : List Nat :=
  ((List.range c.nd).foldl (fun (r : Nat × List Nat) j => (r.1 / c.ext j, r.2 ++ [r.1 % c.ext j])) (lin, [])).2
/-- Address of an element on one side; below 8 bits, that of the byte in which it starts (R301). -/
def elemAddr (base : Dword) (t : Nat) (str : Nat → Int) (co : List Nat) : Nat :=
  let off := ((List.range co.length).zip co).foldl (fun (a : Int) (x : Nat × Nat) => a + x.2 * str x.1) 0
  let dense : Int := if tyWidth t < 8 then ((co.head?).getD 0 * tyWidth t / 8 : Nat) else 0
  wrapNat 64 ((base.toNat / 8 * 8 : Nat) + off + dense)
/-- The byte ranges of a unit that starts at element `lin`: one for a sub-byte side, else one for each element. -/
def unitRanges (c : Cmd) (t : Nat) (base : Dword) (str : Nat → Int) (lin : Nat) : List (Nat × Nat) :=
  if tyWidth t < 8 then [(elemAddr base t str (c.coords lin), c.unit * tyWidth t / 8)]
  else (List.range c.unit).map fun j => (elemAddr base t str (c.coords (lin + j)), tyWidth t / 8)
def Cmd.srcRanges (c : Cmd) (lin : Nat) : List (Nat × Nat) := unitRanges c c.st (c.w 1) c.sstr lin
def Cmd.dstRanges (c : Cmd) (lin : Nat) : List (Nat × Nat) := unitRanges c c.dt (c.w 2) c.dstr lin

/-- Elements of one chunk of a command's bitmap (R303). -/
def Cmd.total (c : Cmd) : Nat := (List.range c.nd).foldl (fun n j => n * c.ext j) 1
def Cmd.chunk (c : Cmd) : Nat := (c.total + 63) / 64
def Cmd.chunkSize (c : Cmd) (k : Nat) : Nat := min c.chunk (c.total - k * c.chunk)
/-- An element is skipped: RS = 1 and its chunk stood as done before the command (R303). -/
def elemSkip (s : State) (c : Cmd) (e : Nat) : Bool :=
  c.cbe && c.rs && (rget (s.grp c.grp).cb c.cbk).getLsbD (e / max 1 c.chunk) && (kget c.chunks (e / max 1 c.chunk)).isNone
/-- Elements of a unit that are not skipped. -/
def unitEls (s : State) (c : Cmd) (lin : Nat) : List Nat := (List.range c.unit).filter fun e => !elemSkip s c (lin + e)
/-- Units of a COPY, by their first elements. -/
def Cmd.units (c : Cmd) : List Nat := (List.range (c.total / c.unit)).map (· * c.unit)
/-- First byte of the local side of a READ, WRITE or REDUCE (R304). -/
def Cmd.localBase (c : Cmd) : Nat := (c.w 2).toNat / 8 * 8
/-- Type and function of ATOM, CAS and REDUCE (R304): bytes of an element. -/
def Cmd.elBytes (c : Cmd) : Nat := tyWidth c.ty / 8
/-- Space and ranges of everything that a command reads, or writes, by virtual address. -/
def Cmd.srcAll (c : Cmd) : Nat × List (Nat × Nat) :=
  match c.opc with
  | 0 => (c.ssp, c.units.flatMap c.srcRanges)
  | 2 => (c.dsp, [(c.localBase, (c.w 3).toNat)])
  | 5 => (c.dsp, [(c.localBase, (c.w 3).toNat * c.elBytes)])
  | _ => (0, [])
def Cmd.dstAll (c : Cmd) : Nat × List (Nat × Nat) :=
  match c.opc with
  | 0 => (c.dsp, c.units.flatMap c.dstRanges)
  | 1 => (c.dsp, [(c.localBase, (c.w 3).toNat)])
  | _ => (0, [])
/-- Keys of the bytes of ranges that an engine writes. -/
def rangeKeys (s : State) (pt : Party) (sp : Nat) (xs : List (Nat × Nat)) : List Nat :=
  (xs.flatMap fun x => sectorCut (x.2 / 32 + 2) x.1 x.2).flatMap fun y =>
    (engCells pt (engChk s pt 6 sp y.1 y.2) y.1 fun _ => (0#8, 0)).map ECell.key
/-- Ranges of the unskipped elements of a command's destination. -/
def dstWritten (s : State) (c : Cmd) : List (Nat × Nat) :=
  if c.opc = 0 then c.units.flatMap fun lin =>
    if tyWidth c.dt < 8 then (if (unitEls s c lin).isEmpty then [] else c.dstRanges lin)
    else (unitEls s c lin).filterMap fun e => (c.dstRanges lin)[e]?
  else c.dstAll.2
/-- The command writes every byte of a sector (R300). -/
def cmdCovers (s : State) (c : Cmd) (sec : Nat) : Bool :=
  let ks := rangeKeys s c.party c.dsp (dstWritten s c)
  (List.range 32).all fun j => ks.contains (32 * sec + j)

/-! ### Landing -/

/-- A sector counts as landed without poison. -/
def secGood (bads : List (Nat × Nat × Bool)) (x : Nat × List ECell) : Bool :=
  (x.2.all fun c => c.mark = 0) && !bads.any fun (b : Nat × Nat × Bool) => b.1 = x.1
/-- The credit of a landing window for a sector of a peer window, when its row asks for one (R340). -/
def landCredit (s : State) (pt : Party) (x : Nat × List ECell) : List Credit :=
  let pa := gkOff (32 * x.1)
  if gkSpace (32 * x.1) ≠ 8 || pa / 2 ^ 52 ≠ 4 then []
  else
    let row := rget (s.part pt.d pt.p).peer (pa / 2 ^ 42 % 1024)
    let nd := bf row 10 1; let tp := bf row 14 11
    let c := windowRow s nd tp pt.d (pa / 2 ^ 36 % 64) 2
    if c.getLsbD 16 then [⟨0, bf c 15 9, x.2.length, 0, some (nd, tp, bf c 7 0, bf c 8 8, bf c 22 17)⟩] else []
/-- Credits to one destination as one update. -/
def mergeCredits : List Credit → List Credit
  | [] => []
  | c :: t =>
    match mergeCredits t with
    | [] => [c]
    | d :: r => if d.land = c.land && d.obj = c.obj && d.team = c.team && d.cmd = c.cmd
      then { d with bytes := d.bytes + c.bytes } :: r else c :: d :: r

/-- Counts landed elements and gives the bits of the chunks that are whole (R303). -/
def markChunks (c : Cmd) (els : List Nat) : Cmd × Dword :=
  els.foldl (fun (r : Cmd × Dword) e =>
    let k := e / max 1 c.chunk
    let n := (kget r.1.chunks k).getD 0 + 1
    ({ r.1 with chunks := kput r.1.chunks k n }, if n = c.chunkSize k then r.2 ||| (1#64 <<< k) else r.2)) (c, 0#64)
/-- Elements whose every sector landed without poison. -/
def goodEls (els : List (Nat × Nat)) (good : Nat → Bool) : List Nat :=
  (els.map Prod.fst).eraseDups.filter fun e => els.all fun (x : Nat × Nat) => x.1 ≠ e || good x.2

/-- The status of a failed sector (R300): refused by its target, unreachable, or poisoned. -/
def secStatus (x : Nat × List ECell) (b : Nat × Nat × Bool) : Nat :=
  let pa := gkOff (32 * x.1)
  if b.2.2 then (if b.2.1 = 4 then 0x0F else 0x0D)
  else if gkSpace (32 * x.1) = 8 && (pa / 2 ^ 52 = 4 || pa / 2 ^ 52 = 8) then 0x0D else 0x09
/-- The recorded address of a failed destination sector (R298): the virtual address under DST-POISON and for COPY, which has
no REMOTE, and REMOTE otherwise. -/
def secAddr (c : Cmd) (st : Nat) (x : Nat × List ECell) : Dword :=
  if st = 0x09 || c.opc = 0 then BitVec.ofNat 64 (match x.2 with | y :: _ => y.va | [] => 0) else c.w 1
/-- The scope at which the writes of a sector perform (R258). -/
def secScope (x : Nat × List ECell) : Nat :=
  if gkSpace (32 * x.1) ≠ 8 then 3
  else match gkOff (32 * x.1) / 2 ^ 52 with | 0 => 3 | 2 => 5 | _ => 4

/-- What bytes of a command do once they have landed and their tag, if any, has verified: failures, credits, chunks
(R299, R303, R340, R363). -/
def landed (u : Nat) (cells : List ECell) (els : List (Nat × Nat)) (bads : List (Nat × Nat × Bool)) (s : State) : State :=
  match s.cmd? u with
  | none => s
  | some c =>
    let secs := cellSectors cells
    let ok := secs.filter (secGood bads)
    let c := secs.foldl (fun (c : Cmd) x =>
      match bads.find? fun (b : Nat × Nat × Bool) => b.1 = x.1 with
      | some b => c.fail (secStatus x b) (secAddr c (secStatus x b) x) b.2.1
      | none => c) { c with scope := secs.foldl (fun n x => max n (secScope x)) c.scope }
    let n := ok.foldl (fun n (x : Nat × List ECell) => n + x.2.length) 0
    let own : List Credit := if c.be && n ≠ 0 then [⟨c.team, c.bobj, n, u, none⟩] else []
    let r := if c.cbe then markChunks c (goodEls els fun k => ok.any fun x => x.1 = k) else (c, 0#64)
    let s := { s with
      cmds := kput s.cmds u { r.1 with landed := r.1.landed + n }
      credits := s.credits ++ own ++ (if c.opc = 1 then [] else mergeCredits (ok.flatMap (landCredit s c.party))) }
    if r.2 = 0#64 then s
    else s.modGrp c.grp fun G => { G with cb := kput G.cb c.cbk (rget G.cb c.cbk ||| r.2) }

/-- The key of a cell at its home. -/
def cellHome (s : State) (pt : Party) (c : ECell) : Nat :=
  if gkSpace c.key = 8 then (place s pt.d pt.p c.kind 2 (gkOff c.key)).key else c.key
/-- Bytes of a poisoned sector that the command writes whole in several moves: they are written under the mark, which goes
with the last of them (R300, R226). -/
def putUnder (u : Nat) (pt : Party) (x : Nat × List ECell) (s : State) : State :=
  match s.cmd? u, x.2 with
  | some c, y :: _ =>
    let k := cellHome s pt y / 32
    let got : Word := x.2.foldl (fun m (e : ECell) => m ||| (1#32 <<< (e.key % 32))) (rget c.part k)
    let s : State := { s with
      mem := x.2.foldl (fun m (e : ECell) => memSet m (32 * k + e.key % 32) e.val) s.mem
      psn := if got = BitVec.ofNat 32 (2 ^ 32 - 1) then kdel s.psn k else s.psn }
    s.modCmd u fun c => { c with part := kput c.part k got }
  | _, _ => s
/-- A failed sector is local memory or scratch, and a COPY or READ writes it whole. -/
def wholeByCmd (s : State) (u : Nat) (x : Nat × List ECell) : Bool :=
  (s.cmd? u).any fun c => c.src ≠ 4 && (c.opc = 0 || c.opc = 1) && !c.blk.isEmpty
    && (gkSpace (32 * x.1) ≠ 8 || gkOff (32 * x.1) / 2 ^ 52 = 0) && cmdCovers s c x.1
/-- Writes sectors of a command: the state and the failures (sector, reason, refused). -/
def putSecs (pt : Party) (u : Nat) (secs : KV (List ECell)) (s : State) : State × List (Nat × Nat × Bool) :=
  secs.foldl (fun (r : State × List (Nat × Nat × Bool)) x =>
    let t := engSector pt (u, 0) r.1 x
    if t.2.1 = 0 then (t.1, r.2)
    else if !t.2.2 && wholeByCmd t.1 u x then (putUnder u pt x t.1, r.2)
    else (t.1, r.2 ++ [(x.1, t.2.1, t.2.2)])) (s, [])
/-- Bytes of a command land: at once, or under a span whose tag is checked later, whole sectors cut-through (R225,
R423). -/
def sendCells (u : Nat) (far : Bool) (cells : List ECell) (els : List (Nat × Nat)) (s : State) : State :=
  match s.cmd? u with
  | none => s
  | some c =>
    let secs := cellSectors cells
    if far then
      let r := putSecs c.party u (secs.filter fun (x : Nat × List ECell) => x.2.length = 32) s
      let n := (r.1.uid)
      ((r.1.modCmd u fun c => { c with spans := kput c.spans n ⟨cells, els, 0, false, r.2⟩ })).fresh
    else
      let r := putSecs c.party u secs s
      landed u cells els r.2 r.1

/-- Copy-engine writes that match a watchpoint of the pushing group, as its registers stood at the push: one report for
each watchpoint and command (R394). -/
def watchCells (c : Cmd) (cells : List ECell) (s : State) : State :=
  let vs := (cells.filter fun (x : ECell) => gkSpace x.key = 8).map ECell.va
  let hit (k : Nat) : Option Nat := vs.find? fun a => watchHit ((c.watch[k]?).getD 0#64) 2 a 1
  s.modGrp c.grp fun G => (List.range 4).foldl (fun G k =>
    match hit k with
    | none => G
    | some a =>
      if G.cwatch.any fun (r : FailRep) => r.op = c.op && r.cause.toNat = 0x90 + k then G
      else { G with cwatch := G.cwatch ++ [⟨c.op, BitVec.ofNat 8 (0x90 + k), BitVec.ofNat 64 (a % 2 ^ 57)⟩] }) G

/-- A fault on a virtual address stalls the command and posts an entry (R307). `kind`: 0 read, 1 write. -/
def cmdFault (u : Nat) (va : Nat) (perm tpoi : Bool) (kind : Nat) (s : State) : State :=
  match s.cmd? u with
  | none => s
  | some c =>
    let r := raiseFault s c.d c.p (engFault s c.party c.grp u va perm tpoi kind)
    r.1.modCmd u fun c => { c with
      stage := .faulted
      seq := r.2.1
      pri := r.2.2
      fkind := kind
      paddr := if c.status = 0 then BitVec.ofNat 64 va else c.paddr
      ret := BitVec.ofNat 64 ((if perm then 1 else 0) + (if tpoi then 2 else 0) + 4 * va) }

/-! ### COPY -/

/-- One converted element (R302): RM, SN, WBASE and SEED of the command, no FZ. -/
def cvtElem (c : Cmd) (lin x : Nat) : Nat × Flags :=
  if c.st = c.dt then (x, 0#6)
  else
    let rnd := if c.rm = 4 then srBits (c.w 4) (c.w 5 + BitVec.ofNat 64 lin) else 0
    if c.dt = 0x0A then toFw c.rm c.wbase (elemVal c.st false x)
    else if c.st = 0x0A then convTo c.dt c.rm c.sn rnd false (fwVal c.wbase x)
    else convTo c.dt c.rm c.sn rnd false (elemVal c.st false x)

/-- The plan of one unit: its cells, elements with sectors, flags, the first poisoned source byte, and whether it crosses
the fabric; or what stops it. -/
inductive UMove where
  | ok (cells : List ECell) (els : List (Nat × Nat)) (fl : Flags) (bad : Option EByte) (far : Bool)
  | fault (kind va : Nat) (perm tpoi : Bool)
  | out (kind : Nat)
  | wait
  deriving DecidableEq, Repr

/-- The first outcome that is no access. -/
def firstStop (s : State) (pt : Party) (perm kind : Nat) : List EngR → Option UMove
  | [] => none
  | .fault va p t :: _ => some (.fault kind va p t)
  | .bounds :: _ => some (.out kind)
  | .wait :: _ => some .wait
  | r :: t => if engFree s pt perm r then firstStop s pt perm kind t else some .wait
/-- A byte that an engine reads for a command, as it stood before the command (R302). -/
def oldByte (c : Cmd) (b : EByte) : EByte :=
  match kget c.olds b.key with | some x => { b with val := x.1, mark := x.2 } | none => b
/-- The lowest reason among bytes. -/
def ebReason (bs : List EByte) : Nat := lowReason (bs.map fun b => (b.val, b.mark))
/-- Bytes of a unit's dense range that element e occupies, for elements of `w` bits below 8. -/
def inElem (w e j : Nat) : Bool := decide (w * e / 8 ≤ j) && decide (j ≤ (w * e + w - 1) / 8)
/-- The bytes of element e of a unit, from the bytes of its ranges. -/
def elemBytes (w e : Nat) (bs : List (List EByte)) : List EByte :=
  if w < 8 then ((List.range bs.flatten.length).filter (inElem w e)).filterMap fun j => bs.flatten[j]?
  else (bs[e]?).getD []
/-- The raw bits of element e of a unit. -/
def elemRaw (w e : Nat) (bs : List (List EByte)) : Nat :=
  if w < 8 then ebNat bs.flatten / 2 ^ (w * e) % 2 ^ w else ebNat ((bs[e]?).getD [])
/-- Plans the unit at element `lin` (R302); elements that the bitmap marks done are left out (R303). -/
def planUnit (s : State) (c : Cmd) (lin : Nat) : UMove :=
  let pt := c.party
  let ws := tyWidth c.st
  let wd := tyWidth c.dt
  let es := unitEls s c lin
  let keep (w e : Nat) : Bool := w < 8 || es.contains e
  let idx (xs : List (Nat × Nat)) : List (Nat × Nat × Nat) := (List.range xs.length).zip xs
  let sr := c.srcRanges lin
  let dr := c.dstRanges lin
  let chk (perm sp w : Nat) (xs : List (Nat × Nat)) : List EngR :=
    (idx xs).map fun x => if keep w x.1 then engChk s pt perm sp x.2.1 x.2.2 else .glob []
  let rs := chk 1 c.ssp ws sr
  let rd := chk 6 c.dsp wd dr
  match firstStop s pt 1 0 rs, firstStop s pt 6 1 rd with
  | some x, _ => x
  | _, some x => x
  | none, none =>
    let read (r : EngR) (va : Nat) : List EByte :=
      let xs := engBytes s pt none r
      ((List.range xs.length).zip xs).map fun (y : Nat × EByte) => oldByte c { y.2 with va := va + y.1 }
    let bs := (rs.zip sr).map fun (x : EngR × Nat × Nat) => read x.1 x.2.1
    let old := (rd.zip dr).map fun (x : EngR × Nat × Nat) => engBytes s pt none x.1
    let res (e : Nat) : Nat × Flags := cvtElem c (lin + e) (elemRaw ws e bs)
    let mk (e : Nat) : Nat := ebReason (elemBytes ws e bs)
    let bits (e : Nat) : Nat := if es.contains e then (res e).1 % 2 ^ wd else elemRaw wd e old
    let all := (List.range c.unit).foldl (fun n e => n + bits e * 2 ^ (wd * e)) 0
    let low (j : Nat) : Nat := lowReason ((es.filter fun e => inElem wd e j).map fun e => (0#8, mk e))
    let cells := ((List.range rd.length).zip (rd.zip dr)).map fun (x : Nat × EngR × Nat × Nat) =>
      if wd < 8 then
        let cs := engCells pt x.2.1 x.2.2.1 fun j => (byteOf all j, low j)
        ((List.range cs.length).zip cs).filterMap fun (y : Nat × ECell) => if es.any fun e => inElem wd e y.1 then some y.2 else none
      else engCells pt x.2.1 x.2.2.1 fun j => (byteOf (res x.1).1 j, mk x.1)
    let els := es.flatMap fun e =>
      ((if wd < 8 then cells.flatten.filter fun (x : ECell) => inElem wd e (x.va - (dr.head?.map Prod.fst).getD 0)
        else (cells[e]?).getD []).map fun (x : ECell) => x.key / 32).eraseDups.map fun k => (lin + e, k)
    .ok cells.flatten els (es.foldl (fun (f : Flags) e => if mk e = 0 then f ||| (res e).2 else f) 0#6)
      (ebBad (es.flatMap fun e => elemBytes ws e bs)) (rs.any farR || rd.any farR)

/-- Some bitmap user older than the command is not done (R303). Those that wait or have accesses to make are older: a
younger one does not issue (R232). -/
def cbOlder (s : State) (u : Nat) (c : Cmd) : Bool :=
  let G := s.grp c.grp
  (G.pend.any fun (e : Nat × Pend) => e.2.cbk = c.cbk + 1) || (G.scat.any fun (x : Scat) => x.k = c.cbk)
    || (G.blocks.any fun (b : Nat × Block) => namesCb c.cbk b.2.instr) || (G.defer.any fun (h : Held) => namesCb c.cbk h.instr)
    || s.cmds.any fun (e : Nat × Cmd) => decide (e.1 < u) && e.2.src = 2 && e.2.grp = c.grp && e.2.cbe && e.2.cbk = c.cbk
/-- Step 2 and step 3 of R303. -/
def cbInit (c : Cmd) (s : State) : State :=
  if !c.cbe then s
  else
    let none_ : Dword := maskOf ((List.range 64).filter fun k => c.total ≤ k * c.chunk)
    s.modGrp c.grp fun G =>
      { G with cb := kput G.cb c.cbk ((if c.rs then rget G.cb c.cbk else 0#64) ||| none_) }
/-- Ranges in .SP, .CL or .CH stay inside their space (R300). -/
def rangesIn (s : State) (c : Cmd) (x : Nat × List (Nat × Nat)) : Bool :=
  x.1 = 0 || x.2.all fun y => (teamKeys s c.party x.1 y.1 y.2).isSome
/-- The older commands of the queue have begun (R299). -/
def inOrder (s : State) (u : Nat) (c : Cmd) : Bool :=
  c.src = 0 || !s.cmds.any fun (e : Nat × Cmd) => decide (e.1 < u) && e.2.src = c.src && e.2.grp = c.grp && !e.2.begun
    && e.2.stage ≠ .finished
/-- The destination of a command with BE by translation (R299). -/
def beScan (s : State) (c : Cmd) : List (Nat × Tr) := if c.be && c.dstAll.1 = 0 then rangePlaces s c.party c.dstAll.2 else []
/-- A command begins (R299, R300, R303): BAD-COMMAND for a credited destination off the device, then the bitmap, then the
bounds of its spaces, with nothing written. -/
def cmdBegin (u : Nat) (s : State) : State :=
  match s.cmd? u with
  | none => s
  | some c =>
    if c.stage ≠ .block then s
    else if placesOff (beScan s c) then s.modCmd u fun c => c.ends 0x01 0 0
    else
      match placesLost (beScan s c) with
      | some x => cmdFault u x.1 false x.2 1 s
      | none =>
        (if c.opc = 0 then cbInit c s else s).modCmd u fun c =>
          if !rangesIn s c c.srcAll then (c.fail 0x0A 0 0).stop
          else if !rangesIn s c c.dstAll then (c.fail 0x0B 0 0).stop
          else { c with stage := .run, begun := true }
/-- Nothing but its turn keeps a command from beginning: the older ones of its queue have begun (R299), and for a COPY with a
bitmap those that name it have completed (R303). -/
def beginsNow (s : State) (u : Nat) (c : Cmd) : Bool :=
  c.stage = .block && inOrder s u c && !(c.opc = 0 && c.cbe && cbOlder s u c)
/-- The command's engine has one of a higher class of the same partition to start first (R406). -/
def outranked (s : State) (u : Nat) (c : Cmd) : Bool :=
  s.cmds.any fun (e : Nat × Cmd) => Config.copyEngine e.1 = Config.copyEngine u && e.2.d = c.d && e.2.p = c.p
    && decide (c.cls < e.2.cls) && beginsNow s e.1 e.2
/-- A command can begin (R299, R303, R406). -/
def beginReady (s : State) (u : Nat) (c : Cmd) : Bool := beginsNow s u c && !outranked s u c

/-- The bitmap marks every element of the unit as done (R303). -/
def unitSkip (s : State) (c : Cmd) (lin : Nat) : Bool := (unitEls s c lin).isEmpty
/-- The units of one move: at most `n` and at most 4 KiB of destination (R423), skipped ones left out. -/
def moveUnits (c : Cmd) (n : Nat) : List Nat :=
  let per := max 1 (4096 * 8 / (c.unit * max 1 (tyWidth c.dt)))
  let left := c.total / c.unit - c.next
  (List.range (min left (min (max 1 n) per))).map fun k => (c.next + k) * c.unit
/-- The plans up to the first unit that stops, the number of units covered, and what stops it. -/
def planMove (s : State) (c : Cmd) : List Nat → Nat → List UMove × Nat × Option UMove
  | [], k => ([], k, none)
  | lin :: t, k =>
    if unitSkip s c lin then planMove s c t (k + 1)
    else
      match planUnit s c lin with
      | .ok a b f g h => let r := planMove s c t (k + 1); (.ok a b f g h :: r.1, r.2.1, r.2.2)
      | x => ([], k, some x)

/-- Joins the plans of a move. -/
def joinMoves (ms : List UMove) : List ECell × List (Nat × Nat) × Flags × Option EByte × Bool :=
  ms.foldl (fun (r : List ECell × List (Nat × Nat) × Flags × Option EByte × Bool) m =>
    match m with
    | .ok a b f g h => (r.1 ++ a, r.2.1 ++ b, r.2.2.1 ||| f, r.2.2.2.1.or g, r.2.2.2.2 || h)
    | _ => r) ([], [], 0#6, none, false)

/-- The reads of a move bring coherent lines under their tags (R214, R258). -/
def copyTouch (c : Cmd) (lins : List Nat) (s : State) : State :=
  (lins.filter fun lin => !unitSkip s c lin).foldl (fun s lin =>
    (c.srcRanges lin).foldl (fun s x => engTouch c.party (engChk s c.party 1 c.ssp x.1 x.2) s) s) s
/-- The bytes that a move overwrites are kept, as they stood before the command (R302). -/
def keepOlds (u : Nat) (cells : List ECell) (s : State) : State :=
  s.modCmd u fun c => { c with olds := cells.foldl (fun m (x : ECell) =>
    let k := cellHome s c.party x
    if (kget m k).isSome then m
    else kput m k (if gkSpace x.key = 8 then l2Read s c.d c.p x.kind (gkOff x.key) else (dieByte s k, secBad s k))) c.olds }
/-- A COPY whose elements may move: one move of at most `n` units (R302). -/
def copyMove (u n : Nat) (s : State) : State :=
  match s.cmd? u with
  | none => s
  | some c =>
    let r := planMove s c (moveUnits c n) 0
    let j := joinMoves r.1
    let s := copyTouch c ((moveUnits c n).take r.2.1) s
    let s := s.modCmd u fun c =>
      let c := { c with next := c.next + r.2.1, flags := c.flags ||| j.2.2.1 }
      match j.2.2.2.1 with | some b => c.fail 0x0C (BitVec.ofNat 64 b.va) b.mark | none => c
    let s := if j.1.isEmpty then s else sendCells u j.2.2.2.2 j.1 j.2.1 (watchCells c j.1 (keepOlds u j.1 s))
    let s := match r.2.2 with
      | some (.fault k va p t) => cmdFault u va p t k s
      | some (.out k) => s.modCmd u fun c => (c.fail (0x0A + k) 0 0).stop
      | _ => s
    s.modCmd u fun c => if c.stage = .run && decide (c.total / c.unit ≤ c.next) then c.stop else c
/-- A COPY can go on. -/
def copyReady (u n : Nat) (s : State) : Bool :=
  match s.cmd? u with
  | none => false
  | some c =>
    c.opc = 0 && !c.blk.isEmpty && (beginReady s u c ||
      (c.stage = .run && (let r := planMove s c (moveUnits c n) 0; r.2.1 ≠ 0 || (r.2.2.isSome && r.2.2 ≠ some .wait))))
/-- A command begins, or goes on. -/
def beginOr (u : Nat) (f : State → State) (s : State) : State :=
  if (s.cmd? u).any fun c => c.stage = .block then cmdBegin u s else f s
/-- COPY (R301 to R303). -/
def execCopy (u n : Nat) (s : State) : Out := guardEv "COPY" (copyReady u n s) (beginOr u (copyMove u n) s)

/-! ### READ and WRITE -/

/-- The target does not admit an access of the span's length to a window (R339): none of it may go. -/
def spanRefused (s : State) (d p pa n perm : Nat) : Bool :=
  pa / 2 ^ 52 = 4 &&
    (let row := rget (s.part d p).peer (pa / 2 ^ 42 % 1024)
     row.getLsbD 0 && bf row 63 15 = 0 && (kget s.devs (bf row 10 1)).isSome && !(s.dev d).lostPeer.contains (bf row 10 1)
       && (admitted s (bf row 10 1) (bf row 14 11) d p (pa / 2 ^ 36 % 64) (pa % 2 ^ 36) n perm).isNone)
/-- The next span of a READ or WRITE: source and destination checks with their permissions, addresses and length. -/
def Cmd.moveLen (c : Cmd) : Nat := min 4096 ((c.w 3).toNat - c.next)
def remoteR (s : State) (c : Cmd) : EngR :=
  let pa := (c.w 1).toNat + c.next
  let ps := physPieces s c.d c.p pa c.moveLen
  .glob (if spanRefused s c.d c.p pa c.moveLen (if c.opc = 1 then 1 else 2) then
    ps.map fun x => { x with pa := 3 * 2 ^ 52 + x.pa % 2 ^ 52 } else ps)
def localAddr (c : Cmd) : Nat := c.localBase + c.next
def localR (s : State) (c : Cmd) (perm : Nat) : EngR := engChk s c.party perm c.dsp (localAddr c % 2 ^ 64) c.moveLen
/-- What stops the next span. -/
def moveStop (s : State) (c : Cmd) : Option UMove :=
  if c.opc = 1 then (firstStop s c.party 6 1 [localR s c 6]).or (firstStop s c.party 1 0 [remoteR s c])
  else (firstStop s c.party 1 0 [localR s c 1]).or (firstStop s c.party 6 1 [remoteR s c])
/-- One span of a READ or WRITE moves (R304). -/
def spanMove (u : Nat) (s : State) : State :=
  match s.cmd? u with
  | none => s
  | some c =>
    match moveStop s c with
    | some (.fault k va p t) => cmdFault u va p t k s
    | some (.out k) => s.modCmd u fun c => (c.fail (0x0A + k) 0 0).stop
    | some _ => s
    | none =>
      let read : Bool := c.opc = 1
      let src := if read then remoteR s c else localR s c 1
      let dst := if read then localR s c 6 else remoteR s c
      let bs := engBytes s c.party none src
      let cells := engCells c.party dst (localAddr c) fun j =>
        match bs[j]? with | some b => (b.val, b.mark) | none => (0#8, 0)
      let bad := ebBad bs
      let at_ : Nat := ((List.range bs.length).find? fun j => ((bs[j]?).any fun b => b.mark ≠ 0)).getD 0
      let s := engTouch c.party src s
      let n := c.moveLen
      let s := s.modCmd u fun c =>
        let c := { c with next := c.next + n }
        match bad with
        | some b =>
          if read then c.fail (if b.mark = 4 && b.refused then 0x0F else 0x0D) (c.w 1) b.mark
          else c.fail 0x0C (BitVec.ofNat 64 (localAddr c - n + at_)) b.mark
        | none => c
      let s := if read then watchCells c cells s else s
      let s := sendCells u true cells [] s
      s.modCmd u fun c => if decide ((c.w 3).toNat ≤ c.next) then c.stop else c
/-- A READ or WRITE can begin or go on. -/
def spanReady (o u : Nat) (s : State) : Bool :=
  match s.cmd? u with
  | none => false
  | some c => c.opc = o && (beginReady s u c || (c.stage = .run && moveStop s c ≠ some .wait))
/-- READ (R304). -/
def execRead (u : Nat) (s : State) : Out := guardEv "READ" (spanReady 1 u s) (beginOr u (spanMove u) s)
/-- WRITE (R304). -/
def execWrite (u : Nat) (s : State) : Out := guardEv "WRITE" (spanReady 2 u s) (beginOr u (spanMove u) s)

/-! ### Integrity tags -/

/-- The span's whole sectors and the sectors it covers in part. -/
def Span.whole (x : Span) : KV (List ECell) := (cellSectors x.cells).filter fun (e : Nat × List ECell) => e.2.length = 32
def Span.part (x : Span) : KV (List ECell) := (cellSectors x.cells).filter fun (e : Nat × List ECell) => e.2.length ≠ 32
/-- A span lands again after a failed tag (R423). -/
def spanResend (u : Nat) (x : Span) (s : State) : State × Span :=
  match s.cmd? u with
  | none => (s, x)
  | some c =>
    if x.bad then
      let r := putSecs c.party u x.whole s
      (r.1, { x with bad := false, bads := r.2 })
    else (s, x)
/-- The tag verifies: held sectors are merged, and the span earns its credit (R225, R423). -/
def spanPass (u n : Nat) (x : Span) (s : State) : State :=
  match s.cmd? u with
  | none => s
  | some c =>
    let s := s.modCmd u fun c => { c with spans := kdel c.spans n }
    let r := putSecs c.party u x.part s
    landed u x.cells x.els (x.bads ++ r.2) r.1
/-- The tag fails: landed sectors are poisoned, and the span is sent again; the eighth failure in a row ends the command
(R225, R423). -/
def spanFail (u n : Nat) (x : Span) (s : State) : State :=
  match s.cmd? u with
  | none => s
  | some c =>
    let s := (x.whole.filter fun (e : Nat × List ECell) => !x.bads.any fun (b : Nat × Nat × Bool) => b.1 = e.1).foldl
      (fun s (e : Nat × List ECell) => match e.2 with | y :: _ => poisonCell c.party y s | [] => s) s
    if 8 ≤ x.fails + 1 then
      s.modCmd u fun c =>
        let va : Dword := if c.opc = 0 then BitVec.ofNat 64 (match x.cells with | y :: _ => y.va | [] => 0) else c.w 1
        { (c.fail 0x0D va 1).stop with spans := kdel c.spans n }
    else s.modCmd u fun c => { c with spans := kput c.spans n { x with fails := x.fails + 1, bad := true } }
/-- Span n of command u. -/
def spanAt (u n : Nat) (s : State) : Option Span := (s.cmd? u).bind fun c => kget c.spans n
/-- The core whose write path holds entry `n`, on its way to another device or a switch (R205, R225). -/
def farEntry (s : State) (n : Nat) : Option (Nat × WLine) :=
  s.cores.findSome? fun (e : Nat × Core) => (e.2.wp.find? fun w =>
    w.seq = n && (gkOff (256 * w.line) / 2 ^ 52 = 4 || gkOff (256 * w.line) / 2 ^ 52 = 8)).map fun w => (e.1, w)
/-- The sectors that an entry covers whole, as cells of an engine. -/
def farSectors (w : WLine) : KV (List ECell) :=
  ((cellSectors (w.recs.flatMap fun r => r.cells.map fun (c : Nat × Byte) => (⟨c.1, 0, w.kind, c.2, 0⟩ : ECell))).filter
    fun (e : Nat × List ECell) => e.2.length = 32)
/-- The homes of the span's sectors can take its writes. Command 0 stands for the stores of a core (log entry 138). -/
def spanFree (u n : Nat) (s : State) : Bool :=
  if u = 0 then
    match farEntry s n with
    | some (k, w) => lineReady s k w && !(farSectors w).isEmpty
    | none => false
  else match s.cmd? u, spanAt u n s with
  | some c, some x => (cellSectors x.cells).all (engSectorFree s c.party)
  | _, _ => false
/-- The destination checks the tag of a span. A core's stores whose tag fails leave poison until they are sent again: the
entry stays in the write path (R225). -/
def tagCheck (u n : Nat) (pass : Bool) (s : State) : State :=
  if u = 0 then
    match farEntry s n with
    | some (k, w) => if pass then s else
      (farSectors w).foldl (fun s (e : Nat × List ECell) => match e.2 with
        | y :: _ => poisonCell ⟨k / 256, s.partOfCore k, 0, 0⟩ y s | [] => s) s
    | none => s
  else match spanAt u n s with
  | none => s
  | some x =>
    let r := spanResend u x s
    if pass then spanPass u n r.2 r.1 else spanFail u n r.2 r.1
/-- SPAN_TAG_CHECK (R423). -/
def execSpanTagCheck (u n : Nat) (pass : Bool) (s : State) : Out :=
  guardEv "SPAN_TAG_CHECK" (spanFree u n s) (tagCheck u n pass s)
/-- SPAN_TIMEOUT: as a tag failure (R423). -/
def execSpanTimeout (u n : Nat) (s : State) : Out := guardEv "SPAN_TIMEOUT" (spanFree u n s) (tagCheck u n false s)

end Sys2Proof.Machine
end

