-- ==== Sys2Proof/Machine/Remote.lean ====
section
/-! DEFINITION. Sys2Proof/Machine/Remote.lean: remote atomics (R304), kitty allocation (R305, R351, R425), SIGNAL (R306), byte
credits (R363) and the completion of commands (R298, R299). -/

namespace Sys2Proof.Machine
open Sys2Proof

/-! ### Atomics -/

/-- A partition's L2 drops its copy of a sector that an atomic changes at its home (R229). -/
def l2Drop (d p pa : Nat) (s : State) : State :=
  let off (x : L2Line) : L2Line :=
    if x.line = pkey d p pa / 256 then { x with valid := x.valid &&& ~~~(1#8 <<< (pa / 32 % 8)) } else x
  if (s.part d p).l2.isEmpty then s else s.modPart d p fun q => { q with l2 := q.l2.map off }
/-- One atomic of a command at a remote address: the state, the old value, the exceptions of the apply unit (R63), and the
status of a failure with its reason. -/
def remoteAtom (c : Cmd) (pa n : Nat) (f : Nat → Option (Nat × Flags)) (s : State) :
    State × Nat × Flags × Option (Nat × Nat) :=
  let k := ((s.part c.d c.p).folKind pa).1
  let refused : Bool := (place s c.d c.p k 3 pa).bad ≠ 0
  let r := atomAt (l2Drop c.d c.p pa s) c.d c.p k pa n fun o => (f o).map Prod.fst
  (r.1, r.2.1, if r.2.2 = 0 then ((f r.2.1).map Prod.snd).getD 0#6 else 0#6,
    if r.2.2 = 0 then none else some (if refused && r.2.2 = 4 then 0x0F else 0x0D, r.2.2))
/-- The place of a remote atomic. -/
def remotePlace (s : State) (c : Cmd) (pa : Nat) : Place := place s c.d c.p ((s.part c.d c.p).folKind pa).1 3 pa
/-- The apply unit can take the atomic now (R213, R214, R427). -/
def remoteFree (s : State) (c : Cmd) (pa : Nat) : Bool := let pl := remotePlace s c pa; writeFree s pl.hd pl
/-- Older atomics of the engine to the line have applied: commands of one group apply in push order (R304). -/
def atomOrder (s : State) (u : Nat) (c : Cmd) : Bool :=
  !s.cmds.any fun (e : Nat × Cmd) => decide (e.1 < u) && e.2.stage = .run && e.2.grp = c.grp && e.2.src = c.src
    && (e.2.opc = 3 || e.2.opc = 4) && (e.2.w 1).toNat / 256 = (c.w 1).toNat / 256
/-- A single atomic command applies (R304). -/
def atomCmd (u n : Nat) (f : Cmd → Nat → Option (Nat × Flags)) (s : State) : State :=
  match s.cmd? u with
  | none => s
  | some c =>
    let r := remoteAtom c (c.w 1).toNat n (f c) s
    r.1.modCmd u fun c =>
      (match r.2.2.2 with
        | some e => c.fail e.1 (c.w 1) e.2
        | none => { c with ret := BitVec.ofNat 64 r.2.1, flags := c.flags ||| r.2.2.1, scope := 4 }).stop
/-- A single atomic command can apply. -/
def atomCmdReady (o u : Nat) (s : State) : Bool :=
  match s.cmd? u with
  | none => false
  | some c => c.stage = .run && c.opc = o && inOrder s u c && remoteFree s c (c.w 1).toNat
      && ((o = 3 && c.arg / 512 % 2 = 1) || atomOrder s u c)
/-- The operand of ATOM: 128 bits for .B128 and .FW (R304). -/
def Cmd.operand (c : Cmd) : Nat := (c.w 2).toNat + 2 ^ 64 * (c.w 3).toNat
/-- COMMAND_ATOM (R304). -/
def execCommandAtom (u : Nat) (s : State) : Out :=
  guardEv "COMMAND_ATOM" (atomCmdReady 3 u s)
    (match s.cmd? u with
      | some c => atomCmd u (tyWidth c.ty / 8) (fun c o => some (atomVal c.fn c.ty o (c.operand % 2 ^ tyWidth c.ty))) s
      | none => s)
/-- COMMAND_CAS (R304). -/
def execCommandCas (u : Nat) (s : State) : Out :=
  guardEv "COMMAND_CAS" (atomCmdReady 4 u s)
    (match s.cmd? u with
      | some c =>
        let m := 2 ^ tyWidth c.ty
        atomCmd u (tyWidth c.ty / 8) (fun c o => if o = (c.w 3).toNat % m then some ((c.w 2).toNat % m, 0#6) else none) s
      | none => s)

/-- Element `c.next` of a REDUCE: its local place. -/
def reduceSrc (s : State) (c : Cmd) : EngR :=
  let n := tyWidth c.ty / 8
  engChk s c.party 1 c.dsp (((c.w 2).toNat / 8 * 8 + c.next * n) % 2 ^ 64) n
def reduceDst (c : Cmd) : Nat := (c.w 1).toNat + c.next * (tyWidth c.ty / 8)
/-- One element of a REDUCE applies (R304, R235). -/
def reduceOne (u : Nat) (s : State) : State :=
  match s.cmd? u with
  | none => s
  | some c =>
    if c.stage ≠ .run then s
    else
      let n := tyWidth c.ty / 8
      let r := reduceSrc s c
      match firstStop s c.party 1 0 [r] with
      | some (.fault k a p t) => cmdFault u a p t k s
      | some (.out k) => s.modCmd u fun c => (c.fail (0x0A + k) 0 0).stop
      | some _ => s
      | none =>
        if !remoteFree s c (reduceDst c) then s
        else
          let bs := engBytes s c.party none r
          let s := engTouch c.party r s
          let step (c : Cmd) : Cmd :=
            let c := { c with next := c.next + 1 }
            if decide ((c.w 3).toNat ≤ c.next) then c.stop else c
          match ebBad bs with
          | some b => s.modCmd u fun c => step (c.fail 0x0C (c.w 1) b.mark)
          | none =>
            let t := remoteAtom c (reduceDst c) n (fun o => some (atomVal c.fn c.ty o (ebNat bs))) s
            t.1.modCmd u fun c => step (match t.2.2.2 with
              | some e => c.fail e.1 (c.w 1) e.2
              | none => { c with flags := c.flags ||| t.2.2.1, scope := 4 })
/-- A REDUCE can begin or go on. -/
def reduceReady (u : Nat) (s : State) : Bool :=
  match s.cmd? u with
  | none => false
  | some c => c.opc = 5 && (beginReady s u c ||
      (c.stage = .run && firstStop s c.party 1 0 [reduceSrc s c] ≠ some .wait
        && ((firstStop s c.party 1 0 [reduceSrc s c]).isSome || remoteFree s c (reduceDst c))))
/-- REDUCE: at most n elements, at least one (R304). -/
def execReduce (u n : Nat) (s : State) : Out :=
  guardEv "REDUCE" (reduceReady u s)
    (beginOr u (fun s => (List.range (max 1 n)).foldl (fun s _ => reduceOne u s) s) s)

/-! ### Kitty allocation -/

/-- Bytes of each switch that an allocation charges (R351). -/
def chargesOf (base size : Nat) : List (Nat × Nat) :=
  if base / 2 ^ 43 = 0 then (List.range 64).map fun w => (w, size / 64)
  else if base / 2 ^ 36 % 2 = 0 then [(base / 2 ^ 37 % 64, size)]
  else [(base / 2 ^ 37 % 64, size), (base / 2 ^ 30 % 64, size)]
/-- Doubleword i of row r of a switch's quota table (R351). -/
def qkey (w r i : Nat) : Nat := (w * 4096 + r) * 4 + i
/-- The row of a tenant on a switch: the lowest valid one that names it, or none (R351). -/
def State.quoRow (s : State) (w t : Nat) : Option Nat :=
  (s.quota.find? fun (e : Nat × Dword) =>
    e.1 / 4 / 4096 = w && e.1 % 4 = 2 && e.2.getLsbD 63 && bf e.2 11 0 = t).map fun e => e.1 / 4 % 4096
/-- Doubleword i of a tenant's quota row on a switch (R351). -/
def State.quo (s : State) (w t i : Nat) : Dword :=
  match s.quoRow w t with | some r => rget s.quota (qkey w r i) | none => 0#64
/-- The row admits a charge of `n` bytes (R351). -/
def quotaOk (s : State) (t : Nat) (x : Nat × Nat) : Bool :=
  let a := s.quo x.1 t 0; let b := s.quo x.1 t 1
  (s.quo x.1 t 2).getLsbD 63 && decide (bf a 31 0 + x.2 / 32768 ≤ bf a 63 32) && decide (bf b 15 0 + 1 ≤ bf b 31 16)
/-- Charges a switch, or returns a charge (R351). -/
def quotaAdd (t : Nat) (up : Bool) (s : State) (x : Nat × Nat) : State :=
  match s.quoRow x.1 t with
  | none => s
  | some r =>
    let a := s.quo x.1 t 0; let b := s.quo x.1 t 1
    let n := x.2 / 32768
    let u := if up then bf a 31 0 + n else bf a 31 0 - n
    let k := if up then bf b 15 0 + 1 else bf b 15 0 - 1
    let q := kput s.quota (qkey x.1 r 0) (BitVec.ofNat 64 (bf a 63 32 * 2 ^ 32 + u))
    { s with quota := kput q (qkey x.1 r 1) (BitVec.ofNat 64 (bf b 63 16 * 2 ^ 16 + k)) }
/-- The zone of an allocation (R425): its first offset and its size. -/
def zoneOf (arg : Nat) : Nat × Nat :=
  match arg % 4 with
  | 0 => (0, 2 ^ 43)
  | 1 => (2 ^ 43 + arg / 4 % 64 * 2 ^ 37, 2 ^ 36)
  | _ => (2 ^ 43 + arg / 4 % 64 * 2 ^ 37 + 2 ^ 36 + arg / 256 % 64 * 2 ^ 30, 2 ^ 30)
/-- The window of the second mirror for the first (R425). -/
def twinZone (arg : Nat) : Nat := 2 ^ 43 + arg / 256 % 64 * 2 ^ 37 + 2 ^ 36 + arg / 4 % 64 * 2 ^ 30
/-- Ranges in use in a zone, relative to its base; for a mirrored zone on both switches. -/
def usedIn (s : State) (arg : Nat) : List (Nat × Nat) :=
  let z := zoneOf arg
  let at_ (lo n : Nat) : List (Nat × Nat) := s.allocs.filterMap fun (a : Alloc) =>
    if lo ≤ a.base && a.base < lo + n then some (a.base - lo, a.size) else none
  at_ z.1 z.2 ++ (if 2 ≤ arg % 4 then at_ (twinZone arg) z.2 else [])
/-- The lowest free place of a size in a zone (R305). -/
def firstFit (size zone : Nat) (used : List (Nat × Nat)) : Option Nat :=
  let starts := 0 :: used.map fun (x : Nat × Nat) => x.1 + x.2
  let ok (b : Nat) : Bool := decide (b + size ≤ zone) &&
    used.all fun (x : Nat × Nat) => decide (b + size ≤ x.1) || decide (x.1 + x.2 ≤ b)
  (starts.filter ok).foldl (fun (m : Option Nat) b => match m with | none => some b | some x => some (min x b)) none

/-- A KALLOC is served (R305): QUOTA when a row refuses or the zone has no room, NO-DEVICE for an unreachable switch. -/
def kallocDo (u : Nat) (s : State) : State :=
  match s.cmd? u with
  | none => s
  | some c =>
    let t := (s.dev c.d).tenant c.p
    let size := (c.w 1).toNat
    let z := zoneOf c.arg
    let ch := chargesOf z.1 size
    let fit := firstFit size z.2 (usedIn s c.arg)
    if (ch.any fun (x : Nat × Nat) => !s.swLost x.1 && !quotaOk s t x) || fit.isNone then
      s.modCmd u fun c => (c.fail 0x0E 0 0).stop
    else if ch.any fun (x : Nat × Nat) => s.swLost x.1 then s.modCmd u fun c => (c.fail 0x0F 0 0).stop
    else
      let base := z.1 + fit.getD 0
      let s := ch.foldl (quotaAdd t true) s
      let s := { s with allocs := s.allocs ++ ([⟨t, base, size, []⟩] : List Alloc) }
      s.modCmd u fun c => (Cmd.stop { c with ret := BitVec.ofNat 64 base })
/-- No switch that the command needs stalls it: its device has learned of every loss (R427). -/
def switchesKnown (s : State) (d : Nat) (ws : List Nat) : Bool :=
  ws.all fun w => !s.swLost w || (s.dev d).lostSw.contains w
/-- The allocator can serve the command: on q2 commands start in push order, on q6 they wait for no copy (R305). -/
def kReady (o u : Nat) (s : State) : Bool :=
  match s.cmd? u with
  | none => false
  | some c => c.stage = .run && c.opc = o && inOrder s u c &&
      switchesKnown s c.d (if o = 6 then (chargesOf (zoneOf c.arg).1 (c.w 1).toNat).map Prod.fst else [])
/-- KALLOC (R305). -/
def execKalloc (u : Nat) (s : State) : Out := guardEv "KALLOC" (kReady 6 u s) (kallocDo u s)
/-- A KFREE is served: the charges on surviving switches are returned (R305, R351, R427). -/
def kfreeDo (u : Nat) (s : State) : State :=
  match s.cmd? u with
  | none => s
  | some c =>
    let t := (s.dev c.d).tenant c.p
    match s.allocs.find? fun (a : Alloc) => a.tenant = t && a.base = (c.w 1).toNat with
    | none => s.modCmd u fun c => { c with status := 0x01, stage := .finished }
    | some a =>
      let s := ((chargesOf a.base a.size).filter fun (x : Nat × Nat) => !s.swLost x.1).foldl (quotaAdd t false) s
      let s := { s with allocs := s.allocs.erase a }
      s.modCmd u Cmd.stop
/-- KFREE (R305). -/
def execKfree (u : Nat) (s : State) : Out := guardEv "KFREE" (kReady 7 u s) (kfreeDo u s)

/-! ### SIGNAL, credits, completion -/

/-- Every older q2 command of the group has completed (R306). -/
def signalReady (u : Nat) (s : State) : Bool :=
  match s.cmd? u with
  | none => false
  | some c => c.stage = .run && c.opc = 8 &&
      !s.cmds.any fun (e : Nat × Cmd) => decide (e.1 < u) && e.2.src = 2 && e.2.grp = c.grp
/-- SIGNAL credits its object and completes (R306, R363). -/
def signalDo (u : Nat) (s : State) : State :=
  match s.cmd? u with
  | none => s
  | some c =>
    let s := { s with credits := s.credits ++ ([⟨c.team, c.bobj, bf (c.w 1) 31 0, u, none⟩] : List Credit) }
    s.modCmd u Cmd.stop
/-- SIGNAL (R306). -/
def execSignal (u : Nat) (s : State) : Out := guardEv "SIGNAL" (signalReady u s) (signalDo u s)

/-- The team of a partition that holds a group slot in a bank of a logical core (R340). -/
def teamAt (s : State) (d p lc b slot : Nat) : Option (Nat × Nat) :=
  match (s.dev d).physOf p lc with
  | none => none
  | some ph =>
    let k := coreKey d ph
    let bk := if b = 0 then (s.core k).b0 else (s.core k).b1
    if bk.st = .empty then none
    else ((s.cont bk.cont).teams.find? fun t => (s.team t).groups.any fun g => (s.grp g).slot = slot).map fun t => (k, t)
/-- Credit n applies to its object, or is discarded and counted (R340, R356, R363). -/
def creditApply (n : Nat) (s : State) : State :=
  match s.credits[n]? with
  | none => s
  | some c =>
    let s := { s with credits := s.credits.eraseIdx n }
    match c.land with
    | none => if (kget s.teams c.team).isSome then creditBar c.team c.obj c.bytes s else s
    | some (d, p, lc, b, slot) =>
      match teamAt s d p lc b slot with
      | some (_, t) => creditBar t c.obj c.bytes s
      | none => match (s.dev d).physOf p lc with | some ph => s.perfIn (coreKey d ph) b 0x0D 1 | none => s
/-- Two credits of one operation, or of one window to one object, whose order counts (R359). -/
def sameSource (a b : Credit) : Bool := (a.cmd = b.cmd && a.cmd ≠ 0) || (a.land = b.land && a.land.isSome && a.obj = b.obj)
/-- A credit is due: it is the oldest of its operation (R359), and every write of its command or drain that a mirror must
apply has performed (R257, R363). -/
def creditDue (n : Nat) (s : State) : Bool :=
  match s.credits[n]? with
  | some c => !((s.credits.take n).any (sameSource c)) &&
      (c.cmd = 0 || !s.mlog.any fun (x : MirrorUp) => x.op = (c.cmd, 0))
  | none => false
/-- BYTE_CREDIT (R363). -/
def execByteCredit (n : Nat) (s : State) : Out := guardEv "BYTE_CREDIT" (creditDue n s) (creditApply n s)

/-- A record word of q3 or q5 (R298). -/
def recordWord (tag : Nat) (val : Bool) (flags : Flags) (status : Nat) : Dword :=
  BitVec.ofNat 64 (tag * 2 ^ 48 + (if val then 2 ^ 14 else 0) + flags.toNat * 2 ^ 8 + status % 256)
/-- A status that marks its record (R298). -/
def poisonStatus (st : Nat) : Bool := st = 0x0C || st = 0x0D || st = 0x09
/-- A record and the value that follows it, as one run (R298). -/
def recordRun (tag : Nat) (flags : Flags) (status reason : Nat) (va : Dword) (val : Option Dword) : List QEntry :=
  let m := if poisonStatus status then reason else 0
  ⟨recordWord tag val.isSome flags status, m, va⟩ :: (val.toList.map fun v => ⟨v, m, va⟩)
/-- The entries a completed command pushes to q3 (R298). -/
def cmdRecord (c : Cmd) : List QEntry :=
  let returns : Bool := c.rv && (c.opc = 3 || c.opc = 4 || c.opc = 6)
  if c.status = 0 && !c.nt && !returns then []
  else recordRun c.tag c.flags c.status c.reason c.paddr (if returns then some (if c.status = 0 then c.ret else 0) else none)
/-- Nothing of the command is outstanding (R299, R426). -/
def cmdQuiet (s : State) (u : Nat) (c : Cmd) : Bool :=
  c.spans.isEmpty && !(s.credits.any fun (x : Credit) => x.cmd = u) && !s.mlog.any fun (x : MirrorUp) => x.op = (u, 0)
/-- A command of q2, q6 or a COPY node is complete. -/
def cmdComplete (u : Nat) (s : State) : Bool :=
  match s.cmd? u with
  | none => false
  | some c => c.stage = .finished && c.src ≠ 4 && cmdQuiet s u c
/-- The status of a graph node whose command ended with a status (R348). -/
def nodeStatus (st : Nat) : Nat := if st = 0 then 0x02 else if st = badFlags then 0x10 else 0x40 + st
/-- The command retires: its record, its place in the copy counter, or its node (R298, R299, R347); one that an audit has made
done leaves neither (R367). -/
def cmdRetire (u : Nat) (s : State) : State :=
  match s.cmd? u with
  | none => s
  | some c =>
    let s := { s with cmds := kdel s.cmds u }
    let s := if c.reason = 3 then viralIrq c.d c.asid s else s
    if c.src = 0 then s.modNode c.node fun n => { n with status := some (nodeStatus c.status), st := 1 }
    else if c.quiet || (kget s.groups c.grp).isNone then s
    else
      let s := s.perfGrp c.grp 0x0C 1
      let s := if c.cnt then s.modGrp c.grp fun G => (G.noteOp 2 c.op c.scope).doneOp 2 c.op else s
      pushResult c.grp 3 2 (cmdRecord c) s
/-- The request that a home must have before a command can go on (R214). -/
def cmdWant (s : State) (c : Cmd) : Option (HKind × Nat × Nat) :=
  let pt := c.party
  let side (perm sp : Nat) (xs : List (Nat × Nat)) : Option (HKind × Nat × Nat) :=
    xs.findSome? fun x => engWant s pt perm (engChk s pt perm sp x.1 x.2)
  let apply (pa : Nat) : Option (HKind × Nat × Nat) := let pl := remotePlace s c pa; wantOf s pl.hd true pl
  let spans := c.spans.findSome? fun (e : Nat × Span) => (cellSectors e.2.cells).findSome? (engSectorWant s pt)
  if c.stage ≠ .run then spans
  else match c.opc with
    | 0 =>
      let lin := c.next * c.unit
      ((side 1 c.ssp (c.srcRanges lin)).or (side 6 c.dsp (c.dstRanges lin))).or spans
    | 1 => ((engWant s pt 6 (localR s c 6)).or (engWant s pt 1 (remoteR s c))).or spans
    | 2 => ((engWant s pt 1 (localR s c 1)).or (engWant s pt 6 (remoteR s c))).or spans
    | 3 | 4 => apply (c.w 1).toNat
    | 5 => (engWant s pt 1 (reduceSrc s c)).or (apply (reduceDst c))
    | _ => spans
/-- COMMAND_COMPLETION (R299). -/
def execCommandCompletion (u : Nat) (s : State) : Out := guardEv "COMMAND_COMPLETION" (cmdComplete u s) (cmdRetire u s)

end Sys2Proof.Machine
end

