-- ==== Sys2Proof/Machine/MatrixEngine.lean ====
section
/-! DEFINITION. Sys2Proof/Machine/MatrixEngine.lean: the matrix array: block reads, starts, products, drains and completions (R274 to
R285, R64 to R66, R405). -/

namespace Sys2Proof.Machine
open Sys2Proof

/-! ### Fields and places -/

/-- The A and B formats and their slot extents (R262, R278); 0 for any other type. -/
def tileExtent (t : Nat) : Nat :=
  match t with
  | 0x02 | 0x03 => 64
  | 0x04 | 0x05 | 0x16 | 0x17 => 128
  | 0x06 | 0x07 => 160
  | 0x08 | 0x18 => 256
  | _ => 0
/-- The drain types (R278). -/
def drainType (t : Nat) : Bool :=
  [0x00, 0x02, 0x03, 0x04, 0x05, 0x06, 0x07, 0x08, 0x10, 0x16, 0x17, 0x18, 0x0A].contains t
/-- The length of a K-block (R64, R278). -/
def MOp.kblock (o : MOp) : Nat := if tyWidth o.ta = 16 && tyWidth o.tb = 16 then 16 else 32
/-- K-blocks of an operation. -/
def MOp.kblocks (o : MOp) : Nat := (o.k + o.kblock - 1) / o.kblock
/-- Bytes of one destination row (R280). -/
def MOp.rowBytes (o : MOp) : Nat := o.n * tyWidth o.dt / 8
/-- The party of an operation's pushing group. -/
def MOp.party (s : State) (o : MOp) : Party := partyOf s o.grp
/-- An operation of a bank content. -/
def State.mop? (s : State) (c u : Nat) : Option MOp := kget (s.cont c).mq u
/-- Changes an operation. -/
def State.modMOp (s : State) (c u : Nat) (f : MOp → MOp) : State := s.modCont c fun x => { x with mq := kmod x.mq u f }

/-- Checks one destination row (R223, R198). An add-on-store accesses each element as an atomic. -/
def rowChk (s : State) (o : MOp) (m : Nat) : EngR :=
  let a := (o.daddr + m * o.dstride) % 2 ^ 64
  if o.aos && o.dt = 0x0A && a % 16 ≠ 0 then .bounds
  else engChk s (o.party s) (if o.aos then 3 else 2) o.dsp a o.rowBytes
/-- Joins rows in either kind of space; the first failure stands. -/
def rowsJoin : List EngR → EngR
  | [] => .glob []
  | r :: t =>
    match r, rowsJoin t with
    | .glob a, .glob b => .glob (a ++ b)
    | .keys a, .keys b => .keys (a ++ b)
    | .keys a, .glob [] => .keys a
    | .glob _, x => x
    | .keys _, x => x
    | x, _ => x
/-- The destination of a drain, row after row. -/
def dstChk (s : State) (o : MOp) : EngR := rowsJoin ((List.range o.m).map (rowChk s o))
/-- A destination byte lies outside the device, by translation (R259, R276). -/
def dstOff (s : State) (o : MOp) : Bool :=
  o.dsp = 0 && placesOff (rangePlaces s (o.party s)
    ((List.range o.m).map fun m => ((o.daddr + m * o.dstride) % 2 ^ 64, o.rowBytes)))

/-! ### MATRIX_BLOCK_READ -/

/-- The fields that R275 reserves are zero, and the drain options fit together (R276). -/
def blockOk (s : State) (o : MOp) : Bool :=
  bf (o.dw 0) 47 33 = 0 && bf (o.dw 1) 63 53 = 0 && bf (o.dw 3) 63 32 = 0 && o.dw 6 = 0#64 && o.dw 7 = 0#64
    && decide (o.dsp ≤ 3) && (o.dr || !(o.be || o.aos)) && !(o.be && dstOff s o)
/-- The formats are accepted (R276, R278). -/
def formatOk (o : MOp) : Bool :=
  tileExtent o.ta ≠ 0 && tileExtent o.tb ≠ 0 && drainType o.dt && !(o.mxa && tyWidth o.ta = 16)
    && !(o.mxb && tyWidth o.tb = 16) && (!o.aos || o.dt = 0x00 || o.dt = 0x0A)
/-- The shape fits (R276). -/
def shapeOk (c : Cont) (o : MOp) : Bool :=
  decide (o.k ≤ min (tileExtent o.ta) (tileExtent o.tb))
    && (!c.fwr o.ct || (o.regions c).all fun t => decide (t < 4) && c.fwr t)
    && (!o.dr || (o.n * tyWidth o.dt % 8 = 0 && o.dstride % 8 = 0 && decide (o.rowBytes ≤ o.dstride)
      && !(o.aos && o.dt = 0x0A && o.daddr % 16 ≠ 0)))
    && (!o.bypass || (tileExtent o.dt ≠ 0 && decide (o.n ≤ tileExtent o.dt)))
/-- The checks of a block that was read (R276): 0 when it passes. -/
def blockStatus (s : State) (c : Cont) (o : MOp) : Nat :=
  if !blockOk s o then 0x01
  else if !formatOk o then 0x02
  else if decide (5 ≤ o.rm) || (o.rm = 4 && !srAllowed o.dt) then 0x03
  else if !shapeOk c o then 0x04
  else if (o.srcSlots ++ (if o.bypass then [o.byslot] else [])).any fun k => !c.claimed k then 0x05
  else 0
/-- The oldest operation of a content whose block has not been read. -/
def unreadHead (c : Cont) : Option (Nat × MOp) := c.mq.find? fun (e : Nat × MOp) => e.2.stage = .pushed
/-- The operation as its block read leaves it (R274, R276); none while the block cannot be read. The record of a block that
was not clean has TAG as far as it read clean (log entry 135), and an entry that carries a mark names no block (R287; log
entry 134). -/
def readOp (s : State) (c : Cont) (o : MOp) : Option MOp :=
  match c.at? with
  | none => none
  | some (core, _) =>
    let bad (st : Nat) : MOp := { o with status := st, stage := .finished, core := core }
    if o.mark ≠ 0 then some (bad 0x0A)
    else if !valOk o.val then some (bad 0x01)
    else
      match readBlk s (o.party s) (grpCore s o.grp) (valSp o.val) (valAddr o.val) 64 with
      | .wait => none
      | .fault => some (bad 0x08)
      | .poison _ ws _ => some { bad 0x0A with blk := ws }
      | .ok ws =>
        let o : MOp := { o with blk := ws, core := core }
        let st := blockStatus s c o
        some (if st = 0 then { o with stage := .queued } else { o with status := st, stage := .finished })
/-- Operations of a bank whose blocks have been read and that have not started: QCNT (R268). -/
def Cont.waitingOps (c : Cont) : Nat := (c.mq.filter fun (e : Nat × MOp) => e.2.stage = .queued).length
/-- The block read that is due for a content: the matrix queue holds 32 operations (R268, R274). -/
def blockDue (s : State) (k : Nat) : Option (Nat × MOp) :=
  match if 32 ≤ (s.cont k).waitingOps then none else unreadHead (s.cont k) with
  | some (u, o) => (readOp s (s.cont k) o).map fun x => (u, x)
  | none => none
/-- MATRIX_BLOCK_READ (R274, R276). -/
def execMatrixBlockRead (k : Nat) (s : State) : Out :=
  guardEv "MATRIX_BLOCK_READ" (blockDue s k).isSome
    (match blockDue s k with
      | some x => s.modMOp k x.1 fun _ => x.2
      | none => s)

/-! ### MATRIX_OPERATION_START -/

/-- The class of a bank content: that of its highest team (R399, R405). -/
def contClass (s : State) (k : Nat) : Nat := (s.cont k).teams.foldl (fun m t => max m (s.team t).cls) 0
/-- A bank of a core. -/
def Core.bank (c : Core) (b : Nat) : Bank := if b = 0 then c.b0 else c.b1
/-- Operations whose array a core is: content, number, operation. -/
def opsOf (s : State) (core : Nat) : List (Nat × Nat × MOp) :=
  s.conts.flatMap fun (e : Nat × Cont) => (e.2.mq.filter fun (x : Nat × MOp) => x.2.core = core).map fun (x : Nat × MOp) => (e.1, x.1, x.2)
/-- The array's drain buffers in use (R284). -/
def buffersUsed (s : State) (core : Nat) : Nat :=
  ((opsOf s core).filter fun (x : Nat × Nat × MOp) =>
    (x.2.2.stage = .products || x.2.2.stage = .convert) && (x.2.2.dr || x.2.2.bypass)).length
/-- The operation reads or writes what an older one of the bank has still to read or write (R274, R281, R284). -/
def mustFollow (c : Cont) (o old : MOp) : Bool :=
  old.stage = .convert &&
    ((o.regions c).any (fun t => (old.regions c).contains t) || (old.bypass && o.srcSlots.contains old.byslot))
/-- The head of a bank's matrix queue when it may start (R284, R378, R405): TFILLs of its slots that issued before have read
their bytes (R270). -/
def startHead (s : State) (core b : Nat) : Option (Nat × Nat × MOp) :=
  let bk := (s.core core).bank b
  if bk.st ≠ .active && bk.st ≠ .inactive && bk.st ≠ .clean then none
  else
    let c := s.cont bk.cont
    match c.mq.find? fun (e : Nat × MOp) => e.2.stage = .queued with
    | none => none
    | some (u, o) =>
      if c.mq.any fun (e : Nat × MOp) => decide (e.1 < u) && mustFollow c o e.2 then none
      else if (o.dr || o.bypass) && decide (2 ≤ buffersUsed s core) then none
      else if o.dr && dstChk s o = .wait then none
      else if (o.srcSlots ++ (if o.bypass then [o.byslot] else [])).any fun t =>
        fillOpen s bk.cont (16384 * t) (16384 * (t + 1)) then none
      else some (bk.cont, u, o)
/-- The bank whose head the array takes (R405). -/
def startPick (s : State) (core : Nat) : Option (Nat × Nat × Nat × MOp) :=
  let h0 := (startHead s core 0).map fun x => (0, x)
  let h1 := (startHead s core 1).map fun x => (1, x)
  match h0, h1 with
  | some a, some b =>
    let ca := contClass s a.2.1; let cb := contClass s b.2.1
    if ca < cb then some b else if cb < ca then some a
    else if (s.core core).arrLast = 1 then some b else some a
  | some a, none => some a
  | none, y => y
/-- The array is free: no products of it are running. -/
def arrayFree (s : State) (core : Nat) : Bool :=
  !(opsOf s core).any fun (x : Nat × Nat × MOp) => x.2.2.stage = .products
/-- An operation of a content holds its slots or regions: it is in its product stage or its conversion (R378). -/
def opRunning (s : State) (k : Nat) : Bool :=
  (s.cont k).mq.any fun (e : Nat × MOp) => e.2.stage = .products || e.2.stage = .convert
/-- A group of a content has accesses that have issued and are still to be made (R378). -/
def accessesOpen (s : State) (k : Nat) : Bool :=
  (s.groupsOf k).any fun g => !(s.grp g).defer.isEmpty || (s.grp g).pend.any fun (e : Nat × Pend) => !e.2.made
/-- The sectors that products read, as operand bytes (R276): operand rows and scales. -/
def readSectors (o : MOp) : List Nat :=
  let row (slot rows t : Nat) : List Nat :=
    let n := (o.k * tyWidth t + 7) / 8
    (List.range rows).flatMap fun r => (List.range ((n + 31) / 32)).map fun j => 16384 * slot + 128 * r + 32 * j
  let sc (on : Bool) (ss so rows : Nat) : List Nat :=
    if on then (List.range rows).map fun r => 16384 * ss + 1024 * so + 8 * r else []
  if o.k = 0 then []
  else row o.sa o.m o.ta ++ row o.sb o.n o.tb ++ sc o.mxa o.ssa o.soa o.m ++ sc o.mxb o.ssb o.sob o.n
/-- The checks at the start of the product stage (R276): the status and the checked destination. -/
def startStatus (s : State) (k : Nat) (o : MOp) : Nat × List EPiece :=
  if (readSectors o).any fun a => secBad s (operandKey k a) ≠ 0 then (0x06, [])
  else if !o.dr then (0, [])
  else match dstChk s o with
    | .glob ps => (0, ps)
    | .keys _ => (0, [])
    | _ => (0x07, [])
/-- The array takes an operation, after the TFILLs that wrote its slots have landed (R270, R276, R405). -/
def startOp (core : Nat) (s : State) : State :=
  match startPick s core with
  | none => s
  | some (b, k, u, o) =>
    let s := (o.srcSlots ++ (if o.bypass then [o.byslot] else [])).foldl
      (fun s t => landFills k (16384 * t) (16384 * (t + 1)) s) s
    let r := startStatus s k o
    let s := s.modCore core fun c => { c with arr := some (k, u), arrLast := b + 1 }
    s.modMOp k u fun o =>
      if r.1 = 0 then { o with stage := .products, core := core, dst := r.2 }
      else { o with stage := .finished, status := r.1 }
/-- MATRIX_OPERATION_START (R276, R284, R405). -/
def execMatrixOperationStart (core : Nat) (s : State) : Out :=
  guardEv "MATRIX_OPERATION_START" (arrayFree s core && (startPick s core).isSome) (startOp core s)

/-! ### MATRIX_PRODUCTS -/

/-- Element k of a tile row (R262, R46). -/
def tileElem (m : Mem) (cid slot row t k : Nat) : Nat :=
  let b := k * tyWidth t
  memLe m (operandKey cid (16384 * slot + 128 * row + b / 8)) 2 / 2 ^ (b % 8) % 2 ^ tyWidth t
/-- The scale of a row and K-block (R275); 1 on a side without scales (R278). -/
def tileScale (m : Mem) (cid : Nat) (on : Bool) (ss so row q : Nat) : FV :=
  if on then e8m0 (memGet m (operandKey cid (16384 * ss + 1024 * so + 8 * row + q))).toNat else .fin false 1 0
/-- One scaled product, with the flag of an invalid one (R64, R66, R63). -/
def scaledProduct (a sa b sb : FV) : FV × Flags :=
  if fvIsNan a || fvIsNan b || fvIsNan sa || fvIsNan sb then (.nan false, snanFlag [a, b])
  else
    match fvMul a sa, fvMul b sb with
    | some x, some y => (match fvMul x y with | some z => (z, 0#6) | none => (.nan false, fNV))
    | _, _ => (.nan false, fNV)
/-- The exact sum of a block (R64, R66). -/
def blockSum (ps : List (FV × Flags)) : FV × Flags :=
  let fl := ps.foldl (fun (f : Flags) (x : FV × Flags) => f ||| x.2) 0#6
  let up : Bool := ps.any fun (x : FV × Flags) => x.1 = .inf false
  let dn : Bool := ps.any fun (x : FV × Flags) => x.1 = .inf true
  let fl := if up && dn then fl ||| fNV else fl
  if (up && dn) || ps.any fun (x : FV × Flags) => fvIsNan x.1 then (.nan false, fl)
  else if up then (.inf false, fl)
  else if dn then (.inf true, fl)
  else
    let t := ps.foldl (fun (a : Int × Int) (x : FV × Flags) => dyAdd a (fvDy x.1)) (0, 0)
    (fvOfInt t.1 t.2, fl)
/-- The products of K-block q of output (m, n). -/
def blockProducts (mem : Mem) (cid : Nat) (o : MOp) (m n q : Nat) : List (FV × Flags) :=
  let l := o.kblock
  let sa := tileScale mem cid o.mxa o.ssa o.soa m q
  let sb := tileScale mem cid o.mxb o.ssb o.sob n q
  (List.range (min l (o.k - l * q))).map fun j =>
    scaledProduct (elemVal o.ta false (tileElem mem cid o.sa m o.ta (l * q + j))) sa
      (elemVal o.tb false (tileElem mem cid o.sb n o.tb (l * q + j))) sb
/-- One block enters an accumulator element (R64, R53). -/
def accStep (fw : Bool) (base : Int) (acc : Nat × Flags) (b : FV × Flags) : Nat × Flags :=
  if fw then
    let v := toFw 0 base b.1
    ((acc.1 + v.1) % 2 ^ 128, acc.2 ||| b.2 ||| v.2)
  else
    let v := fvTo 0 0 false 0 b.1
    let r := fArithBits 0 0 0 false acc.1 v.1
    (r.1, acc.2 ||| b.2 ||| v.2 ||| r.2)
/-- Accumulator byte of element (m, n) (R263). -/
def accOff (fw : Bool) (ct m n : Nat) : Nat := 65536 * ct + (if fw then 2048 * m + 16 * n else 512 * m + 4 * n)
/-- The value of output (m, n) (R279). -/
def accElem (s : State) (k : Nat) (o : MOp) (m n : Nat) : Nat × Flags :=
  let c := s.cont k
  let fw := c.fwr o.ct
  let old := if o.acc then memLe s.mem (accKey k (accOff fw o.ct m n)) (if fw then 16 else 4) else 0
  (List.range o.kblocks).foldl (fun a q => accStep fw c.wbase a (blockSum (blockProducts s.mem k o m n q))) (old, 0#6)
/-- Writes `n` little-endian bytes of a value. -/
def memPutLe (m : Mem) (a v n : Nat) : Mem := (List.range n).foldl (fun m j => memSet m (a + j) (byteOf v j)) m
/-- The elements of a tile in row order. -/
def MOp.elems (o : MOp) : List (Nat × Nat) := (List.range o.m).flatMap fun m => (List.range o.n).map fun n => (m, n)
/-- The product stage ends: the tile holds its new elements (R279); the operation goes on to its conversion or its end. -/
def productsDone (k u : Nat) (o : MOp) (s : State) : State :=
  let fw := (s.cont k).fwr o.ct
  let r := o.elems.map fun (e : Nat × Nat) => (e, accElem s k o e.1 e.2)
  let fl := r.foldl (fun (f : Flags) (x : (Nat × Nat) × Nat × Flags) => f ||| x.2.2) 0#6
  let s := { s with mem := r.foldl (fun m (x : (Nat × Nat) × Nat × Flags) =>
    memPutLe m (accKey k (accOff fw o.ct x.1.1 x.1.2)) x.2.1 (if fw then 16 else 4)) s.mem }
  let s := s.modCore o.core fun c => { c with arr := none }
  s.modMOp k u fun o => { o with flags := o.flags ||| fl, stage := if o.dr || o.bypass then .convert else .finished }
/-- The operation of an array in a stage, the oldest first. -/
def opIn (s : State) (core : Nat) (st : MStage) : Option (Nat × Nat × MOp) :=
  (opsOf s core).foldl (fun (r : Option (Nat × Nat × MOp)) x =>
    if x.2.2.stage = st then (match r with | some y => if x.2.1 < y.2.1 then some x else r | none => some x) else r) none
/-- MATRIX_PRODUCTS (R279). -/
def execMatrixProducts (core : Nat) (s : State) : Out :=
  guardEv "MATRIX_PRODUCTS" (opIn s core .products).isSome
    (match opIn s core .products with
      | some (k, u, o) => productsDone k u o s
      | none => s)

/-! ### DRAIN -/

/-- A converted tile element (R280): its encoding and flags. -/
def drainElem (s : State) (k : Nat) (o : MOp) (m n : Nat) : Nat × Flags :=
  let c := s.cont k
  let fw := c.fwr o.ct
  let raw := memLe s.mem (accKey k (accOff fw o.ct m n)) (if fw then 16 else 4)
  if fw && o.dt = 0x0A then (raw, 0#6)
  else
    let v := if fw then fwVal c.wbase raw else elemVal 0 false raw
    if o.dt = 0x0A then toFw o.rm c.wbase v
    else
      let rnd := if o.rm = 4 then
        srBits o.seed (BitVec.ofNat 64 ((o.row0 + m) * 2 ^ 32 + o.col0 + n)) else 0
      convTo o.dt o.rm o.sn rnd false v
/-- The converted tile as numbers, one for each row (R46). -/
def drainRows (s : State) (k : Nat) (o : MOp) : List Nat × Flags :=
  (List.range o.m).foldl (fun (r : List Nat × Flags) m =>
    let es := (List.range o.n).map (drainElem s k o m)
    let w := tyWidth o.dt
    let v := ((List.range o.n).zip es).foldl (fun v (x : Nat × Nat × Flags) => v + x.2.1 % 2 ^ w * 2 ^ (w * x.1)) 0
    (r.1 ++ [v], es.foldl (fun (f : Flags) (x : Nat × Flags) => f ||| x.2) r.2)) ([], 0#6)
/-- The bypass writes the rows into its slot, bit for bit as many as they hold (R281, R272). -/
def bypassRows (k : Nat) (o : MOp) (rows : List Nat) (s : State) : State :=
  let bits := o.n * tyWidth o.dt
  let nb := (bits + 7) / 8
  let cell (m v j : Nat) : Nat × Byte :=
    let a := 16384 * o.byslot + 128 * m + j
    let old := (memGet s.mem (operandKey k a)).toNat
    let keep := if 8 * (j + 1) ≤ bits then 8 else bits - 8 * j
    (a, BitVec.ofNat 8 ((byteOf v j).toNat % 2 ^ keep + old / 2 ^ keep * 2 ^ keep))
  putOperand k (((List.range rows.length).zip rows).flatMap fun (x : Nat × Nat) =>
    (List.range nb).map (cell x.1 x.2)) s
/-- The destination of a drain that has started: checked pieces in .G, keys elsewhere. -/
def drainDst (s : State) (o : MOp) : EngR := if o.dsp = 0 then .glob o.dst else dstChk s o
/-- A plain drain writes its sectors (R280, R226), and its core's L1 takes the bytes of sectors that it holds (R209, R283):
the state and the status with the bytes that landed. -/
def drainWrite (u : Nat) (o : MOp) (rows : List Nat) (s : State) : State × Nat × Nat :=
  let pt := o.party s
  let nb := o.rowBytes
  let cells := engCells pt (drainDst s o) o.daddr fun j => (byteOf ((rows[j / max 1 nb]?).getD 0) (j % max 1 nb), 0)
  let secs := cellSectors cells
  let r := putSecs pt u secs s
  let ok := secs.filter fun (x : Nat × List ECell) => !r.2.any fun (b : Nat × Nat × Bool) => b.1 = x.1
  let put : KV Byte := putCells [] (ok.flatMap fun (x : Nat × List ECell) => x.2.map fun c => (c.key, c.val))
  (r.1.modCore o.core fun c => { c with l1 := l1Store c.l1 put },
   if r.2.isEmpty then 0 else 0x09, ok.foldl (fun n (x : Nat × List ECell) => n + x.2.length) 0)
/-- One element of an add-on-store applies (R282): the state, whether it did, and its flags. -/
def addOne (o : MOp) (pt : Party) (x : Nat) (dst : EngR) (j : Nat) (s : State) : State × Bool × Flags :=
  let n := tyWidth o.dt / 8
  let f (old : Nat) : Nat × Flags := if o.dt = 0x0A then ((old + x) % 2 ^ 128, 0#6) else fArithBits 0 0 0 false old x
  let r : State × Nat × Nat := match dst with
    | .glob ps =>
      (match ps.find? fun (q : EPiece) => decide (q.va ≤ j) && decide (j < q.va + q.len) with
        | some q => atomAt (atomStale o.core pt.d pt.p (q.pa + (j - q.va)) s) pt.d pt.p q.kind (q.pa + (j - q.va)) n fun v => some (f v).1
        | none => (s, 0, 1))
    | .keys ks => atomKeys s ((ks.drop j).take n) [] fun v => some (f v).1
    | _ => (s, 0, 1)
  (r.1, r.2.2 = 0, if r.2.2 = 0 then (f r.2.1).2 else 0#6)
/-- The place of element (m, n): its virtual address in .G, its index among the keys elsewhere. -/
def elemPlace (o : MOp) (m n : Nat) : Nat :=
  let es := tyWidth o.dt / 8
  if o.dsp = 0 then (o.daddr + m * o.dstride) % 2 ^ 64 + n * es else m * o.rowBytes + n * es
/-- An add-on-store adds its elements (R282): state, status, bytes applied, flags. -/
def drainAdd (o : MOp) (rows : List Nat) (s : State) : State × Nat × Nat × Flags :=
  let pt := o.party s
  let w := tyWidth o.dt
  let dst := drainDst s o
  o.elems.foldl (fun (r : State × Nat × Nat × Flags) e =>
    let x := (rows[e.1]?).getD 0 / 2 ^ (w * e.2) % 2 ^ w
    let t := addOne o pt x dst (elemPlace o e.1 e.2) r.1
    (t.1, if t.2.1 then r.2.1 else 0x09, r.2.2.1 + (if t.2.1 then w / 8 else 0), r.2.2.2 ||| t.2.2)) (s, 0, 0, 0#6)
/-- The conversion reads the tile, the bypass and the destination are written, and the credit is on its way (R269, R280 to
R282, R277). -/
def drainDone (k u : Nat) (o : MOp) (s : State) : State :=
  let c := drainRows s k o
  let s := if o.bypass then bypassRows k o c.1 s else s
  let r : State × Nat × Nat × Flags :=
    if !o.dr then (s, 0, 0, 0#6)
    else if o.aos then drainAdd o c.1 s
    else let t := drainWrite u o c.1 s; (t.1, t.2.1, t.2.2, 0#6)
  let own : List Credit := if o.be && r.2.2.1 ≠ 0 then [⟨(s.grp o.grp).team, o.bobj, r.2.2.1, u, none⟩] else []
  let s := { r.1 with credits := r.1.credits ++ own }
  s.modMOp k u fun o => { o with
    flags := o.flags ||| c.2 ||| r.2.2.2
    status := r.2.1
    landed := r.2.2.1
    stage := .drain }
/-- The drain's destination can take it now. -/
def drainReady (s : State) (core : Nat) : Bool :=
  match opIn s core .convert with
  | some (_, _, o) => !o.dr || engFree s (o.party s) (if o.aos then 3 else 2) (drainDst s o)
  | none => false
/-- The request that the home of a drain's destination must have first (R214). -/
def drainWant (s : State) (core : Nat) : Option (HKind × Nat × Nat) :=
  match opIn s core .convert with
  | some (_, _, o) => if o.dr then engWant s (o.party s) (if o.aos then 3 else 2) (drainDst s o) else none
  | none => none
/-- DRAIN (R280 to R282). -/
def execDrain (core : Nat) (s : State) : Out :=
  guardEv "DRAIN" (drainReady s core)
    (match opIn s core .convert with
      | some (k, u, o) => drainDone k u o s
      | none => s)

/-! ### MATRIX_COMPLETION -/

/-- Operation n of an array is complete, wherever the content of its bank now stands: every write has performed and its credit
has landed (R277, R285, R377). -/
def opComplete (core n : Nat) (s : State) : Option (Nat × MOp) :=
  match (opsOf s core).find? fun (x : Nat × Nat × MOp) => x.2.1 = n && (x.2.2.stage = .finished || x.2.2.stage = .drain) with
  | some (k, _, o) =>
    if (s.credits.any fun (x : Credit) => x.cmd = n) || (s.mlog.any fun (x : MirrorUp) => x.op = (n, 0)) then none
    else some (k, o)
  | none => none
/-- The scope of an operation's destination (R258); 0 when it writes no memory. -/
def opScope (o : MOp) : Nat :=
  if !o.dr then 0
  else o.dst.foldl (fun m (x : EPiece) => max m (match x.pa / 2 ^ 52 with | 0 => 3 | 2 => 5 | _ => 4)) 3
/-- The accumulator words in error that an operation's record reports (R431). -/
def accErrOf (c : Cont) (o : MOp) : Option Nat :=
  if (o.status = 0 || o.status = 0x09) && (o.acc || o.dr || o.bypass) then
    c.accErr.find? fun a => (o.regions c).contains (a / 65536)
  else none
/-- The record enters q1 and the tile counter retires (R277, R298, R353), unless an audit has made the operation done
(R367). -/
def opRetire (n k : Nat) (o : MOp) (s : State) : State :=
  let c := s.cont k
  let err := accErrOf c o
  let s := s.modCont k fun c => { c with
    mq := kdel c.mq n
    accErr := match err with | some a => c.accErr.filter fun x => x ≠ a | none => c.accErr }
  let e : QEntry := ⟨recordWord o.tag false o.flags o.status, if err.isSome then 2 else 0, BitVec.ofNat 64 (err.getD 0)⟩
  if o.quiet then s else pushResult o.grp 1 1 [e] (s.modGrp o.grp fun G => (G.noteOp 3 o.op (opScope o)).doneOp 3 o.op)
/-- MATRIX_COMPLETION (R277). -/
def execMatrixCompletion (core n : Nat) (s : State) : Out :=
  guardEv "MATRIX_COMPLETION" (opComplete core n s).isSome
    (match opComplete core n s with
      | some (k, o) => opRetire n k o s
      | none => s)

end Sys2Proof.Machine
end

