-- ==== Sys2Proof/Machine/EvMemory.lean ====
section
/-! DEFINITION. Sys2Proof/Machine/EvMemory.lean: events of the memory path: returns, performed stores, sweeps, DRAM fetches, the
requests at a home and host accesses (R208 to R215, R244, R252, R415). -/

namespace Sys2Proof.Machine
open Sys2Proof

/-- LOAD_DATA_RETURN: load n of group g lands (R230, R99, R208, R224, R353, R373). -/
def execLoadDataReturn (g n : Nat) (s : State) : Out :=
  guardEv "LOAD_DATA_RETURN" ((kget (s.grp g).pend n).any fun p => p.made) (landLoad g n s)

/-- Entry n of a core's write path. -/
def wpEntry (s : State) (core n : Nat) : Option WLine := (s.core core).wp.find? fun w => w.seq = n
/-- STORE_PERFORMED: entry n of a write path performs (R209, R230, R244, R353). -/
def execStorePerformed (core n : Nat) (s : State) : Out :=
  guardEv "STORE_PERFORMED" ((wpEntry s core n).any (lineReady s core))
    (match wpEntry s core n with
      | some w => drainLine core s w
      | none => s)

/-- A sweep of the class is pending: 0 device class of core `key`, 1 domain class and 2 system class of partition `key`
(R252). -/
def sweepDue (s : State) (cls key : Nat) : Bool :=
  match cls with
  | 0 => (s.core key).swp
  | 1 => (s.part (key / 16) (key % 16)).dswp
  | 2 => (s.part (key / 16) (key % 16)).sswp
  | _ => false
/-- The sweep ends (R252). -/
def sweepEnd (cls key : Nat) (s : State) : State :=
  if cls = 0 then s.modCore key sweepCore else s.modPart (key / 16) (key % 16) (sweepPart (cls = 2))
/-- EDITION_SWEEP_END (R252). -/
def execEditionSweepEnd (cls key : Nat) (s : State) : Out :=
  guardEv "EDITION_SWEEP_END" (sweepDue s cls key) (sweepEnd cls key s)

/-! ### DRAM fetches -/

/-- The sectors that the requests pending on a line of a partition's memory want, as far as its L2 lacks them (R208, R210). -/
def pendingWant (s : State) (d p line : Nat) : BitVec 8 :=
  let here (x : Cont) (f : Fill) : Bool :=
    let pl := place s x.d x.p f.kind 1 (gkOff (f.line * 256))
    pl.bad = 0 && homeLine pl.key = some (d, p, line)
  let want := s.groups.foldl (fun (m : BitVec 8) (e : Nat × Group) =>
    if e.2.pend.isEmpty then m
    else
      let x := s.contOf e.1
      e.2.pend.foldl (fun m (y : Nat × Pend) => y.2.fill.foldl (fun m f => if here x f then m ||| BitVec.ofNat 8 f.mask else m) m) m)
    0#8
  want &&& ~~~((kget (s.part d p).l2d line).getD blankLoc).valid
/-- The home lines of the requests of one group that are pending (R210): device, partition, line. -/
def pendingLines (s : State) (g : Nat) (G : Group) : List (Nat × Nat × Nat) :=
  if G.pend.isEmpty then []
  else
    let x := s.contOf g
    (G.pend.flatMap fun (y : Nat × Pend) => y.2.fill.filterMap fun f =>
      homeLine (place s x.d x.p f.kind 1 (gkOff (f.line * 256))).key).eraseDups
/-- MSC_MISS_FETCH (R210): the memory controller reads a block of a line for the sectors that the memory-side cache lacks,
`want`, of those that pending requests want. A fetch of the line that is in flight ends first; sectors outside its block
are fetched a second time. -/
def execMscMissFetch (d p line : Nat) (want : BitVec 8) (s : State) : Out :=
  let q := (fetchDone d p line s).part d p
  guardEv "MSC_MISS_FETCH" (want ≠ 0#8 && want = q.mscLack line (pendingWant s d p line))
    (fetchStart d p line want (fetchDone d p line s))

/-! ### Requests at a home -/

/-- The home line that a request to a line is resolved at, after the migration table; none when it reads as poison
(R215, R329). -/
def reqLine (s : State) (line : Nat) : Option Nat :=
  let k := line * 256
  if gkSpace k ≠ 0 then none
  else
    let pl := placeLocal s (gkDev k) (gkInst k) 3 1 s.migFuel (gkDev k) (gkInst k) (gkOff k)
    if pl.bad ≠ 0 then none else some (pl.key / 256)
/-- Folio kind of a home line, and the nodes of its domain: the folio's nodes, or the home alone for a host-coherent line
(R335, R415). -/
def lineKind (s : State) (line : Nat) : Nat :=
  let k := line * 256
  ((s.part (gkDev k) (gkInst k)).folKind (gkOff k)).1
def lineNodes (s : State) (line : Nat) : Nat × Nat :=
  let k := line * 256
  if lineKind s line = 3 then (s.part (gkDev k) (gkInst k)).folNodes (gkOff k) else (gkDev k, gkDev k)
/-- A request from node q to the line is admitted to the table: the line is coherent and q is in its domain (R335). -/
def reqOk (s : State) (k : HKind) (q line : Nat) : Bool :=
  let n := lineNodes s line
  match k with
  | .host => lineKind s line = 4
  | .clear => true
  | _ => (lineKind s line = 3 || lineKind s line = 4) && decide (n.1 ≤ q) && decide (q ≤ n.2)
/-- The nodes whose copies a tag records; every node of the domain in SM (R214). -/
def tagCopies (s : State) (line : Nat) (t : Word) : List Nat :=
  let n := lineNodes s line
  match tagST t with
  | 1 | 4 => [tagOWN t, tagSEC t].eraseDups
  | 2 | 3 => [tagOWN t]
  | 5 => (List.range (n.2 + 1 - n.1)).map (n.1 + ·)
  | _ => []
/-- Sets the tag of a line; outside E no silent write is remembered (R214). -/
def setTag (line : Nat) (t : Word) (s : State) : State :=
  { s with tags := kput s.tags line t, edirty := if tagST t = 2 then s.edirty else kdel s.edirty line }
/-- The grant of a request whose acknowledgements and back-invalidation are in (R214, R215). -/
def homeGrant (line : Nat) (h : HReq) (s : State) : State :=
  let t := rget s.tags line
  match h.kind with
  | .rdsh => setTag line (mkTag 2 h.q 0) s
  | .rdown | .upgrade => setTag line (mkTag 3 h.q 0) s
  | .host => setTag line (1#32 <<< 25) s
  | _ => setTag line t s
/-- Marks the words that lanes of an unmade load await from a line: the reason is MACHINE-CHECK (R392). -/
def markWords (lanes : Dword) (p : Pend) : Pend :=
  { p with words := p.words.map fun w => if lanes.getLsbD w.lane then { w with mark := 2 } else w }
/-- A protocol error of a request from node q (R214): the loads of its device that await the line bring marked words, and
the home's tag stays (R392). -/
def protoError (q line : Nat) (s : State) : State :=
  s.groups.foldl (fun s (e : Nat × Group) =>
    let x := s.contOf e.1
    if e.2.defer.isEmpty || x.d ≠ q then s
    else
      let here (y : Piece) : Bool := (place s x.d x.p y.kind 1 y.pa).key / 256 = line
      e.2.defer.foldl (fun s (h : Held) =>
        let hit := h.acc.filter fun (y : LaneAcc × LaneR) => (piecesOf y.2).any here
        if h.pend = 0 || hit.isEmpty then s
        else
          let va := (hit.flatMap fun (y : LaneAcc × LaneR) => (piecesOf y.2).filter here).foldl (fun m (y : Piece) => min m y.va) (2 ^ 57)
          s.modGrp e.1 fun G => { G with pend := kmod G.pend h.pend fun p =>
            { markWords (lanesMask hit) p with keeps := p.keeps ++ [(2, BitVec.ofNat 64 (va / 32 * 32))] } }) s) s
/-- A request begins: it resolves at once, or enters the in-flight table with what it waits for (R213 to R215). A
protocol error and a poisoned tag leave the tag unchanged; a line clear takes a poisoned line too (R434). -/
def homeStart (k : HKind) (q line : Nat) (s : State) : State :=
  let t := rget s.tags line
  let own := tagOWN t
  let hh := tagHH t
  let wait (acks : List Nat) (bi : Bool) : State :=
    let h : HReq := ⟨k, q, acks, acks.filter fun n => (kget s.devs n).isSome, bi, []⟩
    if acks.isEmpty && !bi then homeGrant line h s else { s with home := kput s.home line h }
  if k = .clear then
    let acks := (tagCopies s line t).filter fun n => (kget s.devs n).isSome && !(s.dev (gkDev (line * 256))).lostPeer.contains n
    { s with home := kput s.home line ⟨.clear, q, acks, acks, hh, []⟩ }
  else if tagPoison t || !reqOk s k q line then s
  else
    match k with
    | .rdsh =>
      if (tagST t = 3 || tagST t = 4) && own = q then protoError q line s
      else if tagST t = 0 && hh then wait [] true
      else setTag line (tagRdsh (t &&& ~~~(1#32 <<< 25)) q ((kget s.edirty line).getD false) ||| tagHHbit t) s
    | .rdown =>
      if (tagST t = 3 || tagST t = 4) && own = q then protoError q line s
      else if tagST t = 2 && own = q then s
      else wait ((tagCopies s line t).filter fun n => n ≠ q) hh
    | .upgrade =>
      if tagST t = 3 && own = q then protoError q line s
      else if tagST t = 2 && own = q then s
      else wait ((tagCopies s line t).filter fun n => n ≠ q) hh
    | .wback => (match tagWback t q with | some n => setTag line n s | none => protoError q line s)
    | .evict => (match tagEvict t q with | some n => setTag line n s | none => protoError q line s)
    | .host => wait (tagCopies s line t) false
    | .clear => s
/-- Waiting requests begin, in arrival order, until one occupies the line (R213). -/
def homeNext (line : Nat) : List (HKind × Nat) → State → State
  | [], s => s
  | x :: t, s =>
    let s := homeStart x.1 x.2 line s
    match kget s.home line with
    | some h => { s with home := kput s.home line { h with waiting := h.waiting ++ t } }
    | none => homeNext line t s
/-- The occupying request goes on when nothing more is awaited (R213, R214). -/
def homeSettle (line : Nat) (s : State) : State :=
  match kget s.home line with
  | none => s
  | some h =>
    if h.acks.isEmpty && !h.bi && h.kind ≠ .clear then
      homeNext line h.waiting (homeGrant line h { s with home := kdel s.home line })
    else s
/-- A request arrives at the home (R213). -/
def homeRequest (k : HKind) (q line : Nat) (s : State) : State :=
  match reqLine s line with
  | none => s
  | some line =>
    match kget s.home line with
    | some h => { s with home := kput s.home line { h with waiting := h.waiting ++ [(k, q)] } }
    | none => homeStart k q line s
/-- RDSH (R214). -/
def execRdsh (q line : Nat) (s : State) : Out := .next (homeRequest .rdsh q line s)
/-- RDOWN (R214). -/
def execRdown (q line : Nat) (s : State) : Out := .next (homeRequest .rdown q line s)
/-- UPGRADE (R214). -/
def execUpgrade (q line : Nat) (s : State) : Out := .next (homeRequest .upgrade q line s)
/-- WBACK (R214). -/
def execWback (q line : Nat) (s : State) : Out := .next (homeRequest .wback q line s)
/-- EVICT (R214). -/
def execEvict (q line : Nat) (s : State) : Out := .next (homeRequest .evict q line s)
/-- HOST_OWNERSHIP_REQUEST (R215). -/
def execHostOwnershipRequest (line : Nat) (s : State) : Out := .next (homeRequest .host 0 line s)

/-- The host's completion arrives: HH is clear, and the waiting grant goes on (R215). -/
def biDone (line : Nat) (s : State) : State :=
  match kget s.home line with
  | none => s
  | some h =>
    homeSettle line { s with
      home := kput s.home line { h with bi := false }
      tags := kput s.tags line (rget s.tags line &&& ~~~(1#32 <<< 25)) }
/-- BACK_INVALIDATION_COMPLETION (R215). -/
def execBackInvalidationCompletion (line : Nat) (s : State) : Out :=
  guardEv "BACK_INVALIDATION_COMPLETION" ((kget s.home line).any fun h => h.bi) (biDone line s)

/-- An acknowledgement arrives; the last one lets the grant proceed (R214). An acknowledgement that nothing awaits is a
protocol error and changes nothing. -/
def ackDone (q line : Nat) (s : State) : State :=
  match kget s.home line with
  | none => s
  | some h =>
    if h.acks.contains q && !h.inv.contains q then
      homeSettle line { s with home := kput s.home line { h with acks := h.acks.filter fun n => n ≠ q } }
    else s
/-- INVALIDATION_ACKNOWLEDGEMENT (R214). -/
def execInvalidationAcknowledgement (q line : Nat) (s : State) : Out := .next (ackDone q line s)

/-- The address space of a virtual interface: its lowest valid ASID (R350). -/
def vifAsid (s : State) (d vif : Nat) : Option Nat :=
  (List.range 512).find? fun a => (s.dev d).asidOk a && (s.dev d).asidVif a = vif
/-- The home line that a virtual interface arms (R350). -/
def vifLine (s : State) (d vif : Nat) : Option Nat :=
  match vifAsid s d vif with
  | none => none
  | some a =>
    match translate s d ((s.dev d).asidPart a) a ((s.dev d).vifOf vif).arm.toNat with
    | .ok pa kind _ _ =>
      let pl := place s d ((s.dev d).asidPart a) kind 1 pa
      if pl.bad = 0 then some (pl.key / 256) else none
    | _ => none
/-- A stitcher that held the line will read it again (R350). -/
def unhold (d line : Nat) (s : State) : State :=
  if (s.dev d).vif.isEmpty then s
  else s.modDev d fun v => { v with vif := v.vif.map fun (e : Nat × Vif) =>
    (e.1, if e.2.held && vifLine s d e.1 = some line then { e.2 with held := false } else e.2) }
/-- A device drops every L1 copy of a home line (R214). -/
def dropCopies (d line : Nat) (s : State) : State :=
  let s := unhold d line s
  let here (e : Nat × Core) (x : L1Line) : Bool :=
    let pk := x.line * 256
    (place s (gkDev pk) (gkInst pk) 3 1 (gkOff pk)).key / 256 = line && e.1 / 256 = d
  { s with cores := s.cores.map fun (e : Nat × Core) => (e.1, { e.2 with l1 := e.2.l1.filter fun x => !here e x }) }
/-- A device receives the home's invalidate: it drops its copy and supplies what it holds; the home has the data (R214).
An invalidate that nothing sent is a protocol error and changes nothing. -/
def invalDone (d line : Nat) (s : State) : State :=
  match kget s.home line with
  | none => s
  | some h =>
    if h.inv.contains d then
      dropCopies d line { s with
        home := kput s.home line { h with inv := h.inv.filter fun n => n ≠ d }
        edirty := kdel s.edirty line }
    else s
/-- INVALIDATE_REQUEST (R214). -/
def execInvalidateRequest (d line : Nat) (s : State) : Out := .next (invalDone d line s)

/-! ### Host accesses -/

/-- A range of Kurex L that the host may reach: an extent of the partition that has not been released (R415, R416). -/
def hostMapped (s : State) (d p off len : Nat) : Bool :=
  !(s.dev d).fit || (s.dev d).dc.any fun (e : Nat × Extent) =>
    e.2.p = p && decide (e.2.base ≤ off) && decide (off + len ≤ e.2.base + e.2.len)
/-- The lines of a range. -/
def linesOf (off len : Nat) : List Nat := (List.range ((off % 256 + len + 255) / 256)).map fun k => off / 256 + k
/-- A host access reaches the line (R415). -/
def hostReaches (s : State) (d p off len : Nat) : Bool :=
  hostMapped s d p off len && (linesOf off len).all fun l => ((s.part d p).folKind (l * 256)).1 = 4
/-- The device's copies of the lines are invalidated (R215): the state is I, HH stands. -/
def hostRecall (d p off len : Nat) (s : State) : State :=
  (linesOf off len).foldl (fun s l =>
    let line := gk 0 d p (l * 256) / 256
    let t := rget s.tags line
    if t = 0#32 || tagPoison t then s else dropCopies d line (setTag line (tagHHbit t) s)) s
/-- A host access (R415): a read (no data) or a write. `outData` is what the device returns, empty for data poison. -/
def hostAccess (d p off len : Nat) (data : List Byte) (s : State) : State :=
  if !hostReaches s d p off len || (data.isEmpty && (s.dev d).lockout) then { s with outData := [] }
  else
    let cell (j : Nat) : Place := placeLocal s d p 4 (if data.isEmpty then 1 else 2) s.migFuel d p (off + j)
    if data.isEmpty then
      let bs := (List.range len).map fun j => homeByte s (cell j)
      { s with outData := if bs.any fun (b : Byte × Nat) => b.2 ≠ 0 then [] else bs.map Prod.fst }
    else if (List.range len).any fun j => (cell j).bad ≠ 0 then { s with outData := [] }
    else
      let cells := ((List.range len).zip data).map fun (x : Nat × Byte) => ((cell x.1).key, x.2)
      (bySector cells).foldl (fun s x => (putSector s x).1) (hostRecall d p off len s)
/-- The lines are not busy at the home (R213). -/
def hostFree (s : State) (d p off len : Nat) : Bool :=
  (linesOf off len).all fun l => (kget s.home (gk 0 d p (l * 256) / 256)).isNone
/-- Cells of a partition's local memory by sector of its physical address space. -/
def localCells (d p off : Nat) (data : List Byte) : KV (List (Nat × Byte)) :=
  bySector (((List.range data.length).zip data).map fun (x : Nat × Byte) => (pkey d p (off + x.1), x.2))
/-- A general core's access to its partition's local memory (R260, R455): a read (no data) or a write, at .DEV. An access
beyond the capacity reaches nothing; `outData` is what a read returns, empty for poison. -/
def generalAccess (d p off len : Nat) (data : List Byte) (s : State) : State :=
  let kind (j : Nat) : Nat := ((s.part d p).folKind (off + j)).1
  let at_ (j : Nat) : Place := place s d p (kind j) 1 (off + j)
  if (s.dev d).capacity p < off + len then { s with outData := [] }
  else if data.isEmpty then
    let bs := (List.range len).map fun j => homeByte s (at_ j)
    let s := (List.range len).foldl (fun s j => if (off + j) % 256 = 0 || j = 0 then cohRead s (at_ j) d else s) s
    { s with outData := if bs.any fun (b : Byte × Nat) => b.2 ≠ 0 then [] else bs.map Prod.fst }
  else
    { (localCells d p off data).foldl (fun s x =>
        (performSector d p ((s.part d p).folKind (gkOff (32 * x.1))).1 (0, 0) s x).1) s with outData := [] }
/-- The places of the lines of a general core's access. -/
def generalPlaces (s : State) (d p off len perm : Nat) : List Place :=
  (linesOf off len).map fun l => place s d p ((s.part d p).folKind (256 * l)).1 perm (256 * l)
/-- The access can be made now: the device may read the lines, or holds them for writing (R213 to R215). -/
def generalFree (s : State) (d p off len : Nat) (wr : Bool) : Bool :=
  (generalPlaces s d p off len (if wr then 2 else 1)).all fun pl => if wr then writeFree s d pl else readFree s pl
/-- The request that must reach a home first (R214). -/
def generalWant (s : State) (d p off len : Nat) (wr : Bool) : Option (HKind × Nat × Nat) :=
  (generalPlaces s d p off len (if wr then 2 else 1)).findSome? (wantOf s d wr)
/-- A request goes to its home, if one must. -/
def askHome (w : Option (HKind × Nat × Nat)) (s : State) : State :=
  match w with | some x => homeRequest x.1 x.2.1 x.2.2 s | none => s
/-- A FENCE of a general core acts as a full FENCE.SYS (R260): the accesses that it orders have performed, and the
classes of its partition's L2 are bumped (R251). -/
def generalFence (d p : Nat) (s : State) : State := bumpPart d p true (bumpPart d p false s)
/-- A general core's access: it waits until its lines are the device's, and asks for them (R213, R214, R260). -/
def generalStep (d p off len : Nat) (data : List Byte) (s : State) : State :=
  if generalFree s d p off len (!data.isEmpty) then generalAccess d p off len data s
  else askHome (generalWant s d p off len (!data.isEmpty))
    { s with agenda := .cxlMemAccess d p 4 off len data :: s.agenda }

end Sys2Proof.Machine
end

