-- ==== Sys2Proof/Machine/EvTranslate.lean ====
section
/-! DEFINITION. Sys2Proof/Machine/EvTranslate.lean: events of translation: walks, answers to faults, invalidations, migration entries
and ATS (R313, R317 to R331, R341, R418). -/

namespace Sys2Proof.Machine
open Sys2Proof

/-! ### Walks -/

/-- The TLB entry that a walk of an address supplies (R317, R321, R334). -/
def walkFill (s : State) (d p asid va : Nat) : Option Tlb :=
  let v := s.dev d
  if 2 ^ 57 ≤ va || !v.asidOk asid || v.asidPart asid ≠ p then none
  else
    match walkFrom s d p va 5 (v.root asid) with
    | .leaf vb size pb xwr g =>
      let k := (s.part d p).folKind (pb + (va - vb))
      some ⟨asid, g, vb, size, pb, xwr, k.1, k.2⟩
    | _ => none
/-- A walk completes: its fill enters the TLB; a walk that ends in a fault caches nothing (R321). -/
def walkDone (d p asid va : Nat) (s : State) : State :=
  match walkFill s d p asid va with
  | none => s
  | some e =>
    let same (x : Tlb) : Bool := x.asid = asid && x.vbase = e.vbase && x.size = e.size
    s.modPart d p fun q => { q with tlb := e :: q.tlb.filter fun x => !same x }
/-- TRANSLATION_WALK (R317 to R321, R325). The access that asked for the walk posts its own fault (R326). -/
def execTranslationWalk (d p asid _kind : Nat) (va : BitVec 64) (s : State) : Out := .next (walkDone d p asid va.toNat s)

/-! ### Answers -/

/-- The entry that an answer names: a good format and a waiting entry (R313). -/
def replyEntry (s : State) (d p : Nat) (v : Dword) : Option FEnt :=
  if bf v 7 2 ≠ 0 then none else (s.part d p).fents.find? fun e => e.seq % 2 ^ 56 = bf v 63 8
/-- Groups of a partition. -/
def groupsIn (s : State) (d p : Nat) : List Nat :=
  (s.conts.filter fun (e : Nat × Cont) => e.2.d = d && e.2.p = p).flatMap fun (e : Nat × Cont) => s.groupsOf e.1
/-- Lanes resume from a record and replay its instruction (R21, R22). -/
def resumeRec (k : Nat) (r : Rec) (G : Group) : Group :=
  let up (l : Nat × Lane) : Nat × Lane :=
    if r.lanes.getLsbD l.1 && l.2.st = .parked then (l.1, { l.2 with st := .running, blk := 0 }) else l
  { G with lanes := G.lanes.map up, recs := kdel G.recs k }
/-- The records of a group that wait on an answer. -/
def recsOn (G : Group) (seq pri : Option Nat) : List (Nat × Rec) :=
  G.recs.filter fun (e : Nat × Rec) => !e.2.woken &&
    ((seq.isSome && e.2.seq = seq) || (pri.isSome && e.2.pri = pri))
/-- Every record that waits on the answer replays, or is woken to trap (R313, R391). -/
def answerGroup (seq pri : Option Nat) (replay : Bool) (g : Nat) (s : State) : State :=
  s.modGrp g fun G => (recsOn G seq pri).foldl (fun G (e : Nat × Rec) =>
    if replay then resumeRec e.1 e.2 G
    else { G with recs := kput G.recs e.1 { e.2 with woken := true, seq := none, pri := none } }) G
/-- Every command that waits on the answer resumes, or completes with a fault status (R307, R313). -/
def answerCmd (d p : Nat) (seq pri : Option Nat) (replay : Bool) (c : Cmd) : Cmd :=
  if c.stage = .faulted && c.d = d && c.p = p && ((seq.isSome && c.seq = seq) || (pri.isSome && c.pri = pri)) then
    if replay then { c with stage := if c.begun then .run else .block, seq := none, pri := none, ret := 0 }
    else (Cmd.fail { c with seq := none, pri := none } (0x0A + c.fkind) 0 0).stop
  else c
/-- An answer reaches every party that waits on it (R313, R327). -/
def answerAll (d p : Nat) (seq pri : Option Nat) (replay : Bool) (s : State) : State :=
  let s := (groupsIn s d p).foldl (fun s g => answerGroup seq pri replay g s) s
  { s with cmds := s.cmds.map fun (e : Nat × Cmd) => (e.1, answerCmd d p seq pri replay e.2) }
/-- Faults that wait unposted are raised, now that there is room (R312, R418). -/
def repostRecs (g : Nat) (s : State) : State :=
  (s.grp g).recs.foldl (fun s (e : Nat × Rec) =>
    let r := e.2
    if r.woken || r.seq.isSome || r.pri.isSome then s
    else
      let c := s.contOf g
      let t := raiseFault s c.d c.p (groupFault s g r.va r.perm r.tpoi r.kind)
      t.1.modGrp g fun G => { G with recs := kput G.recs e.1 { r with seq := t.2.1, pri := t.2.2 } }) s
/-- The same for a command: `ret` holds its fault (R307). -/
def repostCmd (s : State) (e : Nat × Cmd) : State :=
  let c := e.2
  if c.stage ≠ .faulted || c.seq.isSome || c.pri.isSome then s
  else cmdFault e.1 (c.ret.toNat / 4) (c.ret.getLsbD 0) (c.ret.getLsbD 1) c.fkind s
/-- Every unposted fault of a partition. -/
def repostAll (d p : Nat) (s : State) : State :=
  let s := (groupsIn s d p).foldl (fun s g => repostRecs g s) s
  (s.cmds.filter fun (e : Nat × Cmd) => e.2.d = d && e.2.p = p).foldl repostCmd s
/-- The answered entry is gone (R313). -/
def dropEntry (d p seq : Nat) (s : State) : State :=
  s.modPart d p fun q => { q with fents := q.fents.filter fun e => e.seq ≠ seq }
/-- A REPLAY or DELIVER answer (R313). -/
def replyDone (d p : Nat) (v : Dword) (replay : Bool) (s : State) : State :=
  match replyEntry s d p v with
  | none => s
  | some e => repostAll d p (answerAll d p (some e.seq) none replay (dropEntry d p e.seq s))
/-- FREPLY_REPLAY (R313, R327). -/
def execFreplyReplay (d p : Nat) (v : BitVec 64) (s : State) : Out :=
  guardEv "FREPLY_REPLAY" ((replyEntry s d p v).isSome && bf v 1 0 = 0) (replyDone d p v true s)
/-- FREPLY_DELIVER (R313, R391). -/
def execFreplyDeliver (d p : Nat) (v : BitVec 64) (s : State) : Out :=
  guardEv "FREPLY_DELIVER" ((replyEntry s d p v).isSome && bf v 1 0 = 1) (replyDone d p v false s)
/-- A TERMINATE answer: engines that wait complete with a fault status, and the owning context ends (R307, R313, R395). -/
def replyTerminate (d p : Nat) (v : Dword) (s : State) : State :=
  match replyEntry s d p v with
  | none => s
  | some e =>
    let s := answerAll d p (some e.seq) none false (dropEntry d p e.seq s)
    repostAll d p (endContext s d e.asid 0 0 e.unit e.bank e.slot e.va)
/-- FREPLY_TERMINATE (R313, R395, R396). -/
def execFreplyTerminate (d p : Nat) (v : BitVec 64) (s : State) : Out :=
  guardEv "FREPLY_TERMINATE" ((replyEntry s d p v).isSome && bf v 1 0 = 2) (replyTerminate d p v s)
/-- FREPLY_DISCARD: outcome 3, a bad format, or no waiting entry (R313). -/
def execFreplyDiscard (d p : Nat) (v : BitVec 64) (s : State) : Out :=
  guardEv "FREPLY_DISCARD" ((replyEntry s d p v).isNone || bf v 1 0 = 3) s

/-! ### Translation invalidation -/

/-- XINVCTL fields (R323). -/
def Part.xSize (q : Part) : Nat := bf q.xctl 5 0
def Part.xAsid (q : Part) : Nat := bf q.xctl 55 47
def Part.xAll (q : Part) : Bool := q.xctl.getLsbD 46
def Part.xGlb (q : Part) : Bool := q.xctl.getLsbD 45
/-- The invalidated range overlaps bytes [a, a + n) (R323, R324). -/
def Part.xHits (q : Part) (a n : Nat) : Bool :=
  let size := 2 ^ q.xSize
  let lo := q.xbase.toNat / size * size
  decide (a < lo + size) && decide (lo < a + n)
/-- The invalidated set holds an ASID (R324). -/
def Part.xIn (q : Part) (a : Nat) : Bool := q.xAll || a = q.xAsid
/-- A TLB entry matches (R324). -/
def xTlb (q : Part) (e : Tlb) : Bool := q.xHits e.vbase e.size && (if e.glb then q.xGlb else q.xIn e.asid)
/-- A cached or arriving line matches; with GLB every name of the line's page does (R324). -/
def xLine (q : Part) (asid vline : Nat) : Bool := q.xHits (vline * 256) 256 && (q.xIn asid || q.xGlb)
/-- Fills on their way through a dropped translation will install nothing (R324). -/
def xPend (q : Part) (asid : Nat) (G : Group) : Group :=
  { G with pend := G.pend.map fun (e : Nat × Pend) =>
      (e.1, { e.2 with fill := e.2.fill.filter fun f => !xLine q asid f.vline }) }
/-- Steps 1 to 3 of an invalidation (R324): TLB entries, walks and L1 lines. -/
def xinvDrop (d p : Nat) (s : State) : State :=
  let q := s.part d p
  let s := s.modPart d p fun q => { q with tlb := q.tlb.filter fun e => !xTlb q e }
  let s := (s.coresOf d p).foldl (fun s k => s.modCore k fun c =>
    { c with l1 := c.l1.filter fun x => !xLine q x.asid x.vline }) s
  (groupsIn s d p).foldl (fun s g => s.modGrp g (xPend q (s.contOf g).asid)) s
/-- The fields of XINVCTL that a store writes (R323). -/
def xctlMask : Dword := 0x00FFE0000000003F#64
/-- A GO is refused (R323). -/
def xinvBad (v : Dev) (p : Nat) (q : Part) (x : Dword) : Bool :=
  q.xbusy || decide (bf x 5 0 < 12) || decide (57 < bf x 5 0)
    || (!x.getLsbD 46 && v.asidPart (bf x 55 47) ≠ p)
/-- A store to XINVCTL with GO (R323, R324). -/
def xinvStart (d p : Nat) (v : Dword) (s : State) : State :=
  let bad := xinvBad (s.dev d) p (s.part d p) v
  let s := s.modPart d p fun q => { q with
    xctl := v &&& xctlMask
    xerr := q.xerr || bad
    xbusy := q.xbusy || !bad }
  if bad then s else xinvDrop d p s
/-- XINV_GO (R323, R324). -/
def execXinvGo (d p : Nat) (v : BitVec 64) (s : State) : Out :=
  guardEv "XINV_GO" (v.getLsbD 63) (xinvStart d p v s)
/-- Every write under way in a partition can perform, and every read can return (R324, R331): accesses of groups have been
made, no span of a command is on its way, no drain whose addresses are translated is still to write, and no mirror is behind. -/
def drainOk (s : State) (d p : Nat) : Bool :=
  (s.coresOf d p).all (wpReady s)
    && (groupsIn s d p).all (fun g => (s.grp g).defer.isEmpty && (s.grp g).pend.all fun (e : Nat × Pend) => e.2.made)
    && s.cmds.all (fun (e : Nat × Cmd) => e.2.d ≠ d || e.2.p ≠ p || e.2.spans.isEmpty)
    && s.conts.all (fun (e : Nat × Cont) => e.2.d ≠ d || e.2.p ≠ p || e.2.mq.all fun (x : Nat × MOp) =>
      x.2.dst.isEmpty || x.2.stage = .drain || x.2.stage = .finished)
    && s.mlog.isEmpty
/-- They do (R324, R331). -/
def drainAll (d p : Nat) (s : State) : State :=
  let s := (s.coresOf d p).foldl (fun s k => drainCore k s) s
  (groupsIn s d p).foldl (fun s g => landAll g s) s
/-- XINV_COMPLETE (R324). -/
def execXinvComplete (d p : Nat) (s : State) : Out :=
  guardEv "XINV_COMPLETE" ((s.part d p).xbusy && drainOk s d p)
    ((drainAll d p s).modPart d p fun q => { q with xbusy := false, xdone := q.xdone + 1 })

/-! ### Window invalidation -/

/-- A store to XWINV (R341): the cached rows of the source node, or of all, are dropped. -/
def xwinvStart (d p : Nat) (v : Dword) (s : State) : State :=
  if (s.part d p).xwbusy then s
  else s.modPart d p fun q => { q with
    xwinv := v.extractLsb' 0 11
    xwbusy := true
    winc := q.winc.filter fun (e : Nat × List Dword) => !(v.getLsbD 10 || e.1 / 64 = bf v 9 0) }
/-- XWINV (R341). -/
def execXwinv (d p : Nat) (v : BitVec 64) (s : State) : Out := .next (xwinvStart d p v s)
/-- XWINV_COMPLETE (R341): admitted requests perform when they are admitted. -/
def execXwinvComplete (d p : Nat) (s : State) : Out :=
  guardEv "XWINV_COMPLETE" (s.part d p).xwbusy (s.modPart d p fun q => { q with xwbusy := false })

/-! ### The migration table -/

/-- Bytes [a, a + m) and [b, b + n) overlap. -/
def overlap (a m b n : Nat) : Bool := decide (a < b + n) && decide (b < a + m)
/-- A start fails (R328). -/
def migBad (q : Part) (n : Nat) : Bool :=
  let w0 := q.migW n 0; let w1 := q.migW n 1; let w2 := q.migW n 2
  let src := q.migSrc n; let dst := q.migDst n; let len := q.migLen n
  bf w0 63 56 ≠ 0 || bf w0 11 0 ≠ 0 || bf w1 63 56 ≠ 0 || bf w1 11 0 ≠ 0 || bf w2 63 32 = 0
    || src / 2 ^ 52 ≠ 0 || (dst / 2 ^ 52 ≠ 0 && dst / 2 ^ 52 ≠ 4) || overlap src len dst len
    || (List.range 16).any fun m => m ≠ n && q.migState m = 1
      && (overlap src len (q.migSrc m) (q.migLen m) || overlap dst len (q.migDst m) (q.migLen m))
/-- Puts PTR and STATE of an entry. -/
def migPut (d p n ptr st : Nat) (s : State) : State :=
  s.modPart d p fun q => { q with mig := kput q.mig (4 * n + 3) (BitVec.ofNat 64 (ptr * 4 + st)) }
/-- MIGRATION_START: a store of STATE = 1 (R328). -/
def execMigrationStart (d p n : Nat) (v : BitVec 64) (s : State) : Out :=
  guardEv "MIGRATION_START" (decide (n < 16) && bf v 1 0 = 1 && ((s.part d p).migState n = 0 || (s.part d p).migState n = 2))
    (migPut d p n 0 (if migBad (s.part d p) n then 3 else 1) s)

/-- The place that the next line of an entry goes to; none when the destination refuses it (R329). -/
def migTarget (s : State) (d p n : Nat) : Option Nat :=
  let q := s.part d p
  let t := q.migDst n + 256 * q.migPtr n
  if t / 2 ^ 52 = 4 then
    let pl := place s d p 2 2 t
    if pl.bad ≠ 0 then none else some pl.key
  else if (s.dev d).capacity p < t + 256 then none
  else
    let pl := placeLocal s d p 2 2 s.migFuel d p t
    if pl.bad ≠ 0 then none else some pl.key
/-- The source line of the next move. -/
def migLine (s : State) (d p n : Nat) : Nat := gk 0 d p ((s.part d p).migSrc n + 256 * (s.part d p).migPtr n) / 256
/-- Copies 256 bytes with their poison; the destination line takes tag I (R329). -/
def copyLine (src dst : Nat) (bad : Bool) (s : State) : State :=
  let why (k : Nat) : Nat := if bad then 1 else (kget s.psn (src * 8 + k)).getD 0
  let mem := (List.range 256).foldl (fun m j => memSet m (dst * 256 + j)
    (if why (j / 32) = 0 then memGet s.mem (src * 256 + j) else 0#8)) s.mem
  let psn := (List.range 8).foldl (fun q k =>
    if why k = 0 then kdel q (dst * 8 + k) else kput q (dst * 8 + k) (why k)) s.psn
  { s with mem := mem, psn := psn, tags := kdel s.tags dst }
/-- One line moves (R329): its copies are recalled, its data goes to the destination, the source is marked, PTR
advances. -/
def migMove (d p n : Nat) (s : State) : State :=
  let q := s.part d p
  match migTarget s d p n with
  | none => migPut d p n (q.migPtr n) 3 s
  | some k =>
    let line := migLine s d p n
    let hk := lineKind s line
    let t := rget s.tags line
    let coh : Bool := hk = 3 || hk = 4
    let s := s.devs.foldl (fun s (e : Nat × Dev) => dropCopies e.1 line s) s
    let s := copyLine line (k / 256) (coh && tagPoison t) s
    let s := { s with
      tags := kput s.tags line (if coh then 1#32 <<< 24 else migMark)
      edirty := kdel s.edirty line }
    let ptr := q.migPtr n + 1
    migPut d p n ptr (if ptr = 16 * (q.migLen n / 4096) then 2 else 1) s
/-- An active entry can move its next line: it is not paused, and nothing is under way at the line (R213, R328). -/
def migReady (s : State) (d p n : Nat) : Bool :=
  let q := s.part d p
  decide (n < 16) && q.migState n = 1 && bf (q.migW n 2) 31 0 ≠ 0 && (kget s.home (migLine s d p n)).isNone
    && (match migTarget s d p n with | some k => (kget s.home (k / 256)).isNone | none => true)
/-- MIGRATION_LINE_MOVE (R329). -/
def execMigrationLineMove (d p n : Nat) (s : State) : Out :=
  guardEv "MIGRATION_LINE_MOVE" (migReady s d p n) (migMove d p n s)
/-- MIGRATION_END: a store of STATE = 0 to a done entry (R329). -/
def execMigrationEnd (d p n : Nat) (v : BitVec 64) (s : State) : Out :=
  guardEv "MIGRATION_END" (decide (n < 16) && bf v 1 0 = 0 && (s.part d p).migState n = 2)
    (migPut d p n ((s.part d p).migPtr n) 0 s)

/-! ### ATS -/

/-- An ATS entry that a request matches (R331). -/
def atsHit (pasid va size : Nat) (e : Tlb) : Bool :=
  e.asid % 2 ^ 20 = pasid && overlap e.vbase e.size (2 * 2 ^ 52 + va) size
/-- ATS_INVALIDATION_REQUEST: matching entries are used no more (R331). -/
def execAtsInvalidationRequest (d pasid : Nat) (va : BitVec 64) (size : Nat) (s : State) : Out :=
  let n := s.uid
  let f (v : Dev) : Dev := { v with
    ats := v.ats.filter fun e => e.xwr = 0#3 || !atsHit pasid va.toNat size e
    atsInv := kput v.atsInv n (pasid, va.toNat, size) }
  .next (s.modDev d f).fresh
/-- Partitions of a device. -/
def partsOf (s : State) (d : Nat) : List Nat := (List.range 16).filter (s.dev d).partOk
/-- ATS_INVALIDATION_COMPLETION: the host has answered every request that a dropped entry translated (R331). -/
def execAtsInvalidationCompletion (d n : Nat) (s : State) : Out :=
  guardEv "ATS_INVALIDATION_COMPLETION" ((kget (s.dev d).atsInv n).isSome && (partsOf s d).all (drainOk s d))
    (((partsOf s d).foldl (fun s p => drainAll d p s) s).modDev d fun v => { v with atsInv := kdel v.atsInv n })
/-- ATS_TRANSLATION_COMPLETION for an untranslated region 0x2 address: the translation of its page, or no access (R330,
R418). The accesses that wait for it go on, or park with a page request. -/
def execAtsTranslationCompletion (d asid : Nat) (va hpa : BitVec 64) (granted : Bool) (s : State) : Out :=
  let vb := 2 * 2 ^ 52 + va.toNat % 2 ^ 52 / 4096 * 4096
  let k := (s.dev d).atsKey asid
  let e : Tlb := ⟨k, false, vb, 4096, 2 * 2 ^ 52 + hpa.toNat % 2 ^ 52 / 4096 * 4096, if granted then 7 else 0, 2, 5⟩
  .next (s.modDev d fun v => { v with ats := e :: v.ats.filter fun x => !(x.asid = k && x.vbase = vb) })
/-- A page request is answered (R418): the refusal is forgotten, and the waiters replay or take TRANSLATION. -/
def pageAnswer (d n : Nat) (ok : Bool) (s : State) : State :=
  match kget (s.dev d).prs n with
  | none => s
  | some r =>
    let page (e : Tlb) : Bool := e.xwr = 0#3 && e.asid = (s.dev d).atsKey r.asid && e.vbase = r.page * 4096
    let f (v : Dev) : Dev := { v with prs := kdel v.prs n, ats := v.ats.filter fun e => !page e }
    let p := (s.dev d).asidPart r.asid
    repostAll d p (answerAll d p none (some n) ok (s.modDev d f))
/-- PAGE_REQUEST_RESPONSE (R418). -/
def execPageRequestResponse (d n : Nat) (ok : Bool) (s : State) : Out :=
  guardEv "PAGE_REQUEST_RESPONSE" (kget (s.dev d).prs n).isSome (pageAnswer d n ok s)
/-- PAGE_REQUEST_TIMEOUT: as Response Failure (R418). -/
def execPageRequestTimeout (d n : Nat) (s : State) : Out :=
  guardEv "PAGE_REQUEST_TIMEOUT" (kget (s.dev d).prs n).isSome (pageAnswer d n false s)

end Sys2Proof.Machine
end

