-- ==== Sys2Proof/Machine/EvTask.lean ====
section
/-! DEFINITION. Sys2Proof/Machine/EvTask.lean: task packets (R308 to R310) and requests that arrive from other devices (R335, R337 to
R340). -/

namespace Sys2Proof.Machine
open Sys2Proof

/-! ### TASK_PACKET_SEND -/

/-- Fields of a task packet (R308). -/
def Cmd.alen (c : Cmd) : Nat := bf (c.w 0) 47 35
def Cmd.target (c : Cmd) : Nat := bf (c.w 0) 34 25
def Cmd.taskRv (c : Cmd) : Bool := (c.w 0).getLsbD 0
def Cmd.nteams (c : Cmd) : Nat := bf (c.w 2) 31 0
/-- Bytes of a packet. -/
def Cmd.taskBytes (c : Cmd) (lo n : Nat) : List Byte := ((c.blk.flatMap fun w => leBytes w.toNat 8).drop lo).take n
/-- The code hash of a packet (R308). -/
def Cmd.codeHash (c : Cmd) : BitVec 384 := BitVec.ofNat 384 (leNat (c.taskBytes 0x20 48))
/-- The session of a tenant with a node (R309). -/
def sessKey (tenant node : Nat) : Nat := tenant * 1024 + node
/-- The live session of a command's tenant with its target. -/
def taskSess (s : State) (d tenant node : Nat) : Option Sess :=
  (kget (s.dev d).sess (sessKey tenant node)).bind fun x => if x.live then some x else none
/-- The leftmost 128 bits of the code over a packet whose AUTH reads zero (R309). -/
def taskAuth (key : BitVec 256) (c : Cmd) : BitVec 128 :=
  let bs := c.taskBytes 0 0x50 ++ List.replicate 16 0#8 ++ c.taskBytes 0x60 (0x20 + c.alen)
  (Config.hmacSha384 key bs).extractLsb' 256 128
/-- Reserved fields and ranges of a packet (R308, R310). A field whose bytes read as poison, or were not read, is not judged:
`clean` tells of each byte. -/
def taskBad (c : Cmd) (clean : Nat → Bool) : Bool :=
  bf (c.w 0) 24 1 ≠ 0 || bf (c.w 2) 63 32 ≠ 0 || c.w 3 ≠ 0#64 || (List.range 4).any (fun i => c.w (12 + i) ≠ 0#64)
    || c.alen % 8 ≠ 0 || decide (3968 < c.alen) || ((List.range 4).all (fun j => clean (16 + j)) && c.nteams = 0)
/-- A packet as its read leaves it: its doublewords, or its status (R310 items 1 to 3); none while it cannot be read. -/
def taskRead (s : State) (K : Option Core) (c : Cmd) : Option Cmd :=
  let pt := c.party
  let sp := valSp c.val
  let a := valAddr c.val
  let done (c : Cmd) (st : Nat) (va : Dword) (why : Nat) : Cmd := { c with status := st, paddr := va, reason := why, stage := .replied }
  let view (n : Nat) : EngR := engChk s pt 1 sp a n
  if c.reason ≠ 0 then some (done c 0x0C 0 c.reason)
  else if !valOk c.val || (c.grp = 0 && sp = 1) then some (done c 0x01 0 0)
  else
    match view 8 with
    | .wait => none
    | .fault _ _ _ => some (done c 0x08 0 0)
    | .bounds => some (done c 0x08 0 0)
    | r0 =>
      if !engFree s pt 1 r0 then none
      else
        let h := engBytes s pt K r0
        let lost : Bool := ((h.drop 4).take 2).any fun b => b.mark ≠ 0
        let len := if lost then 8 else 0x80 + bf (BitVec.ofNat 64 (ebNat ((h.drop 4).take 2) * 2 ^ 32)) 47 35
        match view len with
        | .wait => none
        | .fault _ _ _ => some (done c 0x08 0 0)
        | .bounds => some (done c 0x08 0 0)
        | r =>
          if !engFree s pt 1 r then none
          else
            let bs := engBytes s pt K r
            let clean := bs.map fun b => if b.mark = 0 then b else { b with val := 0#8 }
            let c := { c with blk := ebDwords clean (len / 8) }
            match ebBad bs with
            | some b =>
              let good (j : Nat) : Bool := (bs[j]?).any fun x => x.mark = 0
              some (if taskBad c good then done c 0x01 0 0 else done c 0x0C (BitVec.ofNat 64 a) b.mark)
            | none => some (if taskBad c fun _ => true then done c 0x01 0 0 else { c with stage := .block })
/-- The packet that a send would take: of the group's q4, or of a TASK node. -/
def taskHead (s : State) (src : Nat) : Option (Nat × Cmd) :=
  match s.cmd? src with
  | some c => if c.src = 4 && c.stage = .queued then (taskRead s none c).map fun x => (src, x) else none
  | none =>
    match kget s.groups src with
    | none => none
    | some G =>
      match G.q4.head? with
      | none => none
      | some p =>
        let pt := partyOf s src
        let c := mkCmd 4 src pt ((s.dev pt.d).ctxOf pt.asid).gen (s.teamOf src).cls 0 p
        (taskRead s (grpCore s src) { c with cnt := true }).map fun x => (s.uid, x)
/-- The checks at the sender, and the packet with SEQ and AUTH (R309, R310). -/
def taskSeal (u : Nat) (c : Cmd) (s : State) : State :=
  let put (c : Cmd) (s : State) : State := { s with cmds := kput s.cmds u c }
  if c.stage ≠ .block then put c s
  else
    let t := (s.dev c.d).tenant c.p
    match taskSess s c.d t c.target with
    | none => put { c with status := 0x12, stage := .replied } s
    | some x =>
      if (kget s.devs c.target).isNone || (s.dev c.d).lostPeer.contains c.target then
        put { c with status := 0x0F, stage := .replied } s
      else
        let c : Cmd := { c with blk := c.blk.set 1 (BitVec.ofNat 64 x.nextSeq) }
        let m := taskAuth x.key c
        let c : Cmd := { c with
          blk := (c.blk.set 10 (m.extractLsb' 0 64)).set 11 (m.extractLsb' 64 64)
          stage := .run }
        put c (s.modDev c.d fun v => { v with
          sess := kput v.sess (sessKey t c.target) { x with nextSeq := x.nextSeq + 1 } })
/-- A packet is read, sealed and sent, or completes (R309, R310). -/
def taskSend (src : Nat) (s : State) : State :=
  match taskHead s src with
  | none => s
  | some (u, c) =>
    let s := if u = src then s else s.fresh.modGrp src fun G => { G with q4 := G.q4.drop 1 }
    taskSeal u c s
/-- TASK_PACKET_SEND (R309, R310). -/
def execTaskPacketSend (src : Nat) (s : State) : Out :=
  guardEv "TASK_PACKET_SEND" (taskHead s src).isSome (taskSend src s)

/-! ### TASK_PACKET_ARRIVAL -/

/-- A sequence number is accepted once, within a window of 64 behind the highest accepted (R309). -/
def seqFresh (x : Sess) (n : Nat) : Bool := decide (x.high < n) || (decide (x.high < n + 64) && !x.seen.contains n)
/-- Accepting a number. -/
def seqTake (x : Sess) (n : Nat) : Sess :=
  let h := max x.high n
  { x with high := h, seen := (n :: x.seen).filter fun k => decide (h < k + 64) }
/-- The partition of a tenant on a device. -/
def tenantPart (s : State) (d t : Nat) : Option Nat := (partsOf s d).find? fun p => (s.dev d).tenant p = t
/-- What a target makes of a packet (R309, R310): a status, or the partition, its address space and the descriptor. -/
inductive TaskAt where
  | status (st : Nat) (seen : Bool)
  | launch (p asid : Nat) (desc : Dword)
  deriving DecidableEq, Repr
/-- The checks at the target (R309, R310). -/
def taskAt (s : State) (c : Cmd) : TaskAt :=
  let n := c.target
  let t := (s.dev c.d).tenant c.p
  if (s.dev c.d).lostPeer.contains n then .status 0x0F false
  else
    match taskSess s n t c.d with
    | none => .status 0x10 false
    | some x =>
      if taskAuth x.key c ≠ (c.w 11 ++ c.w 10 : BitVec 128) || !seqFresh x (c.w 1).toNat then .status 0x10 false
      else
        match tenantPart s n t with
        | none => .status 0x11 true
        | some p =>
          match (s.dev n).codes.find? fun (e : BitVec 384 × Nat × Nat × Dword) => e.1 = c.codeHash && e.2.1 = p with
          | none => .status 0x11 true
          | some e => .launch p e.2.2.1 e.2.2.2
/-- The sequence number of an authentic packet is accepted (R309). -/
def taskSeen (c : Cmd) (s : State) : State :=
  let t := (s.dev c.d).tenant c.p
  match taskSess s c.target t c.d with
  | some x => s.modDev c.target fun v => { v with sess := kput v.sess (sessKey t c.d) (seqTake x (c.w 1).toNat) }
  | none => s
/-- Where the target places the arguments (R310; log entry 13). -/
def taskPlace (u : Nat) : Nat := (Config.taskArgs u).toNat * 8
/-- A packet arrives (R309, R310): it is authenticated, its arguments are copied, its kernel is launched. -/
def taskArrive (u : Nat) (s : State) : State :=
  match s.cmd? u with
  | none => s
  | some c =>
    match taskAt s c with
    | .status st seen =>
      (if seen then taskSeen c s else s).modCmd u fun c => { c with status := st, stage := .replied }
    | .launch p a desc =>
      let s := taskSeen c s
      let n := c.target
      let pt : Party := ⟨n, p, a, 0⟩
      let bs := c.taskBytes 0x80 c.alen
      let cells := engCells pt (engChk s pt 6 0 (taskPlace u) c.alen) (taskPlace u) fun j => ((bs[j]?).getD 0#8, 0)
      let s := (putSecs pt u (cellSectors cells) s).1
      let l := s.uid
      let L : Launch := { blankLaunch with
        d := n, p := p, asid := a, task := some u, daddr := desc, nteams := c.nteams
        args := BitVec.ofNat 64 (taskPlace u), cls := c.cls, top := 8, ready := l }
      let s := ({ s with launches := kput s.launches l L } : State).fresh
      let s := s.modPart n p fun q => { q with launchq := q.launchq ++ [l] }
      s.modCmd u fun c => { c with launch := l, stage := .tagged }
/-- A packet can arrive: the memory that the target has given its arguments can be written (R310). -/
def arriveReady (u : Nat) (s : State) : Bool :=
  match s.cmd? u with
  | none => false
  | some c => c.src = 4 && c.stage = .run &&
    match taskAt s c with
    | .status _ _ => true
    | .launch p a _ =>
      let pt : Party := ⟨c.target, p, a, 0⟩
      match engChk s pt 6 0 (taskPlace u) c.alen with
      | .glob ps => engFree s pt 6 (.glob ps)
      | _ => false
/-- TASK_PACKET_ARRIVAL (R309, R310). -/
def execTaskPacketArrival (u : Nat) (s : State) : Out := guardEv "TASK_PACKET_ARRIVAL" (arriveReady u s) (taskArrive u s)

/-! ### TASK_RECORD -/

/-- The record of a task and its returned doubleword (R298, R310). -/
def taskEntries (c : Cmd) : List QEntry :=
  let rv := !c.blk.isEmpty && c.taskRv
  recordRun (if c.blk.isEmpty then 0 else c.tag) 0 c.status c.reason c.paddr
    (if rv then some (if c.status = 0 then c.ret else 0) else none)
/-- The status arrives at the sender: the record is pushed to q5, or the node completes (R310, R347, R353). -/
def taskReplied (u : Nat) (s : State) : State :=
  match s.cmd? u with
  | none => s
  | some c =>
    let s := { s with cmds := kdel s.cmds u }
    if c.grp = 0 then s.modNode c.node fun n => { n with status := some (nodeStatus c.status), st := 1 }
    else if c.quiet || (kget s.groups c.grp).isNone then s
    else pushResult c.grp 5 2 (taskEntries c) (s.modGrp c.grp fun G => (G.noteOp 2 c.op 4).doneOp 2 c.op)
/-- A status that the target gives (R310). -/
def targetStatus (st : Nat) : Bool := st = 0x00 || st = 0x0D || st = 0x10 || st = 0x11 || st = 0x13 || st = 0x14
/-- The status of a packet reaches its sender: one that the target gives needs the target's reach (R310, R424; log entry
137). -/
def replyReady (u : Nat) (s : State) : Bool :=
  (s.cmd? u).any fun c => c.src = 4 && c.stage = .replied &&
    !(targetStatus c.status && (s.dev c.d).lostPeer.contains c.target)
/-- TASK_RECORD (R310). -/
def execTaskRecord (u : Nat) (s : State) : Out := guardEv "TASK_RECORD" (replyReady u s) (taskReplied u s)

/-! ### INBOUND_REQUEST -/

/-- The rows that accept a request stay cached at the target (R341). -/
def cacheWindow (d p src w : Nat) (s : State) : State :=
  let row := (List.range 4).map fun i => windowRow s d p src w i
  s.modPart d p fun q => { q with winc := kput q.winc (src * 64 + w) row }
/-- What a request asks for: 0 a read, 1 a write, 2 a span of WRITE or COPY whose tag has verified, 547 such a span as it
lands cut-through, 548 its tag's failure (R225), and between 3 and 546 an atomic: 3 + 32 × function + type, and 515 + type
for a compare-and-swap of (new value, comparand) (R337, R340). -/
def inboundPerm (kind : Nat) : Nat := match kind with | 0 => 1 | 1 | 2 | 547 | 548 => 2 | _ => 3
/-- The place of byte j of an admitted request (R335, R338, R339); none is poison. -/
def inboundPlace (s : State) (d p src spart w off kind len : Nat) (coh : Bool) (j : Nat) : Option Place :=
  match admitted s d p src spart w off len (inboundPerm kind) with
  | none => none
  | some base =>
    let pl := placeLocal s src spart (if coh then 3 else 2) (inboundPerm kind) s.migFuel d p (base + off + j)
    let n := (s.part pl.hd pl.hp).folNodes (gkOff pl.key)
    if pl.bad ≠ 0 || (pl.hkind = 3) != coh then none
    else if coh && !(decide (n.1 ≤ src) && decide (src ≤ n.2)) then none
    else some pl
/-- The atomic of a request. -/
def inboundAtom (kind len : Nat) (data : List Byte) (o : Nat) : Option Nat :=
  let x := leNat (data.take len)
  if 515 ≤ kind then (if o = leNat (data.drop len) then some x else none)
  else some (atomNew ((kind - 3) / 32) ((kind - 3) % 32) o x)
/-- The landing credit of a window for bytes of a span (R340). -/
def inboundCredit (s : State) (d p src w n : Nat) : List Credit :=
  let c := windowRow s d p src w 2
  if c.getLsbD 16 then [⟨0, bf c 15 9, n, 0, some (d, p, bf c 7 0, bf c 8 8, bf c 22 17)⟩] else []
/-- Sectors that a span covers whole. -/
def wholeSecs (cells : List (Nat × Byte)) : List (Nat × List (Nat × Byte)) := (bySector cells).filter fun x => x.2.length = 32
/-- A write or a span at the target (R225, R226, R340): whole sectors land cut-through, a failed tag poisons them, and a
verified one places the rest and gives credit. -/
def inboundWrite (d p src w kind : Nat) (cells : List (Nat × Byte)) (s : State) : State :=
  let secs := if kind = 547 then wholeSecs cells else bySector cells
  let s := (bySector cells).foldl (fun s x => wroteAt { key := 32 * x.1 } (1#8 <<< (x.1 % 8)) s) s
  if kind = 548 then { poisonSectors s ((wholeSecs cells).map Prod.fst) 1 with outData := [] }
  else
    let r := secs.foldl (fun (r : State × Nat) x =>
      let t := putSector r.1 x
      (t.1, if t.2 then r.2 + x.2.length else r.2)) (s, 0)
    { r.1 with
      outData := []
      credits := r.1.credits ++ (if kind = 2 && r.2 ≠ 0 then inboundCredit s d p src w r.2 else []) }
/-- The lines of a request: their first bytes. -/
def inboundLines (off len : Nat) : List Nat := (List.range len).filter fun j => (off + j) % 256 = 0 || j = 0
/-- A request at the target (R339): `outData` is what it returns, empty for poison. -/
def inbound (d p src spart w off kind len : Nat) (coh : Bool) (data : List Byte) (s : State) : State :=
  if (admitted s d p src spart w off len (inboundPerm kind)).isNone then { s with outData := [] }
  else
    let s := cacheWindow d p src w s
    let at_ (j : Nat) : Option Place := inboundPlace s d p src spart w off kind len coh j
    let pls := (inboundLines off len).filterMap at_
    if kind = 0 then
      let bs := (List.range len).map fun j => match at_ j with | some pl => homeByte s pl | none => (0#8, 1)
      let s := pls.foldl (fun s pl => needAt pl (1#8 <<< (pl.key / 32 % 8)) (cohRead s pl src)) s
      { s with outData := if bs.any fun (b : Byte × Nat) => b.2 ≠ 0 then [] else bs.map Prod.fst }
    else if inboundPerm kind = 2 then
      let cells := ((List.range len).zip data).filterMap fun (x : Nat × Byte) => (at_ x.1).map fun pl => (pl.key, x.2)
      inboundWrite d p src w kind cells (pls.foldl (fun s pl => cohWrite s pl src) s)
    else
      match at_ 0 with
      | none => { s with outData := [] }
      | some pl =>
        let s := wroteAt pl (1#8 <<< (pl.key / 32 % 8)) (cohWrite s pl pl.hd)
        let r := atomKeys s ((List.range len).map (pl.key + ·)) [] (inboundAtom kind len data)
        { r.1 with outData := if r.2.2 = 0 then leBytes r.2.1 len else [] }
/-- The homes of the request's lines can take it: the requester has asked them for what it needs (R213, R214). -/
def inboundFree (s : State) (d p src spart w off kind len : Nat) (coh : Bool) : Bool :=
  (inboundLines off len).all fun j => match inboundPlace s d p src spart w off kind len coh j with
    | some pl => (match inboundPerm kind with | 1 => readFree s pl | 2 => writeFree s src pl | _ => writeFree s pl.hd pl)
    | none => true
/-- What a device returns to another: nothing after a LOCK trip, when its fabric ports have stopped sending (R443). -/
def answered (locked : Bool) (s : State) : State := if locked then { s with outData := [] } else s
/-- INBOUND_REQUEST (R335, R337 to R340, R443). -/
def execInboundRequest (d p srcNode srcPart win off kind len : Nat) (coherent : Bool) (data : List (BitVec 8)) (s : State) :
    Out :=
  guardEv "INBOUND_REQUEST" (inboundFree s d p srcNode srcPart win off kind len coherent)
    (answered (s.dev d).lockout (inbound d p srcNode srcPart win off kind len coherent data s))

end Sys2Proof.Machine
end

