-- ==== Sys2Proof/Machine/EvGraph.lean ====
section
/-! DEFINITION. Sys2Proof/Machine/EvGraph.lean: the stitcher: roots, nodes, completions and armed lines (R311, R346 to R350, R400). -/

namespace Sys2Proof.Machine
open Sys2Proof

/-- The partition's row or a core entry that names it differs between the copies (R343). -/
def Dev.changing (v : Dev) (p : Nat) : Bool :=
  let named (e : BitVec 16) : Bool := e.getLsbD 15 && bf e 14 11 = p
  (List.range 8).any (fun i => rget v.layA.rows (8 * p + i) ≠ rget v.layB.rows (8 * p + i))
    || (List.range 208).any fun c =>
      let a := rget v.layA.cores c; let b := rget v.layB.cores c
      a ≠ b && (named a || named b)
/-- Nothing of a partition is launched while its part of the layout changes (R344). -/
def State.settled (s : State) (d p : Nat) : Bool := (s.dev d).applied || !(s.dev d).changing p
/-- The party of the stitcher for a node: it belongs to no team (R347). -/
def GNode.party (n : GNode) : Party := ⟨n.d, n.p, n.asid, 0⟩
/-- The write path through which the stitcher reads a root: its pusher's, whose older writes it observes (R258 item 1). -/
def GNode.core (s : State) (n : GNode) : Option Core :=
  if (kget s.groups n.grp).isSome then grpCore s n.grp else none
/-- Reads a node as a 64-byte load (R311). -/
def readNode (s : State) (pt : Party) (a : Nat) : Blk := readBlk s pt none 0 a 64
/-- Reads a node in the stitcher's hands. -/
def readOwn (s : State) (n : GNode) : Blk := readBlk s n.party (n.core s) 0 n.addr.toNat 64
/-- A store of the stitcher can be made now, or fails. -/
def putReady (s : State) (pt : Party) (a n : Nat) : Bool :=
  match engChk s pt 6 0 a n with | .wait => false | r => engFree s pt 6 r
/-- A node can be read now, or fails. -/
def Blk.ready : Blk → Bool | .wait => false | _ => true
/-- Stores bytes at a virtual address; a store that fails does nothing. -/
def stitchPut (pt : Party) (op a : Nat) (bs : List Byte) (s : State) : State :=
  (putSecs pt op (cellSectors (engCells pt (engChk s pt 6 0 a bs.length) a fun j => ((bs[j]?).getD 0#8, 0))) s).1
/-- Writes STATUS of a node (R346, R348). -/
def putStatus (pt : Party) (a st : Nat) (s : State) : State := stitchPut pt 0 (a + 2) [BitVec.ofNat 8 st] s
/-- A node enters a walk queue, in the order of becoming ready (R400). -/
def addNode (n : GNode) (s : State) : State :=
  let u := s.uid
  let s := ({ s with nodes := kput s.nodes u n } : State).fresh
  s.modPart n.d n.p fun q => { q with walkq := q.walkq ++ [u] }
/-- A node that completes without having been handled. -/
def addEnded (n : GNode) (st : Nat) (s : State) : State :=
  ({ s with nodes := kput s.nodes s.uid { n with status := some st, st := 1 } } : State).fresh

/-! ### Roots -/

/-- A root whose node was read (R348, R400): it waits for its turn, or it completes with BAD-NODE. -/
def takeRoot (n : GNode) (en : Bool) (w0 : Dword) (s : State) : State :=
  if !en || bf w0 63 32 ≠ 0 then addEnded n 0x10 s else addNode n s
/-- The stitcher takes the oldest q7 value of a group (R311). -/
def rootPush (g : Nat) (s : State) : State :=
  match (s.grp g).q7 with
  | [] => s
  | x :: rest =>
    let v := x.val
    let pt : Party := { partyOf s g with team := 0 }
    let a := valAddr v
    let dev := s.dev pt.d
    let n : GNode := ⟨pt.d, pt.p, pt.asid, (dev.ctxOf pt.asid).gen, dev.asidVif pt.asid, BitVec.ofNat 64 a,
      (s.teamOf g).cls, 0, 0, 0, 0, none, g⟩
    let en := (dev.vifOf n.vif).en
    let s := s.modGrp g fun G => { G with q7 := rest }
    let gone := s.perfGrp g 0x11 1
    if x.mark ≠ 0 || bf v 5 0 ≠ 0 then gone
    else
      match readBlk s pt (grpCore s g) 0 a 64 with
      | .ok ws => takeRoot n en ((ws[0]?).getD 0#64) s
      | _ => gone
/-- The value can be taken: its node can be read now, or is known to fail. -/
def rootReady (g : Nat) (s : State) : Bool :=
  match (s.grp g).q7 with
  | [] => false
  | x :: _ => x.mark ≠ 0 || bf x.val 5 0 ≠ 0 ||
      readBlk s { partyOf s g with team := 0 } (grpCore s g) 0 (valAddr x.val) 64 ≠ .wait
/-- GRAPH_ROOT_PUSH (R311). -/
def execGraphRootPush (g : Nat) (s : State) : Out := guardEv "GRAPH_ROOT_PUSH" (rootReady g s) (rootPush g s)

/-! ### Handling a node -/

/-- Doubleword i of a node. -/
def nw (ws : List Dword) (i : Nat) : Dword := (ws[i]?).getD 0#64
/-- The header's checks (R346, R348): reserved fields, KIND, alignment. -/
def headBad (a : Nat) (ws : List Dword) : Bool :=
  bf (nw ws 0) 31 24 ≠ 0 || bf (nw ws 0) 15 11 ≠ 0 || bf (nw ws 0) 7 4 ≠ 0 || decide (5 < bf (nw ws 0) 3 0)
    || bf (nw ws 2) 63 48 ≠ 0 || bf (nw ws 2) 31 0 ≠ 0 || a % 64 ≠ 0 || (nw ws 3).toNat % 8 ≠ 0
    || (bf (nw ws 2) 47 32 ≠ 0 && (nw ws 1).toNat % 8 ≠ 0)
/-- The checks of a node's own words (R347): true when they are bad. -/
def bodyBad (s : State) (n : GNode) (ws : List Dword) : Bool :=
  match bf (nw ws 0) 3 0 with
  | 0 => bf (nw ws 6) 63 32 ≠ 0 || nw ws 7 ≠ 0#64 || bf (nw ws 6) 31 0 = 0
  | 1 | 2 => nw ws 5 ≠ 0#64 || nw ws 6 ≠ 0#64 || nw ws 7 ≠ 0#64
  | 3 => (nw ws 4).toNat % 8 ≠ 0 || bf (nw ws 6) 63 1 ≠ 0 || nw ws 7 ≠ 0#64
  | 4 =>
    (nw ws 4).toNat % 256 ≠ 0 || nw ws 7 ≠ 0#64 ||
      (match translate s n.d n.p n.asid (nw ws 4).toNat with
        | .ok _ kind _ _ => !(kind = 3 || kind = 4)
        | _ => true)
  | 5 => nw ws 5 ≠ 0#64 || nw ws 6 ≠ 0#64 || nw ws 7 ≠ 0#64 || (nw ws 4).toNat % 64 ≠ 0 || decide (8 ≤ n.depth)
  | _ => true
/-- A SIGNAL node's write (R347): the state and the node's status. -/
def signalNode (u : Nat) (n : GNode) (ws : List Dword) (s : State) : State × Nat :=
  let a := (nw ws 4).toNat
  let add : Bool := (nw ws 6).getLsbD 0
  let pt := n.party
  match engChk s pt (if add then 7 else 6) 0 a 8 with
  | .glob ps =>
    if add then
      (match ps with
        | x :: _ =>
          let refused : Bool := (place s n.d n.p x.kind 3 x.pa).bad ≠ 0
          let r := atomAt (l2Drop n.d n.p x.pa s) n.d n.p x.kind x.pa 8 fun o => some ((o + (nw ws 5).toNat) % 2 ^ 64)
          (r.1, if r.2.2 = 0 then 0x02 else if refused then (if r.2.2 = 4 then 0x4F else 0x4D) else 0x49)
        | [] => (s, 0x4B))
    else
      let cells := engCells pt (.glob ps) a fun j => (byteOf (nw ws 5).toNat j, 0)
      let r := putSecs pt u (cellSectors cells) s
      (r.1, match r.2 with
        | [] => 0x02
        | b :: _ => if b.2.2 then (if b.2.1 = 4 then 0x4F else 0x4D) else 0x49)
  | _ => (s, 0x4B)
/-- The class of a node's work is capped at its submitter's (R311, R349). -/
def capClass (s : State) (n : GNode) (cls : Nat) : Nat :=
  min cls (if n.cls = 8 then ((s.dev n.d).vifOf n.vif).clmax.toNat else n.cls)
/-- A node that has been read is handled by its kind (R347, R400). -/
def handleNode (u : Nat) (n : GNode) (ws : List Dword) (s : State) : State :=
  let kind := bf (nw ws 0) 3 0
  let ends (st : Nat) (s : State) : State := s.modNode u fun x => { x with st := 1, kind := kind, status := some st }
  if headBad n.addr.toNat ws || bodyBad s n ws then ends 0x10 s
  else
    let s := putStatus n.party n.addr.toNat 0x01 s
    let s := s.modNode u fun x => { x with st := if kind = 4 then 2 else 1, kind := kind }
    match kind with
    | 0 =>
      let l := s.uid
      let L : Launch := { blankLaunch with
        d := n.d, p := n.p, asid := n.asid, node := u, naddr := n.addr, daddr := nw ws 4
        nteams := bf (nw ws 6) 31 0, args := nw ws 5, cls := bf (nw ws 0) 10 8, top := n.cls, gen := 0, ready := l }
      (({ s with launches := kput s.launches l L } : State).fresh).modPart n.d n.p fun q => { q with launchq := q.launchq ++ [l] }
    | 1 =>
      let c := mkCmd 0 0 n.party n.gen (capClass s n (bf (nw ws 0) 10 8)) u ⟨nw ws 4, 0, [], 0⟩
      ({ s with cmds := kput s.cmds s.uid c } : State).fresh
    | 2 =>
      let c := mkCmd 4 0 n.party n.gen (capClass s n (bf (nw ws 0) 10 8)) u ⟨nw ws 4, 0, [], 0⟩
      ({ s with cmds := kput s.cmds s.uid c } : State).fresh
    | 3 => let r := signalNode u n ws s; ends r.2 r.1
    | 4 =>
      (match translate s n.d n.p n.asid (nw ws 4).toNat with
        | .ok pa k _ _ => cohRead s (place s n.d n.p k 1 pa) n.d
        | _ => s)
    | _ =>
      let c : GNode := { n with addr := nw ws 4, sub := u, depth := n.depth + 1, st := 0, kind := 0, status := none, grp := 0 }
      (match readNode s n.party (nw ws 4).toNat with
        | .ok cs => takeRoot c true (nw cs 0) s
        | _ => addEnded c 0x10 s)
/-- The node at the head of a partition's walk queue. -/
def walkHead (s : State) (d p : Nat) : Option (Nat × GNode) :=
  match (s.part d p).walkq with
  | u :: _ => (kget s.nodes u).map fun n => (u, n)
  | [] => none
/-- The target of a SIGNAL node can take its write now. -/
def signalFree (s : State) (n : GNode) (ws : List Dword) : Bool :=
  bf (nw ws 0) 3 0 ≠ 3 ||
    (let perm := if (nw ws 6).getLsbD 0 then 7 else 6
     engFree s n.party perm (engChk s n.party perm 0 (nw ws 4).toNat 8))
/-- The head node is read and handled (R400). -/
def nodeTurn (d p : Nat) (s : State) : State :=
  match walkHead s d p with
  | none => s
  | some (u, n) =>
    let s := s.modPart d p fun q => { q with walkq := q.walkq.drop 1 }
    match readOwn s n with
    | .ok ws => handleNode u n ws s
    | _ => s.modNode u fun x => { x with st := 1, status := some 0x10 }
/-- What the handling of a node reads and writes can be read and written now. -/
def handleReady (s : State) (n : GNode) (ws : List Dword) : Bool :=
  putReady s n.party (n.addr.toNat + 2) 1 && signalFree s n ws &&
    match bf (nw ws 0) 3 0 with
    | 4 => translate s n.d n.p n.asid (nw ws 4).toNat ≠ .wait
    | 5 => (readNode s n.party (nw ws 4).toNat).ready
    | _ => true
/-- The head node can be handled now (R344, R400). -/
def nodeDue (s : State) (d p : Nat) : Bool :=
  s.settled d p && match walkHead s d p with
    | none => false
    | some (_, n) => (match readOwn s n with | .wait => false | .ok ws => handleReady s n ws | _ => true)
/-- NODE_READY (R400). -/
def execNodeReady (d p : Nat) (s : State) : Out := guardEv "NODE_READY" (nodeDue s d p) (nodeTurn d p s)

/-! ### Completion -/

/-- The doubleword that a WATCH node looks at meets its condition (R347). -/
def watchMet (s : State) (n : GNode) (ws : List Dword) : Bool :=
  let r := engChk s n.party 1 0 (nw ws 4).toNat 8
  let bs := engBytes s n.party none r
  bs.length = 8 && (ebBad bs).isNone && (BitVec.ofNat 64 (ebNat bs) &&& nw ws 6) = nw ws 5
/-- The status with which a node completes now, if it does (R347). -/
def nodeEnd (s : State) (u : Nat) (n : GNode) : Option Nat :=
  if s.mlog.any fun (x : MirrorUp) => x.op = (u, 0) then none
  else
    match n.status with
    | some st => some st
    | none =>
      if n.st = 2 then
        (match readOwn s n with | .ok ws => if watchMet s n ws then some 0x02 else none | _ => none)
      else if n.st = 1 && n.kind = 5 && !s.nodes.any (fun (e : Nat × GNode) => e.2.sub = u) then some 0x02
      else none
/-- A successor can be read, decremented and marked now. -/
def succReady (s : State) (pt : Party) (a : Dword) : Bool :=
  match readNode s pt a.toNat with
  | .wait => false
  | .ok ws => putReady s pt a.toNat 8 && (nw ws 3 = 0#64 || putReady s pt (nw ws 3).toNat 8)
  | _ => true
/-- A node's completion can be written now: its STATUS, its successors or its ERRADDR store. -/
def finishReady (s : State) (n : GNode) (st : Nat) : Bool :=
  let pt := n.party
  putReady s pt (n.addr.toNat + 2) 1 && match readOwn s n with
    | .wait => false
    | .ok ws =>
      if st = 0x02 then
        (match readBlk s pt none 0 (nw ws 1).toNat (8 * bf (nw ws 2) 47 32) with
          | .wait => false
          | .ok as_ => as_.all (succReady s pt)
          | _ => true)
      else nw ws 3 = 0#64 || putReady s pt (nw ws 3).toNat 8
    | _ => true
/-- The first node of a partition that completes. -/
def nodeDone? (s : State) (d p : Nat) : Option (Nat × GNode × Nat) :=
  (s.nodes.filterMap fun (e : Nat × GNode) =>
    if e.2.d = d && e.2.p = p then (nodeEnd s e.1 e.2).bind fun st =>
      if finishReady s e.2 st then some (e.1, e.2, st) else none else none).head?
/-- One successor is decremented (R348, R349): from 1 to 0 it launches; at 0 it is OVERCOUNT. -/
def decSucc (n : GNode) (s : State) (a : Dword) : State :=
  let pt := n.party
  match readNode s pt a.toNat with
  | .ok ws =>
    let w := nw ws 0
    let pred := bf w 63 32
    if pred = 0 then
      let s := putStatus pt a.toNat 0x15 s
      if nw ws 3 = 0#64 then s else stitchPut pt 0 (nw ws 3).toNat (leBytes a.toNat 8) s
    else
      let s := stitchPut pt 0 (a.toNat + 4) (leBytes (pred - 1) 4) s
      if pred = 1 then addNode { n with addr := a, st := 0, kind := 0, status := none, grp := 0 } s else s
  | _ => s
/-- A node completes (R348, R349): its STATUS, its successors or its ERRADDR store. -/
def nodeFinish (u : Nat) (n : GNode) (st : Nat) (s : State) : State :=
  let pt := n.party
  let s := putStatus pt n.addr.toNat st s
  let s := match readOwn s n with
    | .ok ws =>
      if st = 0x02 then
        (match readBlk s pt none 0 (nw ws 1).toNat (8 * bf (nw ws 2) 47 32) with
          | .ok as_ => as_.foldl (decSucc n) s
          | _ => s)
      else if nw ws 3 = 0#64 then s
      else stitchPut pt 0 (nw ws 3).toNat (leBytes n.addr.toNat 8) s
    | _ => s
  { s with nodes := kdel s.nodes u }
/-- NODE_COMPLETION (R347 to R349). -/
def execNodeCompletion (d p : Nat) (s : State) : Out :=
  guardEv "NODE_COMPLETION" (nodeDone? s d p).isSome
    (match nodeDone? s d p with
      | some (u, n, st) => nodeFinish u n st s
      | none => s)

/-! ### Armed lines -/

/-- The armed line of a virtual interface as the stitcher reads it: its address space, its bytes' checks and SUBMIT. -/
def armedRead (s : State) (d vif : Nat) : Option (Party × List Dword) :=
  match vifAsid s d vif with
  | none => none
  | some a =>
    let pt : Party := ⟨d, (s.dev d).asidPart a, a, 0⟩
    match readBlk s pt none 0 ((s.dev d).vifOf vif).arm.toNat 16 with
    | .ok ws => some (pt, ws)
    | _ => none
/-- The line is read again: a SUBMIT root is taken, COUNT grows, SUBMIT is cleared (R350). -/
def armedTake (d vif : Nat) (s : State) : State :=
  match armedRead s d vif with
  | none => s
  | some (pt, ws) =>
    let hold (v : Dev) : Dev := { v with vif := kput v.vif vif { v.vifOf vif with held := true } }
    let s := (engTouch pt (engChk s pt 1 0 ((s.dev d).vifOf vif).arm.toNat 16) s).modDev d hold
    let sub := nw ws 0
    if sub = 0#64 then s
    else
      let n : GNode := ⟨d, pt.p, pt.asid, ((s.dev d).ctxOf pt.asid).gen, vif, sub, 8, 0, 0, 0, 0, none, 0⟩
      let s := match readNode s pt sub.toNat with
        | .ok cs => takeRoot n true (nw cs 0) s
        | _ => s
      let a := ((s.dev d).vifOf vif).arm.toNat
      stitchPut pt 0 a (leBytes 0 8) (stitchPut pt 0 (a + 8) (leBytes ((nw ws 1).toNat + 1) 8) s)
/-- The line is armed, its interface accepts roots, and the stitcher's copy is gone; a root that SUBMIT names can be read, and
the line written (R350, R400). -/
def armedDue (s : State) (d vif : Nat) : Bool :=
  let v := (s.dev d).vifOf vif
  v.en && v.arm ≠ 0#64 && !v.held && match armedRead s d vif with
    | none => false
    | some (pt, ws) => s.settled d pt.p &&
        (nw ws 0 = 0#64 || ((readNode s pt (nw ws 0).toNat).ready && putReady s pt v.arm.toNat 16))
/-- ARMED_LINE_REREAD (R350). -/
def execArmedLineReread (d vif : Nat) (s : State) : Out :=
  guardEv "ARMED_LINE_REREAD" (armedDue s d vif) (armedTake d vif s)
/-- A write to ARMADDR: the old line is dropped, the new one is read when its interface accepts roots (R350). -/
def armWrite (d vif : Nat) (v : Dword) (s : State) : State :=
  let x := (s.dev d).vifOf vif
  let drop (s : State) : State :=
    match vifAsid s d vif with
    | none => s
    | some a =>
      match translate s d ((s.dev d).asidPart a) a x.arm.toNat with
      | .ok pa k _ _ => cohLeave s (place s d ((s.dev d).asidPart a) k 1 pa) d
      | _ => s
  let s := if x.held then drop s else s
  s.modDev d fun w => { w with vif := kput w.vif vif { x with arm := v &&& 0x01FFFFFFFFFFFF00#64, held := false } }
/-- ARMADDR_WRITE (R350). -/
def execArmaddrWrite (d vif : Nat) (v : BitVec 64) (s : State) : Out := .next (armWrite d vif v s)

end Sys2Proof.Machine
end

