-- ==== Sys2Proof/Machine/System.lean ====
section
/-! DEFINITION. Sys2Proof/Machine/System.lean: traps raised by instructions, RETT and REPLACE, special registers and identities
(R182 to R193). -/

namespace Sys2Proof.Machine
open Sys2Proof

/-- TRAP (R189). -/
def execTrap (_e : Pfx) (n : BitVec 8) (s : State) : Out :=
  .next (trapNext 0x80 s.cur.mask (n.zeroExtend 64) 0 s)
/-- TFENCE (R190). -/
def execTfence (e : Pfx) (s : State) : Out :=
  let x : BitVec 6 := s.g.aflags &&& s.g.aen.extractLsb' 0 6
  .next (if x ≠ 0#6 then trapNext 0x70 s.cur.mask (x.zeroExtend 64) 0 s else finish (.tfence e) {} s)
/-- RETT (R192). -/
def execRett (e : Pfx) (s : State) : Out :=
  .next (if s.g.frame.isNone then trapNow (.rett e) 0x5C s.cur.mask 0 s
    else gbarCheck (s.teamOf s.cur.grp).launch (s.modG fun G => gcCopies (releaseDue (leaveHandler G))))

/-- Words of a destination descriptor (R113). -/
def descWords (d : BitVec 16) : Nat := 2 ^ bf d 13 12
/-- REPLACE (R193): it reads va in the lanes whose words it writes. -/
def execReplace (e : Pfx) (b a : BitVec 7) (s : State) : Out :=
  let i : Instr := .replace e b a
  match s.g.frame with
  | none => .next (trapNow i 0x5C s.cur.mask 0 s)
  | some f =>
    let part := b.toNat
    let ls := lanesOf s.g.width f.tlanes
    let puts := f.tdest.getLsbD 15 && decide (part < descWords f.tdest) && !f.retire
    let rd : List Nat := if !puts then [] else if f.tdest.getLsbD 14 then ls.take 1 else ls
    issue i (maskOf rd) (fun s =>
      let reg := bf f.tdest 6 0
      let copy := s.cid
      let put (G : Group) : Group :=
        if !puts then G
        else if f.tdest.getLsbD 14 then
          match ls with
          | [] => G
          | j :: _ =>
            let x := s.g.rdV j a.toNat
            let old := rget (G.copyOf copy).s reg
            G.wrS copy reg (if part = 0 then old.extractLsb' 32 32 ++ x else x ++ old.extractLsb' 0 32)
        else ls.foldl (fun G l => G.bankWr l (reg + part) (s.g.rdV l a.toNat)) G
      let skip (x : Frame) : Frame := if x.decoded && !x.retire then { x with treta := x.next } else x
      let s := s.modG fun G => let G := put G; { G with frame := G.frame.map skip }
      finish i {} s) s

/-! ### Special registers -/

/-- The descriptor of a saved window entry (R113). -/
def entryDesc (w : WinEntry) : Nat :=
  if w.wr then 2 ^ 15 + (if w.sc then 2 ^ 14 else 0) + w.wd % 4 * 2 ^ 12 + (if w.wb then 2 ^ 11 else 0) + w.reg % 128 else 0
/-- WINMAP of four saved entries from entry k (R113). -/
def winmap (G : Group) (k : Nat) : Dword :=
  let d (j : Nat) : Nat := match savedEntry G (k + j) with | some w => entryDesc w | none => 0
  BitVec.ofNat 64 (d 0 + d 1 * 2 ^ 16 + d 2 * 2 ^ 32 + d 3 * 2 ^ 48)
/-- A special register as SPRR reads it (R182 to R187). -/
def sprRead (s : State) (n : Nat) : Dword :=
  let G := s.g
  let fr (f : Frame → Dword) : Dword := match G.frame with | some x => f x | none => 0#64
  match n with
  | 0x000 => fr fun f => f.cause.zeroExtend 64
  | 0x001 => fr fun f => f.tlanes
  | 0x002 => fr fun f => f.tva
  | 0x003 => fr fun f => f.treta.zeroExtend 64
  | 0x004 => fr fun f => f.tdest.zeroExtend 64
  | 0x005 => G.thand.zeroExtend 64
  | 0x006 => G.tsa
  | 0x007 => G.tsb
  | 0x010 => G.aflags.zeroExtend 64
  | 0x011 => G.aen.zeroExtend 64
  | 0x012 => s.sc.cc.zeroExtend 64
  | 0x018 => s.cc.tstat
  | 0x019 => winmap G 0
  | 0x01A => winmap G 4
  | 0x020 => rget G.watch 0
  | 0x021 => rget G.watch 1
  | 0x022 => rget G.watch 2
  | 0x023 => rget G.watch 3
  | 0x030 => s.time - (s.dev (s.contOf s.cur.grp).d).t0
  | _ => 0#64
/-- SPRR (R182). -/
def execSprr (e : Pfx) (n : BitVec 9) (d : BitVec 6) (s : State) : Out :=
  issueS (.sprr e n d) (fun s => { sws := [(d.toNat, sprRead s n.toNat)] }) s

/-- An even address from bits [56:1] of a value. -/
def evenPc (x : Dword) : BitVec 57 := x.extractLsb' 0 57 &&& ~~~(1#57)
/-- A special register written by SPRW; read-only ones ignore it (R7, R182 to R187). -/
def sprWrite (copy n : Nat) (x : Dword) (G : Group) : Group :=
  match n with
  | 0x003 =>
    let set (f : Frame) : Frame := if f.retire then f else { f with treta := evenPc x }
    { G with frame := G.frame.map set }
  | 0x005 => { G with thand := evenPc x }
  | 0x006 => { G with tsa := x }
  | 0x007 => { G with tsb := x }
  | 0x010 => { G with aflags := x.extractLsb' 0 6 }
  | 0x011 => { G with aen := x.extractLsb' 0 9 &&& 0x13F#9 }
  | 0x012 => G.wrCC copy (x.extractLsb' 0 4)
  | 0x020 => { G with watch := kput G.watch 0 (x &&& ~~~0x1F#64) }
  | 0x021 => { G with watch := kput G.watch 1 (x &&& ~~~0x1F#64) }
  | 0x022 => { G with watch := kput G.watch 2 (x &&& ~~~0x1F#64) }
  | 0x023 => { G with watch := kput G.watch 3 (x &&& ~~~0x1F#64) }
  | _ => G
/-- SPRW (R182). -/
def execSprw (e : Pfx) (n : BitVec 9) (a : BitVec 6) (s : State) : Out :=
  let x := rs s a.toNat
  let copy := s.cid
  .next (finish (.sprw e n a) {} (s.modG (sprWrite copy n.toNat x)))

/-! ### Identities -/

/-- The scalar identities (R188). -/
def identity (s : State) (n : Nat) : Nat :=
  let g := s.cur.grp
  let G := s.g
  let t := s.teamOf g
  let L := s.launchOf g
  let c := s.contOf g
  match n with
  | 2 => G.idx
  | 3 => t.idx
  | 4 => t.idx % L.desc.clusterSize
  | 5 => t.idx / L.desc.clusterSize
  | 6 => L.nteams
  | 7 => (s.dev c.d).logOf (s.coreOf g % 256)
  | 8 => s.bankOf g
  | 9 => G.slot
  | 10 => c.p
  | 11 => (s.dev c.d).asidVif c.asid
  | 12 => c.d
  | 13 => if (s.dev c.d).fit then 1 else 0
  | 14 => L.naddr.toNat
  | 15 => L.args.toNat
  | _ => 0
/-- GETID (R188). -/
def execGetid (e : Pfx) (n : BitVec 9) (a d : BitVec 6) (s : State) : Out :=
  issueS (.getid e n a d) (fun s =>
    if a = 0#6 then { sws := [(d.toNat, BitVec.ofNat 64 (identity s n.toNat))] }
    else
      let val (l : Nat) : Nat := if n = 0#9 then l else s.g.idx * s.g.width + l
      { vws := (lanesOf s.g.width s.cur.mask).flatMap fun l => wordsAt l d.toNat (val l) 1 }) s

end Sys2Proof.Machine
end

