-- ==== Sys2Proof/Machine/Fetch.lean ====
section
/-! DEFINITION. Sys2Proof/Machine/Fetch.lean: fetching the words of an instruction (R70 to R73). -/

namespace Sys2Proof.Machine
open Sys2Proof

/-- The outcome of fetching a halfword: the halfword, a failure (cause, address, inside the code range, TPOI), or a wait
for an ATS translation. -/
inductive FetchR where
  | half (h : Half)
  | fail (code va : Nat) (inRange tpoi : Bool)
  | wait
  deriving DecidableEq, Repr

/-- Fetches the halfword at an address for a group (R72, R73). -/
def fetchHalf (s : State) (g a : Nat) : FetchR :=
  if !inCode s g a 2 then .fail 0x30 a false false
  else
    let c := s.contOf g
    match translate s c.d c.p c.asid a with
    | .fault t => .fail 0x20 (a % 2 ^ 57) true t
    | .wait => .wait
    | .ok pa kind _ xwr =>
      if !permOk 4 kind xwr then .fail 0x30 a true false
      else
        let lo := l2Read s c.d c.p kind pa
        let hi := l2Read s c.d c.p kind (pa + 1)
        let bad := lowReason [lo, hi]
        if bad ≠ 0 then .fail (poisonCause bad) a true false else .half (hi.1 ++ lo.1)

/-- What a kernel and its group allow (R31, R42, R90). -/
def kctxOf (s : State) (g : Nat) : KCtx :=
  let G := s.grp g
  ⟨G.nregs, G.width, (s.launchOf g).desc.gs, G.frame.isSome⟩

/-- The outcome of a fetch: an instruction with its length in bytes, an illegal one, a failure, or a wait. -/
inductive Fetched where
  | ok (i : Instr) (len : Nat)
  | bad (c : Illegal) (len : Nat)
  | fail (code va : Nat) (inRange tpoi : Bool)
  | wait
  deriving DecidableEq, Repr

/-- Fetches halfwords until the decoder needs no more (R72, R86). -/
def fetchMore (s : State) (g a : Nat) : Nat → List Half → Fetched
  | 0, _ => .bad .badExt 12
  | n + 1, hs =>
    match fetchHalf s g (a + 2 * hs.length) with
    | .fail c v r t => .fail c v r t
    | .wait => .wait
    | .half h =>
      match decode (kctxOf s g) (hs ++ [h]) with
      | .more => fetchMore s g a n (hs ++ [h])
      | .ok i k => .ok i (2 * k)
      | .bad c k => .bad c (2 * k)
/-- The instruction of a group at an address. -/
def fetchAt (s : State) (g : Nat) (pc : BitVec 57) : Fetched :=
  fetchMore s g pc.toNat ((s.launchOf g).desc.codesz / 2 + 2) []

/-- The halfwords at an address, as far as they can be fetched. -/
def fetchHalves (s : State) (g a : Nat) : Nat → List Half
  | 0 => []
  | n + 1 => match fetchHalf s g a with | .half h => h :: fetchHalves s g (a + 2) n | _ => []
/-- The destination of an instruction that decode refuses, as far as its opcode tells (R183). -/
def illegalDest (s : State) : BitVec 16 :=
  match scan ⟨none, none⟩ false 0 (fetchHalves s s.cur.grp s.cur.pc.toNat 7) with
  | .word e w _ => match parseWord e w with | .ok i => destDesc i | .error _ => 0
  | .short h => match parseShort h with | .ok i => destDesc i | .error _ => 0
  | _ => 0

/-- ILLEGAL_INSTRUCTION (R90, R385). -/
def execIllegalInstruction (cause : BitVec 8) (s : State) : Out :=
  .next (takeTrap s.cur.grp
    { cause := cause, tlanes := s.cur.mask, tva := 0, treta := s.cur.pc, tdest := illegalDest s, sub := s.cur.mask,
      next := s.nextPc, decoded := true, retire := false } s)

/-- INSTRUCTION_FETCH_FAULT (R72, R73, R391): a translation or permission fault inside the code range parks the whole
sub-group and posts an entry; anything else traps at once. -/
def execInstructionFetchFault (code : BitVec 8) (va : BitVec 64) (inRange tpoi : Bool) (s : State) : Out :=
  let sub := s.cur.mask
  .next (if inRange && decide (code = 0x20#8 ∨ code = 0x30#8) then
      let plan := parkPlan s.g sub sub true s.uid
      parkReport (.nop ⟨none, none⟩) sub plan.2.1 plan.2.2 (code.toNat, sub, va.toNat, tpoi) 4 0 s
    else takeTrap s.cur.grp
      { cause := code, tlanes := sub, tva := va, treta := s.cur.pc, tdest := 0, sub := sub, next := s.nextPc,
        decoded := false, retire := false } s)

/-! ### Traps at an issue boundary -/

/-- In handler mode only the trapped lanes issue (R191). -/
def handlerLane (G : Group) (l : Nat) : Bool := match G.frame with | some f => f.sub.getLsbD l | none => true
/-- The sub-group that a lane belongs to: lanes with its address, copy, state and blocked instruction (R18); in handler
mode the trapped lanes are one of their own (R191). -/
def Group.subOf (G : Group) (l : Nat) : Dword :=
  let x := G.lane l
  maskOf ((G.lanes.filter fun (e : Nat × Lane) =>
    e.2.pc = x.pc && e.2.copy = x.copy && e.2.st = x.st && e.2.blk = x.blk && handlerLane G e.1 = handlerLane G l).map
      Prod.fst)

/-- The trap of a woken record (R391). -/
def recTrap (r : Rec) : TrapInfo :=
  { cause := if r.perm then 0x30 else 0x20, tlanes := r.clanes, tva := r.va, treta := r.pc, tdest := r.dest,
    sub := r.lanes, next := r.pc + BitVec.ofNat 57 r.len, decoded := decide (r.kind ≠ 3), retire := false }
/-- The trap of a watch report (R393). -/
def watchTrap (G : Group) (w : Nat × Dword × Dword) : TrapInfo :=
  let l := lowBit w.2.1
  let pc := (G.lane l).pc
  { cause := BitVec.ofNat 8 (0x90 + w.1), tlanes := w.2.1, tva := w.2.2, treta := pc, tdest := 0,
    sub := G.subOf l, next := pc, decoded := true, retire := false }
/-- The blocked instruction of a group that uses queue k. -/
def blockedOn (G : Group) (k : Nat) : Option (Nat × Block) :=
  G.blocks.find? fun (b : Nat × Block) => match b.2.instr with
    | .qpush _ f => f.d.toNat = k
    | .qpop _ f => f.b.toNat = k
    | _ => false
/-- The lanes that the group would issue next: the first RUNNING sub-group in R20's rotation, which goes by the lowest
lane of each sub-group. -/
def Group.nextSub (G : Group) : Dword :=
  let ok (l : Nat) : Bool := (G.lane l).st = .running && (G.lane l).blk = 0 && lowBit (G.subOf l) = l
  let at_ := ((List.range G.width).map fun j => (G.rr + j) % G.width).find? ok
  match at_ with | some l => G.subOf l | none => 0#64
/-- The trap of a lost permit on queue link k, or on internal link k - 0x100 (R367). -/
def lostTrap (G : Group) (k : Nat) : TrapInfo :=
  match blockedOn G k with
  | some (b, x) =>
    let m := G.blkLanes b
    let nx := x.pc + BitVec.ofNat 57 x.len
    { cause := 0x60, tlanes := m, tva := BitVec.ofNat 64 k, treta := nx, tdest := 0, sub := m, next := nx,
      decoded := true, retire := false }
  | none =>
    let m := G.nextSub
    let pc := (G.lane (lowBit m)).pc
    { cause := 0x60, tlanes := m, tva := BitVec.ofNat 64 k, treta := pc, tdest := 0, sub := m, next := pc,
      decoded := true, retire := false }

/-- Traps that a group could take at this boundary (R387): woken records, a lost permit, a watch report. In handler mode
only a woken record of the handler's own lanes is among them. -/
def boundaryTraps (G : Group) : List TrapInfo :=
  let free : Bool := G.frame.isNone
  let own (r : Rec) : Bool := match G.frame with | some f => r.lanes &&& f.sub ≠ 0#64 | none => true
  (G.recs.filter fun (r : Nat × Rec) => r.2.woken && own r.2).map (fun (r : Nat × Rec) => recTrap r.2)
    ++ (if free then (G.lostRep.map (lostTrap G)).filter fun t => t.sub ≠ 0#64 else [])
    ++ (if free then G.watchRep.toList.map (watchTrap G) else [])
/-- The order of several (R387): class and code, then the lowest lane. -/
def trapBefore (a b : TrapInfo) : Bool :=
  decide (a.cause < b.cause) || (a.cause = b.cause && decide (lowBit a.sub < lowBit b.sub))
/-- The trap that goes first. -/
def firstTrap : List TrapInfo → Option TrapInfo
  | [] => none
  | t :: ts => match firstTrap ts with | none => some t | some u => if trapBefore u t then some u else some t
/-- A delivered report is gone. -/
def dropReport (t : TrapInfo) (G : Group) : Group :=
  if t.cause = 0x60#8 then { G with lostRep := G.lostRep.filter fun k => k ≠ t.tva.toNat }
  else if 0x90#8 ≤ t.cause then { G with watchRep := none }
  else G
/-- A sub-group's WAIT has reached its thresholds and delivers a report of a higher class or lower code (R387). -/
def waitGoes (G : Group) (t : TrapInfo) : Bool :=
  G.blocks.any fun (b : Nat × Block) => match b.2.instr with
    | .wait _ x n sc l => waitMet G b.2.data (waitThr x n sc l) &&
        (waitReport G b.2.data (waitThr x n sc l)).any fun r => decide (r.2.1 < t.cause)
    | _ => false
/-- A trap is due at the group's boundary. -/
def trapDue (g : Nat) (s : State) : Bool :=
  atBoundary s g && match firstTrap (boundaryTraps (s.grp g)) with
    | some t => !waitGoes (s.grp g) t
    | none => false
/-- TRAP_ENTRY (R387 to R389). -/
def trapEntryDone (g : Nat) (s : State) : State :=
  match firstTrap (boundaryTraps (s.grp g)) with
  | none => s
  | some t =>
    let s := if t.cause = 0x60#8 then s.perf (s.coreOf g) 0x0F 1 else s
    takeTrap g t (s.modGrp g (dropReport t))
def execTrapEntry (g : Nat) (s : State) : Out := guardEv "TRAP_ENTRY" (trapDue g s) (trapEntryDone g s)

end Sys2Proof.Machine
end

