-- ==== Sys2Proof/Machine/EvGroup.lean ====
section
/-! DEFINITION. Sys2Proof/Machine/EvGroup.lean: retirement of groups, teams and grids (R26, R226, R364), and the dealer's placement of
teams (R30 to R41, R97, R397 to R403). -/

namespace Sys2Proof.Machine
open Sys2Proof

/-! ### Ending a launch -/

/-- A launch that is not going to run: its node completes with a status of R348, its task with NO-FIT (R36, R41, R97, R310). -/
def endLaunch (l st : Nat) (s : State) : State :=
  let L := s.launch l
  let s := s.modPart L.d L.p fun q => { q with launchq := q.launchq.filter fun x => x ≠ l }
  let s := { s with launches := kdel s.launches l }
  match L.task with
  | some u => s.modCmd u fun c => { c with status := 0x13, launch := 0, stage := .replied }
  | none => s.modNode L.node fun n => { n with status := some st, st := 1 }
/-- The returned doubleword of a task, at offset 0 of its arguments (R310): its bytes as they are read. -/
def taskRet (s : State) (L : Launch) : List EByte × Dword :=
  let pt : Party := ⟨L.d, L.p, L.asid, 0⟩
  let r := engChk s pt 1 0 L.args.toNat 8
  let pa := match r with | .glob (x :: _) => x.pa | _ => 0
  (engBytes s pt none r, BitVec.ofNat 64 pa)
/-- A grid has retired (R347, R310): its node is DONE, its task answers. -/
def finishLaunch (l : Nat) (s : State) : State :=
  let L := s.launch l
  match L.task with
  | none => s.modNode L.node fun n => { n with status := some 0x02, st := 1 }
  | some u =>
    let r := taskRet s L
    s.modCmd u fun c => match (if c.taskRv then ebBad r.1 else none) with
      | some b => { c with status := 0x0D, reason := b.mark, paddr := r.2, launch := 0, stage := .replied }
      | none => { c with status := 0, ret := BitVec.ofNat 64 (ebNat r.1), launch := 0, stage := .replied }

/-! ### GROUP_RETIREMENT -/

/-- The doubleword that a task returns can be read now. -/
def retFree (s : State) (L : Launch) : Bool :=
  L.task.isNone ||
    (let pt : Party := ⟨L.d, L.p, L.asid, 0⟩
     engFree s pt 1 (engChk s pt 1 0 L.args.toNat 8))
/-- Stores of the group stand in a write path (R226). -/
def coreWrites (s : State) (g : Nat) : Bool :=
  s.cores.any fun (c : Nat × Core) => c.2.wp.any fun w => w.recs.any fun (r : WRec) => r.grp = g
/-- Every lane of the group has exited and its counters are zero; a report that its last stores may raise has been noted
(R26, R226). -/
def retireReady (s : State) (g : Nat) : Bool :=
  let G := s.grp g
  atBoundary s g && G.frame.isNone && G.lanes.all (fun (l : Nat × Lane) => l.2.st = .exited)
    && (List.range 4).all (fun k => (G.ocOf k).value = 0)
    && (G.q7.isEmpty || rootReady g s) && retFree s (s.launchOf g)
    && G.defer.isEmpty && G.pend.all (fun (e : Nat × Pend) => e.2.made) && !coreWrites s g
/-- The trap of a report that is pending when the last lane exits (R226, R355), with the class of its report. -/
def retireReport (G : Group) : Option (Bool × TrapInfo) :=
  let pc := (G.lane (lowBit G.xmask)).pc
  let trap (r : BitVec 8 × Dword) : TrapInfo :=
    { cause := r.1, tlanes := G.xmask, tva := r.2, treta := pc, tdest := 0, sub := G.xmask, next := pc, decoded := true,
      retire := true }
  match firstReport (G.ocOf 1).iss.toNat G.fails with
  | some r => some (true, trap r)
  | none => (firstReport (G.ocOf 2).iss.toNat G.cwatch).map fun (r : BitVec 8 × Dword) => (false, trap r)
/-- A report that is delivered is consumed with the others of its cause (R226). -/
def dropRetire (fl : Bool) (t : TrapInfo) (G : Group) : Group :=
  let keep (x : FailRep) : Bool := x.cause ≠ t.cause
  if fl then { G with fails := G.fails.filter keep } else { G with cwatch := G.cwatch.filter keep }
/-- Engine writes credited to the team's barrier objects are still to land (R26). -/
def teamBusy (s : State) (t : Nat) : Bool :=
  (s.credits.any fun (c : Credit) => c.team = t) || s.cmds.any fun (e : Nat × Cmd) => e.2.team = t && e.2.be
/-- A retired team with nothing still to land is gone; a bank whose last team is gone is EMPTY; a launch whose last team
is gone is forgotten (R26, R375). -/
def teamSettle (t : Nat) (s : State) : State :=
  let T := s.team t
  if (kget s.teams t).isNone || !T.groups.isEmpty || teamBusy s t then s
  else
    let s := { s with
      teams := kdel s.teams t
      mem := memClear s.mem (scratchKey t 0) (scratchKey t (2 ^ 24))
      psn := s.psn.filter fun (e : Nat × Nat) => decide (e.1 < scratchKey t 0 / 32) || decide (scratchKey t (2 ^ 24) / 32 ≤ e.1) }
    let s := s.modCont T.cont fun c => { c with teams := c.teams.filter fun x => x ≠ t }
    let s := if (s.cont T.cont).teams.isEmpty then dropCont s T.cont else s
    let L := s.launch T.launch
    if L.retired = L.nteams && !(s.teams.any fun (e : Nat × Team) => e.2.launch = T.launch) then
      { s with launches := kdel s.launches T.launch }
    else s
/-- The last group of a team is gone: the team retires, and with its last team the grid (R26, R347). -/
def teamRetire (t : Nat) (s : State) : State :=
  let l := (s.team t).launch
  let s := s.modLaunch l fun L => { L with retired := L.retired + 1 }
  let s := if (s.launch l).retired = (s.launch l).nteams then finishLaunch l s else s
  teamSettle t s
/-- The stitcher takes every q7 value of the group (R311). -/
def takeRoots (g : Nat) (s : State) : Nat → State
  | 0 => s
  | n + 1 => takeRoots g (rootPush g s) n
/-- A group retires (R26), after a report that is pending (R226, R355). -/
def groupRetire (g : Nat) (s : State) : State :=
  match retireReport (s.grp g) with
  | some (fl, t) => takeTrap g t (s.modGrp g (dropRetire fl t))
  | none =>
    let s := takeRoots g s (s.grp g).q7.length
    let t := (s.grp g).team
    let s := { s with groups := kdel s.groups g }
    let s := s.modTeam t fun T => { T with groups := T.groups.filter fun x => x ≠ g }
    if (s.team t).groups.isEmpty then teamRetire t s else s
/-- GROUP_RETIREMENT (R26). -/
def execGroupRetirement (g : Nat) (s : State) : Out :=
  guardEv "GROUP_RETIREMENT" (retireReady s g) (groupRetire g s)

/-! ### Needs and capacities -/

/-- What a team needs of a bank, or what a bank has in use (R32). -/
structure Need where
  slots : Nat
  regs : Nat
  scratch : Nat
  bars : Nat
  energy : Nat
  deriving DecidableEq, Repr

/-- Weight of an energy class (R33). -/
def energyWeight (c : Nat) : Nat :=
  match c with | 0 => 1 | 1 => 2 | 2 => 3 | 3 => 4 | 4 => 6 | 5 => 8 | 6 => 12 | _ => 16
/-- Groups and lanes of a team (R97). -/
def Desc.groups (k : Desc) : Nat := k.tg + 1
def Desc.width (k : Desc) : Nat := 8 * 2 ^ k.gw
/-- The needs of a team of a kernel (R32). -/
def Desc.need (k : Desc) : Need :=
  ⟨k.groups, k.groups * k.width * (8 * k.rg) * 4, k.sc * 256 + k.groups * k.width * (16 * k.ls), k.bo,
    k.groups * energyWeight k.ec⟩
/-- Sums of needs. -/
def Need.add (a b : Need) : Need :=
  ⟨a.slots + b.slots, a.regs + b.regs, a.scratch + b.scratch, a.bars + b.bars, a.energy + b.energy⟩
/-- What a resident team uses: of a retired team, only its scratch and barrier objects (R26). -/
def teamNeed (s : State) (t : Nat) : Need :=
  let n := (s.launch (s.team t).launch).desc.need
  if (s.team t).groups.isEmpty then { n with slots := 0, regs := 0, energy := 0 } else n
/-- What is in use in a content (R34). -/
def contNeed (s : State) (k : Nat) : Need :=
  (s.cont k).teams.foldl (fun n t => n.add (teamNeed s t)) ⟨0, 0, 0, 0, 0⟩
/-- The sums stay within a bank's capacity with a budget (R32, R34). -/
def Need.fits (n : Need) (budget : Nat) : Bool :=
  decide (n.slots ≤ 64) && decide (n.regs ≤ 524288) && decide (n.scratch ≤ 262144) && decide (n.bars ≤ 128)
    && decide (n.energy ≤ budget)
/-- The budget cap of a throttle step (R436). -/
def stepCap (step : Nat) : Nat :=
  match step with | 0 => 64 | 1 => 48 | 2 => 32 | 3 => 32 | 4 => 16 | _ => 8
/-- The configured budget of a partition, and the current one (R35, R436). -/
def Dev.ebud (v : Dev) (p : Nat) : Nat := bf (v.row p 3) 26 20
def Dev.budget (v : Dev) (p : Nat) : Nat := min (v.ebud p) (stepCap v.step)
/-- Logical mesh of a partition: columns and rows (R38, R342). -/
def Dev.cols (v : Dev) (p : Nat) : Nat := bf (v.row p 3) 17 14 + 1
def Dev.rowsOf (v : Dev) (p : Nat) : Nat := bf (v.row p 3) 13 10 + 1
/-- The trump class is enabled (R342). -/
def Dev.trump (v : Dev) (p : Nat) : Bool := (v.row p 3).getLsbD 19

/-! ### Reading the descriptor -/

/-- Cluster shapes (R30). -/
def shapeListed (w h : Nat) : Bool := (w = 1 && decide (h ≤ 12)) || (w * h = 12 && decide (w ≤ 12))
/-- The fields of a descriptor (R97). -/
def descOf (ws : List Dword) : Desc :=
  let w (i : Nat) : Dword := (ws[i]?).getD 0#64
  { entry := (w 0).extractLsb' 0 57, codesz := bf (w 2) 31 0, gs := (w 1).getLsbD 50, bo := bf (w 1) 49 42,
    ls := bf (w 1) 41 35, sc := bf (w 1) 34 24, ec := bf (w 1) 23 21, rg := bf (w 1) 20 16, clh := bf (w 1) 15 12,
    clw := bf (w 1) 11 8, tg := bf (w 1) 7 2, gw := bf (w 1) 1 0 }
/-- A descriptor inside the ranges of R30, with its reserved bits zero (R97). -/
def descOk (ws : List Dword) : Bool :=
  let w (i : Nat) : Dword := (ws[i]?).getD 0#64
  let k := descOf ws
  bf (w 0) 63 57 = 0 && bf (w 1) 63 51 = 0 && bf (w 2) 63 32 = 0 && (List.range 5).all (fun i => w (3 + i) = 0#64)
    && !(w 0).getLsbD 0 && decide (k.bo ≤ 128) && decide (k.ls ≤ 64) && decide (k.sc ≤ 1024) && decide (2 ≤ k.rg)
    && decide (k.rg ≤ 16) && shapeListed (k.clw + 1) (k.clh + 1) && decide (k.groups * k.width ≤ 1024)
/-- The status with which a launch fails before any placement, or 0 (R36, R40, R41, R97). -/
def launchStatus (v : Dev) (L : Launch) (k : Desc) : Nat :=
  let p := L.p
  let w := k.clw + 1
  let h := k.clh + 1
  let n := k.need
  let layers := [64 / max 1 n.slots, 524288 / max 1 n.regs] ++ (if n.scratch = 0 then [] else [262144 / n.scratch])
    ++ (if n.bars = 0 then [] else [128 / n.bars]) ++ [v.ebud p / max 1 n.energy]
  let per := layers.foldl min 64
  if L.nteams % (w * h) ≠ 0 then 0x11
  else if !n.fits (v.ebud p) || decide (v.cols p < w) || decide (v.rowsOf p < h) then 0x12
  else if k.gs && decide (per * (v.cols p / w) * (v.rowsOf p / h) * (w * h) < L.nteams) then 0x13
  else 0
/-- The descriptor of a launch as the dealer reads it (R97): none while it cannot be read. -/
def readDesc (s : State) (L : Launch) : Option (Option (List Dword)) :=
  if L.daddr.toNat % 64 ≠ 0 then some none
  else
    match readBlk s ⟨L.d, L.p, L.asid, 0⟩ none 0 L.daddr.toNat 64 with
    | .wait => none
    | .ok ws => some (some ws)
    | _ => some none
/-- The dealer reads the head launch's descriptor and checks the launch. -/
def openLaunch (l : Nat) (s : State) : Option State :=
  let L := s.launch l
  match readDesc s L with
  | none => none
  | some none => some (endLaunch l 0x11 s)
  | some (some ws) =>
    if !descOk ws then some (endLaunch l 0x11 s)
    else
      let st := launchStatus (s.dev L.d) L (descOf ws)
      some (if st ≠ 0 then endLaunch l st s else s.modLaunch l fun L => { L with desc := descOf ws })

/-! ### Classes and the queue -/

/-- The class of a launch with the registers' present values (R397, R398). -/
def launchClass (s : State) (L : Launch) : Nat :=
  let v := s.dev L.d
  let top := if L.top = 8 then (v.vifOf (v.asidVif L.asid)).clmax.toNat else L.top
  let c := min (min L.cls top) (v.ctxOf L.asid).cap.toNat
  if c = 7 && !v.trump L.p then 6 else c
/-- A content whose image was released: it stands in a store or in its save area (R380, R401). -/
def released (c : Cont) : Bool := match c.loc with | .store _ => true | .slot _ => true | _ => false
/-- The context is on its way to another device: MIGCTL.GO reads 1 (R428, R429). -/
def frozen (s : State) (d a : Nat) : Bool := ((s.dev d).ctxOf a).migctl.getLsbD 63
/-- The class of a context in a partition: that of its highest-class team (R401). -/
def ctxClass (s : State) (d p a : Nat) : Nat :=
  s.conts.foldl (fun m (e : Nat × Cont) => if e.2.d = d && e.2.p = p && e.2.asid = a then max m (contClass s e.1) else m) 0
/-- The released images of a context in a partition. -/
def imagesOf (s : State) (d p a : Nat) : List (Nat × Cont) :=
  s.conts.filter fun (e : Nat × Cont) => e.2.d = d && e.2.p = p && e.2.asid = a && released e.2
/-- The ready time of a released context: when the first of its images was released (R401). -/
def ctxReady (s : State) (d p a : Nat) : Nat :=
  match (imagesOf s d p a).map (fun e => e.2.relTime) with
  | t :: ts => ts.foldl min t
  | [] => 0
/-- The entries of a partition's queue (R401): class, ready time, and a launch or a released context. -/
def queueOf (s : State) (d p : Nat) : List (Nat × Nat × (Nat ⊕ Nat)) :=
  let ls : List (Nat × Nat × (Nat ⊕ Nat)) := ((s.part d p).launchq.filter fun l => !frozen s d (s.launch l).asid).map fun l =>
    (launchClass s (s.launch l), (s.launch l).ready, Sum.inl l)
  let cs : List (Nat × Nat × (Nat ⊕ Nat)) :=
    (((s.conts.filter fun (e : Nat × Cont) => e.2.d = d && e.2.p = p && released e.2 && !frozen s d e.2.asid).map
      fun (e : Nat × Cont) => e.2.asid).eraseDups).map fun a => (ctxClass s d p a, ctxReady s d p a, Sum.inr a)
  ls ++ cs
/-- The head: the highest class, then the oldest (R401). -/
def queueHead (s : State) (d p : Nat) : Option (Nat × Nat × (Nat ⊕ Nat)) :=
  (queueOf s d p).foldl (fun (m : Option (Nat × Nat × (Nat ⊕ Nat))) x =>
    match m with
    | none => some x
    | some y => if decide (y.1 < x.1) || (x.1 = y.1 && decide (x.2.1 < y.2.1)) then some x else some y) none

/-! ### Candidates (R402) -/

/-- What a team or an image that looks for a bank brings: its address space, class, needs; an image, of content `img`, takes
only an EMPTY bank. -/
structure Seeker where
  asid : Nat
  cls : Nat
  need : Need
  image : Bool
  img : Nat
  deriving DecidableEq, Repr

/-- Images of a context that take or await a slot of its save area (R379, R380). -/
def slotsTaken (s : State) (d asid : Nat) : Nat :=
  (s.conts.filter fun (e : Nat × Cont) => e.2.d = d && e.2.asid = asid && released e.2).length
/-- A bank of the context could be released (R379). -/
def releasable? (s : State) (c : Cont) : Bool :=
  decide (slotsTaken s c.d c.asid < bf ((s.dev c.d).ctxOf c.asid).save 15 0)
/-- The core's image store holds a released image (R380). -/
def storeReleased (s : State) (core : Nat) : Bool :=
  (s.core core).store ≠ 0 && (match (s.cont (s.core core).store).loc with | .store _ => true | _ => false)
/-- Two teams are pre-empted and resumed as one: they are of one cluster, or of one `.gridsync` grid (R39, R41). -/
def sameUnit (s : State) (T U : Team) : Bool :=
  let k := (s.launch T.launch).desc
  U.launch = T.launch && (k.gs || U.idx / k.clusterSize = T.idx / k.clusterSize)
/-- The other contents that hold teams of one unit with teams of a content (R39, R41). -/
def linkedConts (s : State) (c : Nat) : List Nat :=
  let ts := ((s.cont c).teams.map s.team).filter fun T =>
    (s.launch T.launch).desc.gs || decide (1 < (s.launch T.launch).desc.clusterSize)
  if ts.isEmpty then []
  else ((s.teams.filter fun (e : Nat × Team) => e.2.cont ≠ c && ts.any fun T => sameUnit s T e.2).map
    fun (e : Nat × Team) => e.2.cont).eraseDups
/-- The cores that swap together, each with the bank that comes in (R39, R41): from a core and its incoming bank, over
what is linked to the incoming contents and to the outgoing ones. -/
def unitOf (s : State) : Nat → List (Nat × Nat) → KV Nat → KV Nat
  | 0, _, m => m
  | _, [], m => m
  | n + 1, (k, b) :: t, m =>
    if (kget m k).isSome then unitOf s n t m
    else
      let c := s.core k
      let inn := (linkedConts s (c.bank b).cont).filterMap fun x => (s.cont x).at?
      let out := if c.act = b then [] else (linkedConts s (c.bank c.act).cont).filterMap fun x =>
        (s.cont x).at?.bind fun y => if (s.core y.1).act = y.2 then some (y.1, 1 - y.2) else none
      unitOf s n (t ++ inn ++ out) (kput m k b)
/-- The unit of a swap of one core (R39, R41). -/
def swapUnit (s : State) (core b : Nat) : KV Nat :=
  unitOf s (2 * (s.cores.length + 1) * (s.cores.length + 1)) [(core, b)] []
/-- Every content that is linked to a content is resident (R39, R41). -/
def unitHere (s : State) (c : Nat) : Bool := (linkedConts s c).all fun x => (s.cont x).at?.isSome
/-- Every content that is linked to a content is in an active bank, so that no team of a unit runs while another is swapped
out (R39, R41). -/
def unitRuns (s : State) (c : Nat) : Bool :=
  (linkedConts s c).all fun x => match (s.cont x).at? with
    | some (k, b) => (s.core k).act = b && ((s.core k).bank b).st = .active
    | none => false
/-- The kind of candidate that a bank of a core is: 1, 2, 3 or 0 for none (R402, R403, R374). -/
def candKind (s : State) (d p : Nat) (x : Seeker) (core b : Nat) : Nat :=
  let v := s.dev d
  let bk := (s.core core).bank b
  let trump := v.trump p
  let c := s.cont bk.cont
  match bk.st with
  | .empty =>
    if trump && !x.image && x.cls ≠ 7 && (storeReleased s core || ((s.core core).bank (1 - b)).st = .filling) then 0
    else if x.image && (s.core core).store ≠ 0 && (s.core core).store ≠ x.img then 0
    else if x.image && (linkedConts s x.img).contains ((s.core core).bank (1 - b)).cont then 0
    else if x.image && trump && ((s.core core).bank (1 - b)).st ≠ .empty then 0
    else if x.image || x.need.fits (v.budget p) then 2 else 0
  | .filling => 0
  | st =>
    if !x.image && c.asid = x.asid && st ≠ .spilling && ((contNeed s bk.cont).add x.need).fits (v.budget p) then 1
    else if decide (contClass s bk.cont < x.cls) && releasable? s c && (!trump || x.cls = 7)
        && (x.image || x.need.fits (v.budget p)) then 3
    else 0
/-- The cores of the rectangle at an origin (R38): team t stands on entry t. -/
def rectOf (s : State) (d p w h o : Nat) : Option (List Nat) :=
  let v := s.dev d
  let cols := v.cols p
  if decide (cols < o % cols + w) || decide (v.rowsOf p < o / cols + h) then none
  else
    let ks := (List.range (w * h)).filterMap fun t => (v.physOf p (o + t / w * cols + t % w)).map (coreKey d)
    if ks.length = w * h then some ks else none
/-- The save area of the context in bank b of core k takes the images of all its banks on the cores of a place (R379). -/
def slotsLeft (s : State) (b : Nat) (ks : List Nat) (k : Nat) : Bool :=
  let of_ (j : Nat) : Cont := s.cont ((s.core j).bank b).cont
  let c := of_ k
  decide (slotsTaken s c.d c.asid + (ks.filter fun j => (of_ j).d = c.d && (of_ j).asid = c.asid).length
    ≤ bf ((s.dev c.d).ctxOf c.asid).save 15 0)
/-- A place for a cluster: kind, bank, cores. -/
structure Spot where
  kind : Nat
  bank : Nat
  cores : List Nat
  rank : Nat
  deriving DecidableEq, Repr

/-- The order within a kind: for one core and kind 3 the lowest class, then the lowest origin, then the bank: the active one
first, for kind 3 the inactive one; a cluster's rectangle goes by its origin first (R402). -/
def spotAt (s : State) (d p w h : Nat) (x : Seeker) (kind o b : Nat) : Option Spot :=
  match rectOf s d p w h o with
  | none => none
  | some ks =>
    if ks.all (fun k => candKind s d p x k b = kind) && (kind ≠ 3 || ks.all (slotsLeft s b ks)) then
      let cls := if kind = 3 then ks.foldl (fun m k => max m (contClass s ((s.core k).bank b).cont)) 0 else 0
      let act : Bool := match ks with | k :: _ => (s.core k).act = b | [] => false
      some ⟨kind, b, ks, (if w * h = 1 then cls * 256 + o else o * 8 + cls) * 2 + (if act = (kind = 3) then 1 else 0)⟩
    else none
/-- The place that the dealer takes, among given banks (R402). -/
def findSpot (s : State) (d p w h : Nat) (x : Seeker) (banks : List Nat) : Option Spot :=
  let all (kind : Nat) : List Spot := (List.range ((s.dev d).ncores p)).flatMap fun o =>
    banks.filterMap fun b => spotAt s d p w h x kind o b
  let best (l : List Spot) : Option Spot := l.foldl (fun (m : Option Spot) y =>
    match m with | none => some y | some z => if y.rank < z.rank then some y else some z) none
  match best (all 1) with
  | some y => some y
  | none => match best (all 2) with | some y => some y | none => best (all 3)

/-! ### Preparing a bank -/

/-- Sets a bank of a core. -/
def Core.setBank (c : Core) (b : Nat) (x : Bank) : Core := if b = 0 then { c with b0 := x } else { c with b1 := x }
/-- The bank is CLEAN and is released: its image stays in the store (R375, R380). -/
def releaseBank (core b : Nat) (s : State) : State :=
  let k := ((s.core core).bank b).cont
  let s := s.modCore core fun c => c.setBank b ⟨.empty, 0⟩
  s.modCont k fun c => { c with loc := .store core, relTime := s.time.toNat }
/-- The talon can start to spill the bank (R375, R376): it is INACTIVE and the store is free. -/
def spillOk (s : State) (core b : Nat) : Bool := ((s.core core).bank b).st = .inactive && (s.core core).store = 0
/-- A spill starts (R375, R378). -/
def spillBank (core b : Nat) (s : State) : State :=
  s.modCore core fun c => { c.setBank b ⟨.spilling, (c.bank b).cont⟩ with store := (c.bank b).cont }
/-- A swap into a bank is requested, with those of the cores that swap together (R39, R41). -/
def askSwap (core b : Nat) (s : State) : State :=
  (swapUnit s core b).foldl (fun s (e : Nat × Nat) => s.modCore e.1 fun c =>
    if c.act = e.2 && ((c.bank e.2).st = .active || (c.bank e.2).st = .empty) then c else { c with swap := some e.2 }) s
/-- What the dealer does about one bank of a candidate of kind 3 that is not yet CLEAN (R402): none when it waits. -/
def prepBank (core b : Nat) (s : State) : Option State :=
  match ((s.core core).bank b).st with
  | .active => if (s.core core).swap = some (1 - b) then none else some (askSwap core (1 - b) s)
  | .inactive => if spillOk s core b then some (spillBank core b s) else none
  | _ => none
/-- The dealer's preparation of every core of a place. -/
def prepSpot (y : Spot) (s : State) : Option State :=
  y.cores.foldl (fun (m : Option State) k =>
    match prepBank k y.bank (m.getD s) with | some t => some t | none => m) none
/-- A bank can be released now: it is CLEAN, no operation holds its slots or regions, and issued accesses have been made
(R375, R378). -/
def releaseReady (s : State) (core b : Nat) : Bool :=
  let bk := (s.core core).bank b
  bk.st = .clean && !opRunning s bk.cont && !accessesOpen s bk.cont
/-- Every bank of the place takes the cluster at once: none has to be spilled first. -/
def spotReady (s : State) (y : Spot) : Bool := y.kind ≠ 3 || y.cores.all fun k => releaseReady s k y.bank

/-! ### Placing -/

/-- The lowest `n` free group slots of a content (R27). -/
def freeSlots (s : State) (k n : Nat) : List Nat :=
  let used := (s.groupsOf k).map fun g => (s.grp g).slot
  ((List.range 64).filter fun i => !used.contains i).take n
/-- A group at placement (R13, R98, R287, R353, R404). -/
def newGroup (t slot i : Nat) (k : Desc) : Group :=
  { blankGroup with
    team := t, slot := slot, idx := i, width := k.width, nregs := 8 * k.rg
    lanes := (List.range k.width).map fun l => (l, ⟨k.entry, BitVec.allOnes 64, .running, 0, 0⟩) }
/-- A team's barrier objects at placement (R358). -/
def newBars (k : Desc) : KV Bar :=
  (List.range k.bo).map fun i => (i, ⟨0, BitVec.ofNat 16 (k.groups * k.width), 0, 0, 0, 0, false, false⟩)
/-- The bank's own state before the first team (R264). -/
def zeroBank (k : Nat) (s : State) : State :=
  let s := s.modCont k fun c => { c with claims := 0, mcfg := 0, accErr := [] }
  { s with
    mem := memClear (memClear s.mem (operandKey k 0) (operandKey k (2 ^ 20))) (accKey k 0) (accKey k (2 ^ 20))
    psn := s.psn.filter fun (e : Nat × Nat) =>
      decide (e.1 < operandKey k 0 / 32) || decide (operandKey k (2 ^ 20) / 32 ≤ e.1) }
/-- A slice begins (R408). -/
def loadSlice (core b : Nat) (s : State) : State :=
  let n := (s.part (core / 256) (s.partOfCore core)).slen
  s.modCore core fun c => { c with ts := kput c.ts b (n.zeroExtend 64) }
/-- The content of a bank that is to take a team: a new one for an EMPTY bank, which leaves EMPTY (R375, R408). -/
def openBank (d p asid core b : Nat) (s : State) : State × Nat :=
  let bk := (s.core core).bank b
  if bk.st = .empty then
    let k := s.uid
    let c : Cont := { blankCont with d := d, p := p, asid := asid, loc := .bank core b, last := core }
    let s := ({ s with conts := kput s.conts k c } : State).fresh
    if (s.core core).act = b then (loadSlice core b (s.modCore core fun x => x.setBank b ⟨.active, k⟩), k)
    else (s.modCore core fun x => x.setBank b ⟨.inactive, k⟩, k)
  else if bk.st = .clean then
    (s.modCore core fun x => { x.setBank b ⟨.inactive, bk.cont⟩ with store := 0 }, bk.cont)
  else (s, bk.cont)
/-- A launch is the acquire that matches the completion of its predecessors (R349): copies that carry an edition are dropped
from the core's L1 and from the partition's L2; placement leaves the edition counters as they are (R365; log entry 136). -/
def launchAcquire (core : Nat) (s : State) : State :=
  let d := core / 256
  let p := s.partOfCore core
  let here (g : Nat) : Bool := s.coreOf g / 256 = d && s.partOfCore (s.coreOf g) = p
  ((landEditions here s).modCore core fun c => { c with l1 := c.l1.filter fun x => x.ed = none }).modPart d p fun q =>
    { q with l2 := [] }
/-- One team enters a bank of a core (R34, R37, R202, R264, R358). -/
def placeTeam (l core b idx cls : Nat) (s : State) : State :=
  let L := s.launch l
  let r := openBank L.d L.p L.asid core b (launchAcquire core s)
  let s := r.1
  let k := r.2
  let s := if (s.groupsOf k).isEmpty then zeroBank k s else s
  let t := s.uid
  let n := L.desc.groups
  let slots := freeSlots s k n
  let ids := (List.range n).map fun i => t + 1 + i
  let T : Team := { blankTeam with cont := k, launch := l, idx := idx, groups := ids, cls := cls, bars := newBars L.desc }
  let gs : KV Group := (List.range n).map fun i => (t + 1 + i, newGroup t ((slots[i]?).getD 0) i L.desc)
  let s := { s with
    uid := t + 1 + n
    teams := kput s.teams t T
    groups := gs.foldl (fun m (e : Nat × Group) => kput m e.1 e.2) s.groups }
  s.modCont k fun c => { c with teams := c.teams ++ [t] }
/-- A bank that has become of higher class than the active bank is swapped in, as is one beside an active bank that is
not ACTIVE (R402, R408). -/
def preferBank (core b : Nat) (s : State) : State :=
  let c := s.core core
  let a := c.bank c.act
  if (c.bank b).st ≠ .active && unitHere s (c.bank b).cont && (a.st ≠ .active || decide (contClass s a.cont < contClass s (c.bank b).cont)) then askSwap core b s else s
/-- A cluster enters its place (R39, R402). -/
def placeCluster (l cls : Nat) (y : Spot) (s : State) : State :=
  let first := (s.launch l).placed
  let s := if y.kind = 3 then y.cores.foldl (fun s k => releaseBank k y.bank s) s else s
  let s := ((List.range y.cores.length).zip y.cores).foldl (fun s (e : Nat × Nat) =>
    preferBank e.2 y.bank (placeTeam l e.2 y.bank (first + e.1) cls s)) s
  let s := s.modLaunch l fun L => { L with placed := first + y.cores.length }
  let L := s.launch l
  if L.nteams ≤ L.placed then s.modPart L.d L.p fun q => { q with launchq := q.launchq.filter fun x => x ≠ l } else s

/-! ### The dealer's turn -/

/-- What a launch looks for. -/
def seekerOf (s : State) (L : Launch) : Seeker := ⟨L.asid, launchClass s L, L.desc.need, false, 0⟩
/-- One cluster of a launch is placed, or its place is prepared (R401, R402). -/
def placeOne (l : Nat) (banks : List Nat) (s : State) : Option (State × Bool) :=
  let L := s.launch l
  let x := seekerOf s L
  match findSpot s L.d L.p (L.desc.clw + 1) (L.desc.clh + 1) x banks with
  | none => none
  | some y =>
    if spotReady s y then some (placeCluster l x.cls y s, true)
    else (prepSpot y s).map fun t => (t, false)
/-- Every team of a `.gridsync` launch, in one bank number: the state with all placed, or with a place prepared for the
first that has to wait (R41). -/
def placeAll (l b : Nat) (s0 : State) : Nat → State → Option (State × Bool)
  | 0, s => some (s, true)
  | n + 1, s =>
    let L := s.launch l
    if L.nteams ≤ L.placed then some (s, true)
    else
      match findSpot s L.d L.p (L.desc.clw + 1) (L.desc.clh + 1) (seekerOf s L) [b] with
      | none => none
      | some y =>
        if spotReady s y then placeAll l b s0 n (placeCluster l (seekerOf s L).cls y s)
        else (prepSpot y s0).map fun t => (t, false)
/-- The teams of a launch that the dealer places next. -/
def dealLaunch (l : Nat) (s : State) : Option State :=
  let L := s.launch l
  if L.desc.rg = 0 then openLaunch l s
  else if L.desc.gs then
    match placeAll l 0 s L.nteams s, placeAll l 1 s L.nteams s with
    | some (t, true), _ => some t
    | _, some (t, true) => some t
    | some (t, false), _ => some t
    | _, some (t, false) => some t
    | _, _ => none
  else (placeOne l [0, 1] s).map Prod.fst
/-- The released contents of a context, in the order of their release. -/
def releasedOf (s : State) (d asid : Nat) : List Nat :=
  (s.conts.filter fun (e : Nat × Cont) => e.2.d = d && e.2.asid = asid && released e.2).map Prod.fst
/-- What an image looks for. -/
def imageSeeker (s : State) (k : Nat) : Seeker := ⟨(s.cont k).asid, contClass s k, contNeed s k, true, k⟩
/-- A bank is made free for a released context when none is (R380, R402). -/
def dealContext (d p asid : Nat) (s : State) : Option State :=
  match releasedOf s d asid with
  | [] => none
  | k :: _ =>
    match findSpot s d p 1 1 (imageSeeker s k) [0, 1] with
    | some y =>
      if y.kind ≠ 3 then none
      else if spotReady s y then some (y.cores.foldl (fun s c => releaseBank c y.bank s) s)
      else prepSpot y s
    | none => none
/-- The dealer's next act on the head of a partition's queue; none when there is none. -/
def deal (d p : Nat) (s : State) : Option State :=
  let v := s.dev d
  if !v.partOk p || v.lockout || (!v.applied && v.changing p) then none
  else
    match queueHead s d p with
    | some (_, _, .inl l) => dealLaunch l s
    | some (_, _, .inr a) => dealContext d p a s
    | none => none
/-- TEAM_PLACEMENT (R34 to R41, R397, R401 to R403). -/
def execTeamPlacement (d p : Nat) (s : State) : Out :=
  guardEv "TEAM_PLACEMENT" (deal d p s).isSome ((deal d p s).getD s)

end Sys2Proof.Machine
end

