-- ==== Sys2Proof/Machine/EvContext.lean ====
section
/-! DEFINITION. Sys2Proof/Machine/EvContext.lean: swaps, slices, the talon (R375 to R384, R408), the end of a context (R395, R396), the
permit audit (R366, R367) and the move of a tenant (R428 to R430). -/

namespace Sys2Proof.Machine
open Sys2Proof

/-! ### Swaps and slices -/

/-- At a swap-in every team takes the class of the registers' present values (R399), and the groups' ages are zero
(R404). -/
def swapIn (k : Nat) (s : State) : State :=
  let s := (s.cont k).teams.foldl (fun s t =>
    let c := launchClass s (s.launch (s.team t).launch)
    s.modTeam t fun T => { T with cls := c }) s
  (s.groupsOf k).foldl (fun s g => wakeGroup g (s.modGrp g fun G => { G with age := 0 })) s
/-- One core swaps to bank b (R382 to R384, R408): the outgoing bank is INACTIVE, a spill into which it swaps is abandoned,
an image that it makes stale is discarded. -/
def swapOne (core b : Nat) (s : State) : State :=
    let c := s.core core
    if c.act = b && ((c.bank b).st = .active || (c.bank b).st = .empty) then s.modCore core fun c => { c with swap := none }
    else
    let k := (c.bank b).cont
    let out (x : Bank) : Bank := if x.st = .active then { x with st := .inactive } else x
    let into (x : Bank) : Bank := if x.st = .empty then x else { x with st := .active }
    let c := c.setBank c.act (out (c.bank c.act))
    let c := { c.setBank b (into (c.bank b)) with
      act := b
      swap := none
      store := if c.store = k then 0 else c.store }
    let s := (s.modCore core fun _ => c).perf core 0x10 1
    let s := loadSlice core b s
    if k = 0 then s else swapIn k s
/-- The pending swap is served, with those of the cores that swap together (R39, R41, R382). -/
def swapBank (core : Nat) (s : State) : State :=
  match (s.core core).swap with
  | none => s
  | some b => (swapUnit s core b).foldl (fun s (e : Nat × Nat) => swapOne e.1 e.2 s) s
/-- A core's swap to bank b can be served: the bank is not FILLING, and trap entries of the boundary have been made (R382,
R383). -/
def coreReady (s : State) (core b : Nat) : Bool :=
  let c := s.core core
  (c.bank b).st ≠ .filling &&
    ((c.bank c.act).st ≠ .active || !(s.groupsOf (c.bank c.act).cont).any fun g => trapDue g s)
/-- The swap can be served. -/
def swapReady (s : State) (core : Nat) : Bool :=
  match (s.core core).swap with
  | none => false
  | some b => (swapUnit s core b).all fun (e : Nat × Nat) => coreReady s e.1 e.2
/-- BANK_SWAP (R382). -/
def execBankSwap (core : Nat) (s : State) : Out := guardEv "BANK_SWAP" (swapReady s core) (swapBank core s)

/-- A slice ends (R369, R408): the swap is requested when the other bank's context is of at least the active class; else
a new slice begins. -/
def sliceEnd (core b : Nat) (s : State) : State :=
  let c := s.core core
  let o := c.bank (1 - b)
  if o.st ≠ .empty && unitHere s o.cont && decide (contClass s (c.bank b).cont ≤ contClass s o.cont) then
    askSwap core (1 - b) (s.modCore core fun c => { c with ts := kput c.ts b (1#64 <<< 63) })
  else loadSlice core b s
/-- The slice of the core's active bank runs, whatever state the bank is in (R369, R408). -/
def sliceRuns (s : State) (core b : Nat) : Bool :=
  let c := s.core core
  c.act = b && bf (rget c.ts b) 31 0 ≠ 0
/-- SLICE_EXPIRY (R369, R408). -/
def execSliceExpiry (core bank : Nat) (s : State) : Out :=
  guardEv "SLICE_EXPIRY" (sliceRuns s core bank) (sliceEnd core bank s)

/-! ### The talon -/

/-- SPILL_START (R375, R376, R378). -/
def execSpillStart (core bank : Nat) (s : State) : Out :=
  guardEv "SPILL_START" (spillOk s core bank) (spillBank core bank s)
/-- A spill can end: the operation that was running has released its slots and regions, and issued accesses have been made
(R378). -/
def spillEnds (s : State) (core b : Nat) : Bool :=
  let bk := (s.core core).bank b
  bk.st = .spilling && !opRunning s bk.cont && !accessesOpen s bk.cont
/-- SPILL_COMPLETE (R375, R376). -/
def execSpillComplete (core bank : Nat) (s : State) : Out :=
  guardEv "SPILL_COMPLETE" (spillEnds s core bank)
    (s.modCore core fun c => c.setBank bank ⟨.clean, (c.bank bank).cont⟩)

/-- The lowest free slot of a context's save area (R380). -/
def freeSlot (s : State) (d asid : Nat) : Option Nat :=
  let used (i : Nat) : Bool := s.conts.any fun (e : Nat × Cont) => e.2.d = d && e.2.asid = asid && e.2.loc = .slot i
  let n := min (bf ((s.dev d).ctxOf asid).save 15 0) (s.conts.length + 1)
  (List.range n).find? fun i => !used i
/-- The slot that the released image of a store takes (R380). -/
def copyOutSlot (s : State) (core : Nat) : Option Nat :=
  if storeReleased s core && (s.core core).b0.st ≠ .filling && (s.core core).b1.st ≠ .filling then
    let c := s.cont (s.core core).store
    freeSlot s c.d c.asid
  else none
/-- A released image leaves the store for its slot of the save area, whose bytes are the image's from then on (R376, R379,
R380; log entry 90). -/
def copyOut (core : Nat) (s : State) : State :=
  match copyOutSlot s core with
  | none => s
  | some i =>
    let k := (s.core core).store
    let base := slotBase s (s.cont k) i
    let off (e : Nat × Nat) : Bool := decide (e.1 < base / 32) || decide ((base + imageSize) / 32 ≤ e.1)
    let s : State := { s with psn := s.psn.filter off }
    (s.modCore core fun c => { c with store := 0 }).modCont k fun c => { c with loc := .slot i }
/-- IMAGE_COPY_OUT (R380). -/
def execImageCopyOut (core : Nat) (s : State) : Out :=
  guardEv "IMAGE_COPY_OUT" (copyOutSlot s core).isSome (copyOut core s)

/-- The context of a content is at the head of its partition's queue (R401). -/
def atHead (s : State) (c : Cont) : Bool :=
  match queueHead s c.d c.p with
  | some (_, _, .inr a) => a = c.asid
  | _ => false
/-- The core and bank that the dealer chooses for an image (R380, R402, R403; log entry 140): an EMPTY bank of the core whose
store holds it, or for one in the save area the first candidate of R402. -/
def imagePlace (s : State) (k : Nat) : Option (Nat × Nat) :=
  let c := s.cont k
  match c.loc with
  | .store core => ((List.range 2).find? fun b => candKind s c.d c.p (imageSeeker s k) core b = 2).map fun b => (core, b)
  | .slot _ => (match findSpot s c.d c.p 1 1 (imageSeeker s k) [0, 1] with
    | some y => if y.kind = 2 then y.cores.head?.map fun core => (core, y.bank) else none
    | none => none)
  | _ => none
/-- An image can be copied into the store of a core: the one that the dealer has chosen (R380, R402). -/
def copyInOk (s : State) (k core : Nat) : Bool :=
  let c := s.cont k
  (kget s.conts k).isSome && (match c.loc with | .slot _ => true | _ => false) && atHead s c
    && ((imagePlace s k).map Prod.fst) = some core
/-- IMAGE_COPY_IN (R380). -/
def execImageCopyIn (k core : Nat) (s : State) : Out :=
  guardEv "IMAGE_COPY_IN" (copyInOk s k core)
    ((s.modCore core fun c => { c with store := k }).modCont k fun c => { c with loc := .store core })

/-- The groups of a content have written nothing that has still to perform on the way to a mirror (R261). -/
def mirrorsDone (s : State) (k : Nat) : Bool :=
  !s.mlog.any fun (x : MirrorUp) => (s.groupsOf k).contains x.op.1
/-- A fill of an EMPTY bank of a core from its store can start, at the place that the dealer has chosen (R380, R402, R403). -/
def fillStarts (s : State) (core b : Nat) : Bool :=
  let k := (s.core core).store
  storeReleased s core && ((s.core core).bank b).st = .empty && ((s.core core).bank (1 - b)).st ≠ .filling
    && atHead s (s.cont k) && imagePlace s k = some (core, b)
/-- A fill can end (R261): on another core than before, the context's writes can perform. -/
def fillEnds (s : State) (core b : Nat) : Bool :=
  let k := (s.core core).store
  let c := s.cont k
  ((s.core core).bank b).st = .filling && (c.last = core || (wpReady s c.last && mirrorsDone s k))
/-- The bank is filled and INACTIVE (R375, R380). On another core than before, the context's writes perform first and the
core bumps its device class (R261, R365). -/
def fillBank (core b : Nat) (s : State) : State :=
  let k := (s.core core).store
  let c := s.cont k
  let s := if c.last = core then s else bumpDev core (drainCore c.last s)
  let s := s.modCore core fun x => { x.setBank b ⟨.inactive, k⟩ with store := 0 }
  preferBank core b (s.modCont k fun c => { c with loc := .bank core b, last := core })
/-- A fill starts: the bank is FILLING (R375). -/
def fillBegin (core b : Nat) (s : State) : State :=
  s.modCore core fun c => c.setBank b ⟨.filling, c.store⟩
/-- FILL (R375, R380): its first occurrence makes the bank FILLING, its second ends the fill. -/
def execFill (core bank : Nat) (s : State) : Out :=
  guardEv "FILL" (fillStarts s core bank || fillEnds s core bank)
    (if fillStarts s core bank then fillBegin core bank s else fillBank core bank s)

/-! ### The end of a context -/

/-- CTXSTAT.KILL of an address space is set (R396). -/
def killSet (s : State) (d a : Nat) : Bool := ((s.dev d).ctxOf a).stat.getLsbD 62
/-- KILL: the bit reads 1 until the context has ended (R396). -/
def execKill (d asid : Nat) (s : State) : Out :=
  .next (s.modCtx d asid fun c => { c with stat := c.stat ||| (1#64 <<< 62) })
/-- CONTEXT_END of a killed context (R395, R396): WHY is 3. -/
def execContextEnd (d asid : Nat) (s : State) : Out :=
  guardEv "CONTEXT_END" (killSet s d asid) (endContext s d asid 0 3 0 0 0 0)

/-! ### Permit audit -/

/-- The push queues whose operations travel on queue link k of a group, as commands or as results (R286, R367). -/
def linkSources (k : Nat) : List Nat :=
  match k with | 0 | 1 => [0] | 2 => [2] | 3 => [2, 6] | 4 | 5 => [4] | 6 => [6] | _ => []
/-- The unread entries of a push queue of an engine. -/
def Group.pushes (G : Group) (k : Nat) : List Push :=
  match k with | 2 => G.q2 | 4 => G.q4 | 6 => G.q6 | _ => []
/-- Every operation of a group whose command or result travels over these push queues is done without a result: unread ones
are discarded, started ones run on (R367; log entry 142). `n`: with the number of such operations. -/
def quietOps (g : Nat) (ks : List Nat) (s : State) : Nat × State :=
  let G := s.grp g
  let unread := ks.flatMap G.pushes
  let mine (c : Cmd) : Bool := c.grp = g && ks.contains c.src && !c.quiet
  let cmds := s.cmds.filter fun (e : Nat × Cmd) => mine e.2
  let cid := (s.teamOf g).cont
  let mops := if ks.contains 0 then (s.cont cid).mq.filter fun (e : Nat × MOp) => e.2.grp = g && !e.2.quiet else []
  let s := s.modCont cid fun c => { c with mq := (c.mq.filter fun (e : Nat × MOp) =>
      !(ks.contains 0 && e.2.grp = g && !e.2.started)).map fun (e : Nat × MOp) =>
        (e.1, if ks.contains 0 && e.2.grp = g then { e.2 with quiet := true } else e.2) }
  let s : State := { s with cmds := s.cmds.map fun (e : Nat × Cmd) => (e.1, if mine e.2 then { e.2 with quiet := true } else e.2) }
  let s := s.modGrp g fun G =>
    let G := unread.foldl (fun (G : Group) (p : Push) => G.doneOp 2 p.op) G
    let G := (cmds.filter fun (e : Nat × Cmd) => e.2.cnt).foldl (fun (G : Group) (e : Nat × Cmd) => G.doneOp 2 e.2.op) G
    let G := mops.foldl (fun (G : Group) (e : Nat × MOp) => G.doneOp 3 e.2.op) G
    { G with
      q2 := if ks.contains 2 then [] else G.q2
      q4 := if ks.contains 4 then [] else G.q4
      q6 := if ks.contains 6 then [] else G.q6 }
  (unread.length + cmds.length + mops.length, s)
/-- A mismatch is repaired on queue k of a group (R367): its entries and reservations go, its operations are done, the permits
are whole, and the group will be told. -/
def repairGroup (g k : Nat) (s : State) : State :=
  let r := quietOps g (linkSources k) s
  r.2.modGrp g fun G =>
    let res := match qResult k with
      | some (q, per) => kput G.res q ((kget G.res q).getD 0 - per * r.1)
      | none => kdel G.res k
    { G with
      lost := kdel G.lost k, res := res, lostRep := G.lostRep ++ [k]
      q1 := if k = 1 then [] else G.q1
      q3 := if k = 3 then [] else G.q3
      q5 := if k = 5 then [] else G.q5
      q7 := if k = 7 then [] else G.q7 }
/-- The same on a queue of a team: every group of it is told (R367). -/
def repairTeam (t k : Nat) (s : State) : State :=
  let s := s.modTeam t fun T => { T with tq := kdel T.tq k, tlost := kdel T.tlost k }
  (s.team t).groups.foldl (fun s g => s.modGrp g fun G => { G with lostRep := G.lostRep ++ [k] }) s
/-- The queues of a group that have operations on an internal link: a copy engine's carry the group's copies, the dealer's its
task packets (R366; log entry 142). -/
def innerSources (s : State) (d p link : Nat) (x : Nat × Cmd) : Bool :=
  x.2.d = d && x.2.p = p && x.2.src ≠ 0 && !x.2.quiet && (kget s.groups x.2.grp).isSome &&
    (if link < 32 then x.2.src ≠ 4 && (Config.copyEngine x.1).toNat % 32 = link else link = 33 && x.2.src = 4)
/-- The nodes that groups have pushed and the stitcher holds for a partition. -/
def pushedNodes (s : State) (d p : Nat) : List (Nat × GNode) :=
  s.nodes.filter fun (e : Nat × GNode) => e.2.d = d && e.2.p = p && e.2.grp ≠ 0 && (s.part d p).walkq.contains e.1
/-- An internal link is repaired: its operations are done without a result, and their groups will be told (R367). -/
def repairInner (d p link : Nat) (s : State) : State :=
  let cmds := s.cmds.filter fun (e : Nat × Cmd) => innerSources s d p link e
  let roots := if link = 32 then pushedNodes s d p else []
  let s : State := { s with
    cmds := s.cmds.map fun (e : Nat × Cmd) =>
      (e.1, if (kget cmds e.1).isSome then { e.2 with quiet := true } else e.2)
    nodes := s.nodes.filter fun (e : Nat × GNode) => (kget roots e.1).isNone }
  let s := s.modPart d p fun q => { q with walkq := q.walkq.filter fun n => (kget roots n).isNone }
  let s := cmds.foldl (fun s (e : Nat × Cmd) => s.modGrp e.2.grp fun G =>
    let G := if e.2.cnt then G.doneOp 2 e.2.op else G
    let q := if e.2.src = 4 then 5 else 3
    { G with res := kput G.res q ((kget G.res q).getD 0 - 2) }) s
  let tell := ((cmds.map fun (e : Nat × Cmd) => e.2.grp) ++ roots.map fun (e : Nat × GNode) => e.2.grp).eraseDups
  let s := tell.foldl (fun s g => s.modGrp g fun G => { G with lostRep := G.lostRep ++ [0x100 + link] }) s
  s.modDev d fun v => { v with ilost := kdel v.ilost (16 * link + p) }
/-- The entries of a count of lost permits that are not zero. -/
def lostOf (m : KV Nat) : List Nat := (m.filter fun (e : Nat × Nat) => e.2 ≠ 0).map Prod.fst
/-- Queue links of a device whose sum differs from its total (R366): group or team, and queue. -/
def lostLinks (s : State) (d : Nat) : List (Bool × Nat × Nat) :=
  let gs : List (Bool × Nat × Nat) := (s.groups.filter fun (e : Nat × Group) => (s.contOf e.1).d = d).flatMap
    fun (e : Nat × Group) => (lostOf e.2.lost).map fun k => (true, e.1, k)
  let ts : List (Bool × Nat × Nat) := (s.teams.filter fun (e : Nat × Team) => (s.cont e.2.cont).d = d).flatMap
    fun (e : Nat × Team) => (lostOf e.2.tlost).map fun k => (false, e.1, k)
  gs ++ ts
/-- One audit period ends: queue links and internal links are repaired, and the mismatches count (R366, R367). -/
def auditLinks (d : Nat) (s : State) : State :=
  let ls := lostLinks s d
  let is := lostOf (s.dev d).ilost
  let s := ls.foldl (fun s (x : Bool × Nat × Nat) => if x.1 then repairGroup x.2.1 x.2.2 s else repairTeam x.2.1 x.2.2 s) s
  let s := is.foldl (fun s k => repairInner d (k % 16) (k / 16) s) s
  s.modDev d fun v => { v with audMis := v.audMis + BitVec.ofNat 32 (ls.length + is.length) }
/-- AUDIT (R366). -/
def execAudit (d : Nat) (s : State) : Out := guardEv "AUDIT" (s.dev d).audEn (auditLinks d s)

/-! ### Moving a tenant -/

/-- Fields of MIGCTL (R428) as the move under way has taken them. -/
def Ctx.dnode (c : Ctx) : Nat := bf c.mdst 49 40
def Ctx.dpart (c : Ctx) : Nat := bf c.mdst 39 36
def Ctx.dasid (c : Ctx) : Nat := bf c.mdst 35 27
def Ctx.mstate (c : Ctx) : Nat := bf c.migctl 2 0
/-- MIGCTL with another STATE; GO reads 1 while the move is under way. -/
def Ctx.setMove (c : Ctx) (st : Nat) : Ctx :=
  { c with migctl := (c.migctl &&& 0x0003FFFFF8000000#64) ||| BitVec.ofNat 64 ((if st = 1 ∨ st = 2 then 2 ^ 63 else 0) + st) }
/-- The contents of a context that have still to be sent. -/
def unsent (s : State) (d asid : Nat) : List Nat :=
  (contsOfCtx s d asid).filter fun k => match (s.cont k).loc with | .moving _ _ _ _ => false | _ => true
/-- Sends the images that can leave (R378, R429): no operation holds their slots or regions. -/
def sendImages (d asid : Nat) (s : State) : State :=
  let x := (s.dev d).ctxOf asid
  let go (s : State) (k : Nat) : State :=
    if opRunning s k then s
    else (vacate s k).modCont k fun c => { c with loc := .moving x.dnode x.dpart x.dasid k }
  let s := (unsent s d asid).foldl go s
  s.modCtx d asid fun c => c.setMove (if (unsent s d asid).isEmpty then 2 else 1)
/-- A store to MIGCTL with GO (R428, R429): its fields take their values; a move under way goes on to where it began to. -/
def migStart (d asid : Nat) (v : Dword) (s : State) : State :=
  let put (c : Ctx) : Ctx := { c with migctl := (v &&& 0x0003FFFFF8000000#64) ||| (c.migctl &&& 0x8000000000000007#64) }
  if frozen s d asid then s.modCtx d asid put
  else sendImages d asid (s.modCtx d asid fun c => Ctx.setMove { put c with mdst := v } 1)
/-- MIGCTL_GO (R429). -/
def execMigctlGo (d asid : Nat) (v : BitVec 64) (s : State) : Out :=
  guardEv "MIGCTL_GO" (v.getLsbD 63) (migStart d asid v s)
/-- The destination can be reached and takes every image (R429, R430). -/
def destOk (s : State) (d asid : Nat) : Bool :=
  let x := (s.dev d).ctxOf asid
  let v := s.dev x.dnode
  (kget s.devs x.dnode).isSome && !(s.dev d).lostPeer.contains x.dnode && v.partOk x.dpart && v.asidOk x.dasid
    && v.asidPart x.dasid = x.dpart && x.dnode ≠ d
    && decide ((contsOfCtx s d asid).length + slotsTaken s x.dnode x.dasid ≤ bf (v.ctxOf x.dasid).save 15 0)
/-- Waits on the source's fault ring are raised again at the destination. -/
def unwait (G : Group) : Group :=
  { G with recs := G.recs.map fun (e : Nat × Rec) => (e.1, { e.2 with seq := none, pri := none }) }
/-- Launches, nodes and unstarted commands of the context belong to the destination (R374, R429). -/
def moveWork (d asid D P A : Nat) (s : State) : State :=
  let p := (s.dev d).asidPart asid
  let gen := ((s.dev D).ctxOf A).gen
  let vif := (s.dev D).asidVif A
  let mineL (l : Nat) : Bool := (s.launch l).d = d && (s.launch l).asid = asid
  let mineN (n : GNode) : Bool := n.d = d && n.asid = asid
  let mineW (u : Nat) : Bool := match kget s.nodes u with | some n => mineN n | none => false
  let q := s.part d p
  let lq := q.launchq.filter mineL
  let wq := q.walkq.filter mineW
  let s := s.modPart d p fun q => { q with
    launchq := q.launchq.filter fun l => !mineL l
    walkq := q.walkq.filter fun u => !mineW u
    fents := q.fents.filter fun e => e.asid ≠ asid }
  let s := s.modPart D P fun q => { q with launchq := q.launchq ++ lq, walkq := q.walkq ++ wq }
  let L (e : Nat × Launch) : Nat × Launch :=
    if e.2.d = d && e.2.asid = asid then (e.1, { e.2 with d := D, p := P, asid := A }) else e
  let N (e : Nat × GNode) : Nat × GNode :=
    if mineN e.2 then (e.1, { e.2 with d := D, p := P, asid := A, gen := gen, vif := vif }) else e
  let C (e : Nat × Cmd) : Nat × Cmd :=
    if e.2.d = d && e.2.asid = asid && e.2.stage = .queued then (e.1, { e.2 with d := D, p := P, asid := A, gen := gen })
    else e
  { s with launches := s.launches.map L, nodes := s.nodes.map N, cmds := s.cmds.map C }
/-- Every image has arrived: the context is released on the destination (R380, R429). -/
def moveDone (d asid : Nat) (s : State) : State :=
  let x := (s.dev d).ctxOf asid
  let ks := contsOfCtx s d asid
  let s := moveWork d asid x.dnode x.dpart x.dasid s
  let s := ks.foldl (fun s k =>
    let s := (s.groupsOf k).foldl (fun s g => s.modGrp g unwait) s
    let i := (freeSlot s x.dnode x.dasid).getD 0
    s.modCont k fun c => { c with
      d := x.dnode, p := x.dpart, asid := x.dasid, loc := .slot i, relTime := s.time.toNat }) s
  s.modCtx d asid fun c => c.setMove 3
/-- TENANT_MOVE_COMPLETE (R429, R261, R377). -/
def execTenantMoveComplete (d asid : Nat) (s : State) : Out :=
  guardEv "TENANT_MOVE_COMPLETE"
    (frozen s d asid && (unsent s d asid).all (fun k => !opRunning s k) && destOk s d asid)
    (moveDone d asid (sendImages d asid s))
/-- The move has failed: what was sent is discarded, and the context is released on its own device (R430). -/
def moveFailed (d asid : Nat) (s : State) : State :=
  let back (s : State) (k : Nat) : State :=
    let used : List Nat := s.conts.filterMap fun (e : Nat × Cont) =>
      match e.2.loc with | .slot i => if e.2.d = d && e.2.asid = asid then some i else none | _ => none
    let i := ((List.range (used.length + 1)).find? fun i => !used.contains i).getD 0
    match (s.cont k).loc with
    | .moving _ _ _ _ => s.modCont k fun c => { c with loc := .slot i, relTime := s.time.toNat }
    | _ => s
  ((contsOfCtx s d asid).foldl back s).modCtx d asid fun c => c.setMove 4
/-- TENANT_MOVE_FAILED (R430). -/
def execTenantMoveFailed (d asid : Nat) (s : State) : Out :=
  guardEv "TENANT_MOVE_FAILED" (frozen s d asid && !destOk s d asid) (moveFailed d asid s)

end Sys2Proof.Machine
end

