-- ==== Sys2Proof/Machine/EvFabric.lean ====
section
/-! DEFINITION. Sys2Proof/Machine/EvFabric.lean: links, peers, kitty switches and dynamic capacity (R416, R419 to R427). -/

namespace Sys2Proof.Machine
open Sys2Proof

/-! ### Links (R421, R422) -/

def Dev.link (v : Dev) (plane : Nat) : Link := (kget v.links plane).getD ⟨0, 0, 0, [], [], false⟩
def Dev.setLink (v : Dev) (plane : Nat) (x : Link) : Dev := { v with links := kput v.links plane x }
/-- A packet reaches the receiver: the next expected one is accepted when there is room, once for each end-to-end number;
any other is discarded, and its gap is reported (R421, R422). -/
def linkReceive (plane : Nat) (seq : BitVec 16) (room : Bool) (e2e : Nat) (v : Dev) : Dev :=
  let x := v.link plane
  if x.expect = seq && room then
    { v.setLink plane { x with expect := x.expect + 1, nak := false } with
      placed := if v.placed.contains e2e then v.placed else e2e :: v.placed }
  else v.setLink plane { x with nak := true }
/-- PACKET_RECEIVE (R421, R422). -/
def execPacketReceive (d plane : Nat) (seq : BitVec 16) (room : Bool) (e2e : Nat) (s : State) : Out :=
  guardEv "PACKET_RECEIVE" (decide (plane < 64)) (s.modDev d (linkReceive plane seq room e2e))
/-- The number is of a packet that has been sent and is not acknowledged. -/
def outstanding (x : Link) (seq : BitVec 16) : Bool := decide ((seq - x.acked).toNat < (x.send - x.acked).toNat)
/-- A cumulative acknowledgement frees the packets up to its number (R421). -/
def linkAck (plane : Nat) (seq : BitVec 16) (v : Dev) : Dev :=
  let x := v.link plane
  if outstanding x seq then
    v.setLink plane { x with
      acked := seq + 1
      retrains := []
      buf := x.buf.filter fun n => decide ((seq - x.acked).toNat < (n - x.acked).toNat) }
  else v
/-- ACKNOWLEDGEMENT (R421). -/
def execAcknowledgement (d plane : Nat) (seq : BitVec 16) (s : State) : Out :=
  guardEv "ACKNOWLEDGEMENT" (decide (plane < 64)) (s.modDev d (linkAck plane seq))
/-- NEGATIVE_ACKNOWLEDGEMENT: the packets from the named number are sent again from the retransmit buffer, which keeps
them (R421). -/
def execNegativeAcknowledgement (d plane : Nat) (_seq : BitVec 16) (s : State) : Out :=
  guardEv "NEGATIVE_ACKNOWLEDGEMENT" (decide (plane < 64)) (s.modDev d id)
/-- The retrains of a link that have failed within 1 ms before a time in nanoseconds (R187, R422). -/
def Link.recent (x : Link) (now : Nat) : List Nat := x.retrains.filter fun t => decide (now ≤ t + 1000000)
/-- A retrain fails; the third within 1 ms declares the plane down, and its packets go out on the fallback plane (R422). -/
def linkFail (now plane : Nat) (v : Dev) : Dev :=
  let x := v.link plane
  if (x.recent now).length < 2 then v.setLink plane { x with retrains := now :: x.recent now }
  else
    let v := { v with planes := v.planes &&& ~~~(1#64 <<< plane) }
    let v := v.setLink plane { x with retrains := [], acked := x.send, buf := [] }
    match fallback v plane with
    | none => v
    | some q =>
      let y := v.link q
      v.setLink q { y with
        send := y.send + BitVec.ofNat 16 x.buf.length
        buf := y.buf ++ (List.range x.buf.length).map fun i => y.send + BitVec.ofNat 16 i }
/-- LINK_RETRAIN (R422). -/
def execLinkRetrain (d plane : Nat) (s : State) : Out :=
  guardEv "LINK_RETRAIN" (decide (plane < 64) && (s.dev d).planes.getLsbD plane) (s.modDev d (linkFail s.time.toNat plane))

/-! ### Peers (R424) -/

/-- The tag of a line of device d after peer q is lost: its copy counts as invalidated; newest data that it held in M or O
is gone, and the line is poisoned. -/
def tagLost (q : Nat) (t : Word) : Word :=
  if (tagST t = 3 || tagST t = 4) && tagOWN t = q then t ||| (1#32 <<< 23)
  else match tagEvict t q with | some n => n | none => t
/-- Spans of a device's commands that can no longer land, with a poison reason of their places: their commands complete
with NO-DEVICE (R424, R427). -/
def dropSpans (d why : Nat) (s : State) : State :=
  let dead (c : Cmd) (x : Span) : Bool := x.cells.any fun e =>
    gkSpace e.key = 8 && (place s c.d c.p e.kind 2 (gkOff e.key)).bad = why
  let fix (c : Cmd) : Cmd :=
    if c.d = d && c.spans.any fun (e : Nat × Span) => dead c e.2 then (Cmd.fail { c with spans := [] } 0x0F 0 0).stop else c
  { s with cmds := s.cmds.map fun (e : Nat × Cmd) => (e.1, fix e.2) }
/-- Task packets on their way to a lost peer complete with NO-DEVICE; those that run there do not: with that status nothing
has run (R310; log entry 137). -/
def dropTasks (d q : Nat) (s : State) : State :=
  let fix (c : Cmd) : Cmd :=
    if c.d = d && c.src = 4 && c.stage = .run && c.target = q then
      { c with status := 0x0F, stage := .replied }
    else c
  { s with cmds := s.cmds.map fun (e : Nat × Cmd) => (e.1, fix e.2) }
/-- Device d finds peer q unreachable (R424). -/
def peerGone (d q : Nat) (s : State) : State :=
  let s := s.modDev d fun v => { v with lostPeer := if v.lostPeer.contains q then v.lostPeer else q :: v.lostPeer }
  let mine (line : Nat) : Bool := gkSpace (line * 256) = 0 && gkDev (line * 256) = d
  let coh (line : Nat) : Bool := mine line && (lineKind s line = 3 || lineKind s line = 4)
  let s := { s with
    tags := s.tags.map fun (e : Nat × Word) => (e.1, if coh e.1 then tagLost q e.2 else e.2)
    edirty := s.edirty.filter fun (e : Nat × Bool) => !(mine e.1 && tagST (rget s.tags e.1) = 2 && tagOWN (rget s.tags e.1) = q)
    home := s.home.map fun (e : Nat × HReq) =>
      (e.1, if mine e.1 then { e.2 with acks := e.2.acks.filter (· ≠ q), inv := e.2.inv.filter (· ≠ q) } else e.2) }
  let s := (s.home.filter fun (e : Nat × HReq) => mine e.1).foldl (fun s (e : Nat × HReq) => homeSettle e.1 s) s
  dropTasks d q (dropSpans d 4 s)
/-- PEER_UNREACHABLE (R424). -/
def execPeerUnreachable (d q : Nat) (s : State) : Out := guardEv "PEER_UNREACHABLE" (d ≠ q) (peerGone d q s)
/-- PEER_ADMITTED (R424): a new node; copies stay invalidated. -/
def execPeerAdmitted (d q : Nat) (s : State) : Out :=
  guardEv "PEER_ADMITTED" ((s.dev d).lostPeer.contains q)
    (s.modDev d fun v => { v with lostPeer := v.lostPeer.filter fun n => n ≠ q })

/-! ### Kitty switches (R425 to R427) -/

/-- The secondary applies an update when every earlier one of its lines has been applied (R426). -/
def mirrorTurn (s : State) (n : Nat) : Bool :=
  match s.mlog[n]? with
  | none => false
  | some u => (s.mlog.take n).all fun (x : MirrorUp) => x.sw ≠ u.sw ||
      !x.cells.any fun (a : Nat × Byte) => u.cells.any fun (b : Nat × Byte) => a.1 / 256 = b.1 / 256
/-- MIRROR_UPDATE (R426). -/
def execMirrorUpdate (n : Nat) (s : State) : Out :=
  guardEv "MIRROR_UPDATE" (mirrorTurn s n) (match s.mlog[n]? with | some u => mirrorApply s u | none => s)
/-- The switches that hold bytes of an allocation: every one for a striped one (R425). -/
def allocOn (a : Alloc) (w : Nat) : Bool :=
  match kittyAt a.base with
  | (_, some (q, _)) => w = (kittyAt a.base).1.1 || w = q
  | (x, none) => a.base / 2 ^ 43 % 2 = 0 || w = x.1
/-- The primary switch of an update: the number of its window on the secondary (R425). -/
def MirrorUp.primary (u : MirrorUp) : Nat :=
  match u.cells with | c :: _ => gkOff c.1 / 2 ^ 30 % 64 | [] => 0
/-- A switch is lost (R427): its allocations lose it, and the surviving mirrors apply what was sequenced. -/
def switchGone (w : Nat) (s : State) : State :=
  let s := (s.mlog.filter fun (u : MirrorUp) => u.sw = w || u.primary = w).foldl mirrorApply s
  { s with
    sw := kput s.sw w true
    allocs := s.allocs.map fun a => if allocOn a w && !a.gone.contains w then { a with gone := w :: a.gone } else a }
/-- Device d learns of the loss; what it had in flight to the switch completes with NO-DEVICE (R427). -/
def switchLearn (d w : Nat) (s : State) : State :=
  let s := if s.swLost w then s else switchGone w s
  let s := s.modDev d fun v => { v with lostSw := if v.lostSw.contains w then v.lostSw else w :: v.lostSw }
  dropSpans d 5 s
/-- SWITCH_LOSS (R427). -/
def execSwitchLoss (d sw : Nat) (s : State) : Out := guardEv "SWITCH_LOSS" (decide (sw < 64)) (switchLearn d sw s)
/-- A lost switch comes back empty, with the quota rows that the fabric manager writes (R427, R351). A row's key is 4 ×
tenant + doubleword. -/
def switchBack (w : Nat) (rows : List (Nat × Dword)) (s : State) : State :=
  let base := qkey w 0 0
  let q := s.quota.filter fun (e : Nat × Dword) => decide (e.1 < base) || decide (base + 16384 ≤ e.1)
  { s with
    sw := kdel s.sw w
    mem := memClear s.mem (gk 5 0 w 0) (gk 5 0 (w + 1) 0)
    psn := s.psn.filter fun (e : Nat × Nat) => decide (e.1 < gk 5 0 w 0 / 32) || decide (gk 5 0 (w + 1) 0 / 32 ≤ e.1)
    quota := rows.foldl (fun m (r : Nat × Dword) => if r.1 < 16384 then kput m (base + r.1) r.2 else m) q
    devs := s.devs.map fun (e : Nat × Dev) => (e.1, { e.2 with lostSw := e.2.lostSw.filter fun x => x ≠ w }) }
/-- SWITCH_RETURN (R427). -/
def execSwitchReturn (sw : Nat) (rows : List (Nat × BitVec 64)) (s : State) : Out :=
  guardEv "SWITCH_RETURN" (s.swLost sw) (switchBack sw rows s)

/-! ### Dynamic capacity (R416) -/

/-- The device takes a tagged extent into the partition of its tenant: whole blocks of 2 MiB in its memory, at most 4,096
extents, none over another (R413, R416). -/
def extentOk (v : Dev) (p tenant base len : Nat) : Bool :=
  v.partOk p && v.tenant p = tenant && len ≠ 0 && base % 2 ^ 21 = 0 && len % 2 ^ 21 = 0
    && decide (base + len ≤ v.capacity p) && decide (v.dc.length < 4096)
    && !v.dc.any fun (e : Nat × Extent) => e.2.p = p && decide (base < e.2.base + e.2.len) && decide (e.2.base < base + len)
/-- The lowest number that no extent has. -/
def freeExtent (v : Dev) : Nat :=
  ((List.range (v.dc.length + 1)).find? fun i => !v.dc.any fun (e : Nat × Extent) => e.1 = i).getD 0
/-- DC_ADD_EXTENT (R416): an extent that the device does not accept changes nothing. -/
def execDcAddExtent (d p tenant base len : Nat) (s : State) : Out :=
  guardEv "DC_ADD_EXTENT" (s.dev d).fit
    (if extentOk (s.dev d) p tenant base len then
      s.modDev d fun v => { v with dc := kput v.dc (freeExtent v) ⟨p, tenant, base, len, false⟩ }
    else s)
/-- DC_RELEASE_REQUEST (R416): the response is withheld. -/
def execDcReleaseRequest (d n : Nat) (s : State) : Out :=
  guardEv "DC_RELEASE_REQUEST" (kget (s.dev d).dc n).isSome
    (s.modDev d fun v => { v with dc := kmod v.dc n fun e => { e with releasing := true } })
/-- Every line of the extent is in I with HH clear, no migration entry covers it, and no host request to it is in flight
(R416). -/
def extentIdle (s : State) (d : Nat) (e : Extent) : Bool :=
  let lo := gk 0 d e.p e.base / 256
  let hi := gk 0 d e.p (e.base + e.len) / 256
  let inside (l : Nat) : Bool := decide (lo ≤ l) && decide (l < hi)
  let q := s.part d e.p
  !s.tags.any (fun (x : Nat × Word) => inside x.1 && (tagST x.2 ≠ 0 || tagHH x.2))
    && !s.home.any (fun (x : Nat × HReq) => inside x.1)
    && !(List.range 16).any fun n => q.migState n ≠ 0
        && decide (q.migSrc n < e.base + e.len) && decide (e.base < q.migSrc n + q.migLen n)
/-- A range of a partition's memory is written with zero data, valid codes and zero tags. -/
def zeroRange (lo hi : Nat) (s : State) : State :=
  { s with
    mem := memClear s.mem lo hi
    psn := s.psn.filter fun (e : Nat × Nat) => decide (e.1 < lo / 32) || decide (hi / 32 ≤ e.1)
    tags := s.tags.filter fun (e : Nat × Word) => decide (e.1 < lo / 256) || decide (hi / 256 ≤ e.1)
    edirty := s.edirty.filter fun (e : Nat × Bool) => decide (e.1 < lo / 256) || decide (hi / 256 ≤ e.1) }
/-- The extent is released, and its lines are zeroed (R416). -/
def releaseExtent (d n : Nat) (s : State) : State :=
  match kget (s.dev d).dc n with
  | none => s
  | some e => (zeroRange (gk 0 d e.p e.base) (gk 0 d e.p (e.base + e.len)) s).modDev d fun v => { v with dc := kdel v.dc n }
/-- DC_RELEASE_RESPONSE (R416). -/
def execDcReleaseResponse (d n : Nat) (s : State) : Out :=
  guardEv "DC_RELEASE_RESPONSE" ((kget (s.dev d).dc n).any fun e => e.releasing && extentIdle s d e) (releaseExtent d n s)

end Sys2Proof.Machine
end

