-- ==== Sys2Proof/Machine/Marks.lean ====
section
/-! DEFINITION. Sys2Proof/Machine/Marks.lean: the scalar file's words as operands: scalar and predicate registers, index
registers and special registers that an instruction reads or writes, and the marks of those in error (R431, R224). -/

namespace Sys2Proof.Machine
open Sys2Proof

/-- Scalar registers that an instruction reads (R20: an operand may not be ready yet). -/
def ssrcs : Instr → List Nat
  | .sadd _ f | .ssub _ f | .smul _ f | .sand _ f | .sor _ f | .sxor _ f | .sshl _ f | .sshr _ f | .ssra _ f
  | .smin _ f | .smax _ f => [f.a.toNat, f.b.toNat]
  | .scmp _ b a => [a.toNat, b.toNat]
  | .saddi _ _ a _ _ | .pset _ a _ | .sprw _ _ a => [a.toNat]
  | .smovi e _ d _ => if e.xo = 1 then [d.toNat] else []
  | .mov _ f => if f.a = 0#7 then [] else [f.b.toNat]
  | .park _ _ a _ _ | .unpark _ _ a _ _ => [a.toNat]
  | .ret _ a | .tcfg _ a | .tclaim _ a _ | .trel _ a | .bararrN _ a _ | .barexp _ a _ | .barwait _ a _ | .sleep _ a
  | .acqPromote _ a => [a.toNat]
  | .bartest _ _ a _ => [a.toNat]
  | .barinit _ b a _ => [a.toNat, b.toNat]
  | .ldG _ f | .ldSp _ f | .ldCl _ f | .ldCh _ f | .ldLn _ f | .stG _ f | .stSp _ f | .stCl _ f | .stCh _ f | .stLn _ f =>
    [f.a.toNat]
  | .lda _ f | .strel _ f => [f.a.toNat]
  | .pref _ _ _ a _ _ | .cflush _ _ _ a _ _ => [a.toNat]
  | .tfill _ _ _ a d _ => [a.toNat, d.toNat]
  | .trow _ f => [f.a.toNat]
  | .qpush _ f => if f.a = 0#7 then [] else [f.b.toNat]
  | .fcvt e _ _ _ d _ _ => if e.rm = 4 then [(e.rc d).toNat, (e.rc d).toNat + 1] else []
  | .fpack e f => if e.rm = 4 then [(e.rc f.d).toNat, (e.rc f.d).toNat + 1] else []
  | .fwcvt e f => if e.long then [] else [f.b.toNat]
  | _ => []

/-- Predicates that an instruction reads besides p0: the one that selects its lanes (R75, R84) and its own operands. -/
def psrcs (i : Instr) : List Nat :=
  (match (pfxOf i).k0 with | some x => x.px.toNat | none => prOf i) :: match i with
    | .pand _ b a _ | .por _ b a _ | .pxor _ b a _ | .pandn _ b a _ => [a.toNat, b.toNat]
    | .pnot _ a _ | .pget _ a _ => [a.toNat]
    | .brp _ _ _ k => [k.toNat]
    | .split _ _ q _ => [q.toNat]
    | .elect _ b _ _ => [b.toNat]
    | .vsel e f | .vaddc e f => [(e.rc f.d).toNat % 16]
    | .vcmp e f | .fcmp e f => if e.xo = 0 then [] else [f.q.toNat]
    | _ => []
/-- The predicate that an instruction writes. -/
def pdests : Instr → List Nat
  | .pand _ _ _ d | .por _ _ _ d | .pxor _ _ _ d | .pandn _ _ _ d | .pnot _ _ d | .pset _ _ d | .elect _ _ _ d => [d.toNat]
  | .vcmp _ f | .fcmp _ f => [f.q.toNat]
  | .vaddc e f => [(e.rc f.d).toNat % 16]
  | _ => []
/-- The index register that an instruction reads in each of its active lanes (R104, R105). -/
def isrcs : Instr → List Nat
  | .movix _ f | .stix _ f => [f.a.toNat % 4]
  | .ixset _ _ md k _ => if md.toNat = 0 then [] else [k.toNat]
  | _ => []
/-- The key of a 32-bit word of the scalar file: its kind (0 scalar, 1 predicate, 2 index, 3 special), its number in that
kind, the copy of scalar state that holds it, 0 for the last two. -/
def smKey (kind n copy : Nat) : Nat := kind + 4 * (n + 16384 * copy)
/-- Both words of a register of 64 bits. -/
def smPair (kind r copy : Nat) : List Nat := [smKey kind (2 * r) copy, smKey kind (2 * r + 1) copy]
/-- The lanes that an instruction acts on. -/
def marksLanes (s : State) (i : Instr) : List Nat :=
  lanesOf s.g.width (activeMask (pfxOf i) (BitVec.ofNat 2 (prOf i)) s)
/-- The words of the scalar file that an instruction reads. -/
def smReads (s : State) (i : Instr) : List Nat :=
  (ssrcs i).flatMap (fun r => smPair 0 r s.cid) ++ (psrcs i).flatMap (fun k => smPair 1 k s.cid)
    ++ (marksLanes s i).flatMap (fun l => (isrcs i).map fun k => smKey 2 (4 * l + k) 0)
    ++ (match i with | .sprr _ n _ => smPair 3 n.toNat 0 | _ => [])
/-- The words of the scalar file that an instruction writes. -/
def smWrites (s : State) (i : Instr) : List Nat :=
  (sdst i).toList.flatMap (fun r => smPair 0 r s.cid) ++ (pdests i).flatMap (fun k => smPair 1 k s.cid)
    ++ (match i with
      | .ixset _ _ _ k _ => (marksLanes s i).map fun l => smKey 2 (4 * l + k.toNat) 0
      | .sprw _ n _ => smPair 3 n.toNat 0
      | _ => [])
/-- An instruction at a machine whose scalar file has words in error: one that it reads traps before any effect, with reason
POISON, and one that it writes is whole again (R431, R224; log entry 123). -/
def withMarks (i : Instr) (f : State → Out) (s : State) : Out :=
  if s.g.smk.isEmpty then f s
  else if (smReads s i).any fun k => (kget s.g.smk k).isSome then
    .next (poisonTrap i 1 (activeMask (pfxOf i) (BitVec.ofNat 2 (prOf i)) s) s)
  else f (s.modG fun G => { G with smk := (smWrites s i).foldl (fun m k => kdel m k) G.smk })

end Sys2Proof.Machine
end

