-- ==== Sys2Proof/Machine/Errors.lean ====
section
/-! DEFINITION. Sys2Proof/Machine/Errors.lean: what an error that the code of a store finds does (R431, R433). That an error
occurs is an input (log entry 123). -/

namespace Sys2Proof.Machine
open Sys2Proof

/-- A counter of errors that saturates (R433). -/
def satInc (x : BitVec 32) : BitVec 32 := if x = BitVec.ofNat 32 (2 ^ 32 - 1) then x else x + 1
/-- The partition that owns a sector of memory (R431). -/
def sectorOwner (s : State) (key : Nat) : Option (Nat × Nat) :=
  match gkSpace key with
  | 0 => some (gkDev key, gkInst key)
  | 1 => some (gkDev key, gkInst key)
  | 3 => let c := s.cont (s.team (gkOff key / 2 ^ 24)).cont; some (c.d, c.p)
  | _ => none
/-- An uncorrectable error counts for its partition, or in PF0's copy (R431, R433). -/
def countUe (d : Nat) (o : Option (Nat × Nat)) (s : State) : State :=
  match o with
  | some (e, p) => s.modPart e p fun q => { q with ue := satInc q.ue }
  | none => s.modDev d fun v => { v with ue := satInc v.ue }
/-- A sector of memory: the poison codeword is written; `tag`: the error hides a nibble of the line's spine tag, which only a
coherent line has (R212). -/
def sectorError (d sec : Nat) (tag : Bool) (s : State) : State :=
  let key := 32 * sec
  let s := poisonSectors s [sec] 1
  let hk := ((s.part (gkDev key) (gkInst key)).folKind (gkOff key)).1
  let s := if tag && gkSpace key = 0 && (hk = 3 || hk = 4) then
      { s with tags := kput s.tags (key / 256) (rget s.tags (key / 256) ||| (1#32 <<< 23)) }
    else s
  countUe d (sectorOwner s key) s
/-- A clean copy of a line in the MSC or the L2 is dropped. -/
def copyError (d p line : Nat) (s : State) : State :=
  countUe d (some (d, p)) (s.modPart d p fun q =>
    { q with msc := kdel q.msc line, l2d := kdel q.l2d line, fetch := kdel q.fetch line, l2 := q.l2.filter fun x => x.line ≠ pkey d p (256 * line) / 256 })
/-- A line of an L1 is invalidated. -/
def l1Error (core line : Nat) (s : State) : State :=
  s.modCore core fun c => { c with l1 := c.l1.filter fun x => x.line ≠ line }
/-- A TLB entry and the cached window rows of a partition are invalidated. -/
def tlbError (d p n : Nat) (s : State) : State :=
  s.modPart d p fun q => { q with tlb := q.tlb.eraseIdx n, winc := [] }
/-- A vector word of a group is marked; the kept addresses stand. -/
def wordError (g k : Nat) (s : State) : State :=
  let c := s.contOf g
  if k % 128 < (s.grp g).nregs && decide (k / 128 < (s.grp g).width) then
    countUe c.d (some (c.d, c.p)) (s.modGrp g fun G => { G with pz := kput G.pz k 1 })
  else s
/-- A word of the scalar file of a group is marked (R431): the key is that of `smKey`. -/
def scalarWordError (g k : Nat) (s : State) : State :=
  let c := s.contOf g
  if (kget s.groups g).isNone then s
  else countUe c.d (some (c.d, c.p)) (s.modGrp g fun G => { G with smk := kput G.smk k 1 })
/-- The operand sector takes the poison mark (R272). -/
def operandError (cid b : Nat) (s : State) : State :=
  let c := s.cont cid
  countUe c.d (some (c.d, c.p)) (poisonSectors s [operandKey cid b / 32] 1)
/-- An accumulator word is set to zero, and a record will report it. -/
def accError (cid b : Nat) (s : State) : State :=
  let c := s.cont cid
  let w := b / 4 * 4
  let s := { s with mem := memPutLe s.mem (accKey cid w) 0 4 }
  countUe c.d (some (c.d, c.p)) (s.modCont cid fun c => { c with accErr := c.accErr ++ [w] })
/-- Entry j of a queue is marked with reason MACHINE-CHECK (R287). -/
def queueError (g k j : Nat) (s : State) : State :=
  let c := s.contOf g
  let at_ {α : Type} (f : α → α) (xs : List α) : List α :=
    ((List.range xs.length).zip xs).map fun (x : Nat × α) => if x.1 = j then f x.2 else x.2
  let push : Push → Push := fun x => { x with mark := 2 }
  let pop : QEntry → QEntry := fun x => { x with mark := 2 }
  countUe c.d (some (c.d, c.p)) (match k with
    | 0 => s.modCont (s.teamOf g).cont fun c =>
      match (c.mq.filter fun (e : Nat × MOp) => e.2.stage = .pushed)[j]? with
      | some e => { c with mq := kmod c.mq e.1 fun o => { o with mark := 2 } }
      | none => c
    | 2 => s.modGrp g fun G => { G with q2 := at_ push G.q2 }
    | 4 => s.modGrp g fun G => { G with q4 := at_ push G.q4 }
    | 6 => s.modGrp g fun G => { G with q6 := at_ push G.q6 }
    | 7 => s.modGrp g fun G => { G with q7 := at_ pop G.q7 }
    | k => putQ g k (at_ pop (popQ s g k)) s)
/-- A link of a queue loses a permit (R366). -/
def permitError (g k : Nat) (s : State) : State :=
  if qCap k ≤ qCount s g k + qLost s g k then s
  else if 8 ≤ k then s.modTeam (s.grp g).team fun T => { T with tlost := kput T.tlost k ((kget T.tlost k).getD 0 + 1) }
  else s.modGrp g fun G => { G with lost := kput G.lost k ((kget G.lost k).getD 0 + 1) }
/-- Internal link `off` / 16 of partition `off` % 16 loses a permit (R366). -/
def innerPermitError (d off : Nat) (s : State) : State :=
  if 34 ≤ off / 16 then s
  else s.modDev d fun v => { v with ilost := kput v.ilost off ((kget v.ilost off).getD 0 + 1) }
/-- A barrier object holds the error until BARINIT rewrites it. -/
def barError (t k : Nat) (s : State) : State :=
  let c := s.cont (s.team t).cont
  countUe c.d (some (c.d, c.p)) (s.modTeam t fun T => { T with bars := kmod T.bars k fun b => { b with err := true } })
/-- Working state of a copy engine: the command completes with SRC-POISON and recorded address 0. -/
def engineError (u : Nat) (s : State) : State :=
  match s.cmd? u with
  | none => s
  | some c =>
    if c.stage = .finished || c.stage = .replied then s
    else countUe c.d (some (c.d, c.p)) (s.modCmd u fun c =>
      { c with
        status := 0x0C, paddr := 0, reason := 1, seq := none, pri := none, launch := 0
        stage := if c.src = 4 then .replied else .finished })

/-- An error of kind k at `off` (R431): 0 a sector of memory (`off` its number), 1 a clean copy of line `off` of partition
x, 2 line x of the L1 of core `off`, 3 TLB entry x of partition `off`, 4 vector word x of group `off`, 5 operand byte x and
6 accumulator byte x of content `off`, 7 entry x / 16 of queue x % 16 of group `off`, 8 a permit of queue x of group `off`,
9 barrier object x of team `off`, 10 command `off`, 11 a corrected error of partition `off`, 12 a permit of internal link
`off` / 16 of partition `off` % 16, 13 word x of the scalar file of group `off`. -/
def storeError (d k off : Nat) (x : Dword) (s : State) : State :=
  let n := x.toNat
  match k with
  | 0 => sectorError d off (x.getLsbD 0) s
  | 1 => copyError d n off s
  | 2 => l1Error off n s
  | 3 => tlbError d off n s
  | 4 => wordError off n s
  | 5 => operandError off n s
  | 6 => accError off n s
  | 7 => queueError off (n % 16) (n / 16) s
  | 8 => permitError off n s
  | 9 => barError off n s
  | 10 => engineError off s
  | 11 => s.modPart d off fun q => { q with ce := satInc q.ce }
  | 12 => innerPermitError d off s
  | 13 => scalarWordError off n s
  | _ => s

end Sys2Proof.Machine
end

