-- ==== Sys2Proof/Machine/CtlSpace.lean ====
section
/-! DEFINITION. Sys2Proof/Machine/CtlSpace.lean: the control space of a partition and the other register windows (R7, R8, R396, R398,
R414, R460): what loads read and what stores without behaviour of their own write. -/

namespace Sys2Proof.Machine
open Sys2Proof

/-! ### Owners -/

/-- The address space belongs to the partition (R314, R460). -/
def Dev.ownsAsid (v : Dev) (p a : Nat) : Bool := decide (a < 512) && v.asidPart a = p
/-- The virtual interface belongs to the partition (R342, R412). -/
def Dev.ownsVif (v : Dev) (p n : Nat) : Bool := decide (n < 64) && (v.row p 2).getLsbD n
/-- The physical core of a core block. -/
def Dev.ctlCore (v : Dev) (d p c : Nat) : Option Nat := if c < v.ncores p then (v.physOf p c).map (coreKey d) else none

/-! ### Loads -/

/-- The code of a bank's state (R381). -/
def BankSt.code (b : BankSt) : Nat :=
  match b with | .empty => 0 | .active => 1 | .inactive => 2 | .spilling => 3 | .clean => 4 | .filling => 5
/-- BANKSTAT (R381). A partial image is none. -/
def bankStat (s : State) (core : Nat) : Nat :=
  let c := s.core core
  let asid (b : Bank) : Nat := if b.st = .empty then 0 else (s.cont b.cont).asid
  let partial_ : Bool := c.b0.st = .spilling || c.b1.st = .spilling
  asid c.b1 * 2 ^ 41 + asid c.b0 * 2 ^ 32 + c.b1.st.code * 2 ^ 5 + c.b0.st.code * 4
    + (if c.store ≠ 0 && !partial_ then 2 else 0) + c.act % 2
/-- EDCORE (R365). -/
def edCore (c : Core) : Nat := (if c.swp then 16 else 0) + c.ed.toNat
/-- EDSTAT (R365). -/
def edStat (q : Part) : Nat :=
  (if q.sswp then 2 ^ 9 else 0) + (if q.dswp then 2 ^ 8 else 0) + q.esys.toNat * 16 + q.edom.toNat
/-- ESTAT (R368). -/
def eStat (s : State) (d p core : Nat) : Nat :=
  let sum (b : Bank) : Nat := if b.st = .empty then 0 else (contNeed s b.cont).energy
  (s.dev d).budget p * 2 ^ 16 + sum (s.core core).b1 * 2 ^ 8 + sum (s.core core).b0
/-- THROTSTAT (R437). -/
def throtStat (v : Dev) : Nat := v.thTemp.toNat * 256 + v.thCause.toNat * 32 + v.step % 8
/-- LAYCTL as it reads (R345). -/
def layCtl (v : Dev) : Nat :=
  v.layErr % 16 * 256 + (if v.phase then 4 else 0) + (if v.applied then 2 else 0) + (if v.sel then 1 else 0)
/-- HOSTSTAT (R435). -/
def hostStat (h : HostPort) : Nat := (if h.resetSeen then 4 else 0) + (if h.viral then 2 else 0) + (if h.up then 1 else 0)
/-- BOOTSTAT (R439). -/
def bootStat (v : Dev) : Nat := v.bootSvn.toNat * 256 + v.bootFail.toNat * 16 + (if v.bootDone then 1 else 0)
/-- AUDITCTL and AUDITSTAT (R366). -/
def auditCtl (v : Dev) : Nat := (if v.audEn then 2 ^ 63 else 0) + v.audPlog.toNat
/-- VIFCTL (R398). -/
def vifCtl (x : Vif) : Nat := (if x.en then 2 ^ 63 else 0) + x.clmax.toNat

/-- A load from the first page of a control space (R460). -/
def readHead (s : State) (d p off : Nat) : Dword :=
  let q := s.part d p
  match off with
  | 0x00 => q.xbase
  | 0x08 => q.xctl ||| (if q.xbusy then 1#64 <<< 63 else 0#64)
  | 0x10 => q.xdone ++ BitVec.ofNat 32 ((if q.xerr then 2 else 0) + (if q.xbusy then 1 else 0))
  | 0x18 => BitVec.ofNat 64 ((if q.xwbusy then 2 ^ 63 else 0) + q.xwinv.toNat)
  | 0x20 => q.slen.zeroExtend 64
  | 0x28 => q.ce ++ q.ue
  | 0x30 => q.lline ||| (if q.lgo then 1#64 <<< 63 else 0#64) ||| (if q.lerr then 1#64 else 0#64)
  | 0x38 => BitVec.ofNat 64 (edStat q)
  | 0x40 => BitVec.ofNat 64 (throtStat (s.dev d))
  | _ => 0#64
/-- A load from a context block (R460). -/
def readCtx (c : Ctx) (off : Nat) : Dword :=
  match off with
  | 0x00 => c.stat
  | 0x08 => c.va
  | 0x10 => c.save
  | 0x18 => c.cap.zeroExtend 64
  | 0x20 => c.migctl
  | _ => 0#64
/-- A load from a core block (R460). -/
def readCore (s : State) (d p core off : Nat) : Dword :=
  let c := s.core core
  if off = 0x00 then BitVec.ofNat 64 (bankStat s core)
  else if off = 0x08 then BitVec.ofNat 64 (edCore c)
  else if off = 0x10 then BitVec.ofNat 64 (eStat s d p core)
  else if off = 0x18 then rget c.ts 0
  else if off = 0x20 then rget c.ts 1
  else if 0x40 ≤ off ∧ off < 0x80 then rget c.pmctl ((off - 0x40) / 8)
  else if 0x80 ≤ off ∧ off < 0xC0 then rget c.pmcnt ((off - 0x80) / 8)
  else 0#64
/-- An aligned 8-byte load from the control space of a partition (R460). -/
def ctlRead (s : State) (d p off : Nat) : Dword :=
  let v := s.dev d
  let q := s.part d p
  if off < 0x200 then readHead s d p off
  else if off < 0x400 then rget q.mig ((off - 0x200) / 8)
  else if off < 0x2000 then 0#64
  else if off < 0x4000 then rget q.folio ((off - 0x2000) / 8)
  else if off < 0x6000 then rget q.peer ((off - 0x4000) / 8)
  else if off < 0x8000 then rget q.inb ((off - 0x6000) / 8)
  else if off < 0xC000 then
    let a := (off - 0x8000) / 32
    if v.ownsAsid p a then v.asidRow a (off / 8 % 4) else 0#64
  else if off < 0x10000 then 0#64
  else if off < 0x18000 then
    let a := (off - 0x10000) / 64
    if v.ownsAsid p a then readCtx (v.ctxOf a) (off % 64) else 0#64
  else if off < 0x20000 then 0#64
  else if off < 0x21000 then
    let n := (off - 0x20000) / 64
    if v.ownsVif p n then
      (match off % 64 with
        | 0x00 => BitVec.ofNat 64 (vifCtl (v.vifOf n))
        | 0x08 => (v.vifOf n).arm
        | _ => 0#64)
    else 0#64
  else if off < 0x30000 then 0#64
  else if off < 0x3C000 then
    match v.ctlCore d p ((off - 0x30000) / 256) with
    | some k => readCore s d p k (off % 256)
    | none => 0#64
  else 0#64

/-! ### Stores -/

/-- A store to a register of the first page (R323, R408, R433, R434). -/
def writeHead (q : Part) (off : Nat) (v : Dword) : Part :=
  match off with
  | 0x00 => { q with xbase := v &&& 0x01FFFFFFFFFFFFFF#64 }
  | 0x08 => { q with xctl := v &&& xctlMask }
  | 0x10 => { q with xerr := q.xerr && !v.getLsbD 1 }
  | 0x20 => { q with slen := v.extractLsb' 0 32 }
  | 0x28 => { q with ce := v.extractLsb' 32 32, ue := v.extractLsb' 0 32 }
  | 0x30 => { q with lline := v &&& 0x00FFFFFFFFFFFF00#64, lerr := q.lerr && !v.getLsbD 0 }
  | _ => q
/-- A store to a doubleword of a migration entry (R328): only in STATE 0 or 2, and not to the word of STATE. -/
def writeMig (q : Part) (i : Nat) (v : Dword) : Part :=
  let st := q.migState (i / 4)
  if (st = 0 || st = 2) && i % 4 ≠ 3 then { q with mig := kput q.mig i v } else q
/-- A store to a register of a context block (R379, R396, R398, R428). -/
def writeCtx (c : Ctx) (off : Nat) (v : Dword) : Ctx :=
  match off with
  | 0x00 =>
    let x := if v.getLsbD 63 then c.stat &&& ~~~(1#64 <<< 63) else c.stat
    { c with stat := if v.getLsbD 62 then x ||| (1#64 <<< 62) else x }
  | 0x10 => { c with save := v &&& 0x00FFFFFFFFFFFFFF#64 }
  | 0x18 => { c with cap := v.extractLsb' 0 3 }
  | 0x20 =>
    { c with migctl := (v &&& 0x0003FFFFF8000000#64) ||| (c.migctl &&& 0x8000000000000007#64) }
  | _ => c
/-- A store to VIFCTL (R398): a newly enabled interface reads its armed line (R400). -/
def writeVif (x : Vif) (v : Dword) : Vif :=
  { x with en := v.getLsbD 63, clmax := v.extractLsb' 0 3, held := x.held && x.en }
/-- A store to a core block (R369, R370). -/
def writeCore (c : Core) (off : Nat) (v : Dword) : Core :=
  let ts (b : Nat) : Core :=
    let exp := if v.getLsbD 63 then 0#64 else rget c.ts b &&& (1#64 <<< 63)
    { c with ts := kput c.ts b (exp ||| (v &&& 0xFFFFFFFF#64)) }
  if off = 0x18 then ts 0
  else if off = 0x20 then ts 1
  else if 0x40 ≤ off ∧ off < 0x80 then
    let k := (off - 0x40) / 8
    let ovf := if v.getLsbD 62 then 0#64 else rget c.pmctl k &&& (1#64 <<< 62)
    { c with pmctl := kput c.pmctl k (ovf ||| (v &&& 0x80000000000003FF#64)) }
  else if 0x80 ≤ off ∧ off < 0xC0 then { c with pmcnt := kput c.pmcnt ((off - 0x80) / 8) (v &&& 0x0000FFFFFFFFFFFF#64) }
  else c
/-- A store to an ASID row by the partition: PART and VIF stay (R314, R460). -/
def writeAsid (v : Dev) (i : Nat) (x : Dword) : Dev :=
  let keep : Dword := 0x3FF00000#64
  let y := if i % 4 = 1 then (x &&& ~~~keep) ||| (rget v.asid i &&& keep) else x
  { v with asid := kput v.asid i y }
/-- An aligned 8-byte store to the control space of a partition, to registers without behaviour of their own (R460). -/
def ctlWrite (d p off : Nat) (x : Dword) (s : State) : State :=
  let v := s.dev d
  if off % 8 ≠ 0 then s
  else if off < 0x200 then s.modPart d p fun q => writeHead q off x
  else if off < 0x400 then s.modPart d p fun q => writeMig q ((off - 0x200) / 8) x
  else if off < 0x2000 then s
  else if off < 0x4000 then s.modPart d p fun q => { q with folio := kput q.folio ((off - 0x2000) / 8) x }
  else if off < 0x6000 then s.modPart d p fun q => { q with peer := kput q.peer ((off - 0x4000) / 8) x }
  else if off < 0x8000 then s.modPart d p fun q => { q with inb := kput q.inb ((off - 0x6000) / 8) x }
  else if off < 0xC000 then
    if v.ownsAsid p ((off - 0x8000) / 32) then s.modDev d fun v => writeAsid v ((off - 0x8000) / 8) x else s
  else if off < 0x10000 then s
  else if off < 0x18000 then
    let a := (off - 0x10000) / 64
    if v.ownsAsid p a then s.modCtx d a fun c => writeCtx c (off % 64) x else s
  else if off < 0x20000 then s
  else if off < 0x21000 then
    let n := (off - 0x20000) / 64
    if v.ownsVif p n && off % 64 = 0 then s.modDev d fun v => { v with vif := kput v.vif n (writeVif (v.vifOf n) x) } else s
  else if off < 0x30000 then s
  else if off < 0x3C000 then
    match v.ctlCore d p ((off - 0x30000) / 256) with
    | some k => s.modCore k fun c => writeCore c (off % 256) x
    | none => s
  else s
/-- The store has behaviour of its own: another event performs it (R313, R323, R328, R341, R350, R396, R428, R434). -/
def ctlOwn (s : State) (d p off : Nat) (x : Dword) : Bool :=
  let q := s.part d p
  let st := q.migState ((off - 0x200) / 32)
  (off = 0x08 && x.getLsbD 63) || off = 0x18 || (off = 0x30 && x.getLsbD 63) || off = 0x100
    || (decide (0x200 ≤ off ∧ off < 0x400) && off % 32 = 24 &&
        ((bf x 1 0 = 1 && (st = 0 || st = 2)) || (bf x 1 0 = 0 && st = 2)))
    || (decide (0x10000 ≤ off ∧ off < 0x18000) && (s.dev d).ownsAsid p ((off - 0x10000) / 64) &&
        ((off % 64 = 0 && x.getLsbD 62 && !x.getLsbD 63) || (off % 64 = 0x20 && x.getLsbD 63)))
    || (decide (0x20000 ≤ off ∧ off < 0x21000) && (s.dev d).ownsVif p ((off - 0x20000) / 64) && off % 64 = 8)

/-! ### The other windows -/

/-- The partition that holds a virtual interface (R412). -/
def vifPart (v : Dev) (n : Nat) : Option Nat := (List.range 16).find? fun p => v.partOk p && v.ownsVif p n
/-- The offset in the control space of an offset in BAR0 of the function of a virtual interface (R414, R460). -/
def barOff (v : Dev) (n off : Nat) : Option Nat :=
  if off < 64 then some (0x20000 + 64 * n + off)
  else if 0x10000 ≤ off ∧ off < 0x18000 ∧ v.asidVif ((off - 0x10000) / 64) = n then some off
  else none
/-- Mk is extended with a digest (R440). -/
def Dev.extend (v : Dev) (k : Nat) (x : BitVec 384) : Dev :=
  { v with meas := kput v.meas k (Config.sha384 (leBytes (rget v.meas k).toNat 48 ++ leBytes x.toNat 48)) }
/-- A store to ALARMCFG (R442): not while it is locked; at its LOCK M3 is extended (R440). -/
def writeAlarm (v : Dev) (x : Dword) : Dev :=
  if v.alarmCfg.getLsbD 63 then v
  else
    let v := { v with alarmCfg := x &&& 0x80000000000000FF#64 }
    if x.getLsbD 63 then v.extend 3 (Config.sha384 (leBytes v.alarmCfg.toNat 8)) else v
/-- A store to a register of PF0 (R366, R433, R442): 0 AUDITCTL, 1 ALARMCFG, 2 ALARMSTAT, 3 PF0's ERRCNT. -/
def writePf0 (v : Dev) (i : Nat) (x : Dword) : Dev :=
  match i with
  | 0 => { v with audEn := x.getLsbD 63, audPlog := x.extractLsb' 0 5 }
  | 1 => writeAlarm v x
  | 2 => { v with alarmStat := v.alarmStat &&& ~~~(x.extractLsb' 0 4) }
  | 3 => { v with ce := x.extractLsb' 32 32, ue := x.extractLsb' 0 32 }
  | _ => v
def Dev.port (v : Dev) (n : Nat) : HostPort := (kget v.host n).getD ⟨false, false, false⟩
/-- A load from a register of PF0 (R345, R366, R422, R433, R435, R439, R442; log entry 138): 0 AUDITCTL, 1 ALARMCFG,
2 ALARMSTAT, 3 PF0's ERRCNT, 4 AUDITSTAT, 5 FABPLANE, 6 LAYCTL, 7 BOOTSTAT, 8 to 11 HOSTSTAT of ports 0 to 3. -/
def readPf0 (v : Dev) (i : Nat) : Dword :=
  match i with
  | 0 => BitVec.ofNat 64 (auditCtl v)
  | 1 => v.alarmCfg
  | 2 => v.alarmStat.zeroExtend 64
  | 3 => v.ce ++ v.ue
  | 4 => v.audMis.zeroExtend 64
  | 5 => v.planes
  | 6 => BitVec.ofNat 64 (layCtl v)
  | 7 => BitVec.ofNat 64 (bootStat v)
  | n => if n < 12 then BitVec.ofNat 64 (hostStat (v.port (n - 8))) else 0#64
/-- The management core's firmware extends a measurement register that it defines, with a digest of 48 bytes: M2, M5 to M14
(R440; log entry 102). -/
def measureOk (k : Nat) (data : List Byte) : Bool := (k = 2 || (decide (5 ≤ k) && decide (k ≤ 14))) && data.length = 48
/-- A store through a window `sp`: 0 the control space of partition p, 1 the registers of PF0, 2 the ASID rows as firmware
writes them, 3 BAR0 of the function of virtual interface p, 4 the quota rows of switch p (R314, R351, R414, R460). Window 6
is no window: it stands for an error of kind p that the code of a store finds (R431; log entry 123). -/
def regWrite (d p sp off : Nat) (x : Dword) (s : State) : State :=
  match sp with
  | 0 => if (s.dev d).partOk p then ctlWrite d p off x s else s
  | 1 => s.modDev d fun v => writePf0 v off x
  | 2 => if off < 2048 then s.modDev d fun v => { v with asid := kput v.asid off x } else s
  | 3 =>
    (match vifPart (s.dev d) p, barOff (s.dev d) p off with
      | some q, some o => ctlWrite d q o x s
      | _, _ => s)
  | 4 => if p < 64 ∧ off < 16384 then { s with quota := kput s.quota (qkey p 0 0 + off) x } else s
  | 6 => storeError d p off x s
  | _ => s
/-- The store is one that another event performs. -/
def regOwn (s : State) (d p sp off : Nat) (x : Dword) : Bool :=
  match sp with
  | 0 => ctlOwn s d p off x
  | 3 => (match vifPart (s.dev d) p, barOff (s.dev d) p off with
      | some q, some o => ctlOwn s d q o x
      | _, _ => false)
  | _ => false
/-- A load of any width from the control space of a partition (R460): the addressed bytes of its doublewords. -/
def ctlLoad (s : State) (d p off len : Nat) : List Byte :=
  (List.range len).map fun j => byteOf (ctlRead s d p ((off + j) / 8 * 8)).toNat ((off + j) % 8)
/-- A load from BAR0 of the function of a virtual interface (R414, R460): its other bytes read zero. -/
def barLoad (s : State) (d n off len : Nat) : List Byte :=
  (List.range len).map fun j =>
    match vifPart (s.dev d) n, barOff (s.dev d) n (off + j) with
    | some q, some o => byteOf (ctlRead s d q (o / 8 * 8)).toNat (o % 8)
    | _, _ => 0#8
/-- CXL_MEM_ACCESS (R415) of host port 0 to 3. Other values of `port` stand for accesses that no event of the table names
(log entry 138): 4 a general core of the partition at its local memory (R455) and 5 its FENCE (R260), 6 a load from the
control space of the partition, of a general core or through BAR2, and 7 a load from BAR0 of virtual interface p (R460), 8 a
load from register `off` of PF0, and 9 an extension of measurement register `off` by firmware (R440). -/
def execCxlMemAccess (d p port off len : Nat) (data : List (BitVec 8)) (s : State) : Out :=
  guardEv "CXL_MEM_ACCESS" ((data.isEmpty || data.length = len) && (match port with
      | 4 => generalFree s d p off len (!data.isEmpty) || (generalWant s d p off len (!data.isEmpty)).isSome
      | 5 => true
      | 6 | 7 | 8 => data.isEmpty
      | 9 => (s.dev d).bootDone && measureOk off data
      | _ => hostFree s d p off len))
    (match port with
      | 4 => generalStep d p off len data s
      | 5 => generalFence d p s
      | 6 => { s with outData := ctlLoad s d p off len }
      | 7 => { s with outData := barLoad s d p off len }
      | 8 => { s with outData := leBytes (readPf0 (s.dev d) off).toNat 8 }
      | 9 => s.modDev d fun v => v.extend off (BitVec.ofNat 384 (leNat data))
      | _ => hostAccess d p off len data s)

/-- REGISTER_WRITE (R7, R8, R460). -/
def execRegisterWrite (d p sp off : Nat) (v : BitVec 64) (s : State) : Out :=
  guardEv "REGISTER_WRITE" (!regOwn s d p sp off v) (regWrite d p sp off v s)

end Sys2Proof.Machine
end

