-- ==== Sys2Proof/Machine/EvHost.lean ====
section
/-! DEFINITION. Sys2Proof/Machine/EvHost.lean: host ports, line clears and throttle steps (R417, R434 to R437). -/

namespace Sys2Proof.Machine
open Sys2Proof

/-! ### Host ports -/

def Dev.setPort (v : Dev) (n : Nat) (h : HostPort) : Dev := { v with host := kput v.host n h }
/-- VIRAL_INDICATION (R417, R435). -/
def execViralIndication (d port : Nat) (s : State) : Out :=
  guardEv "VIRAL_INDICATION" (decide (port < 4))
    (s.modDev d fun v => v.setPort port { v.port port with viral := true, resetSeen := false })
/-- CXL_RESET: RESETSEEN tells of a reset since VIRAL was set (R435). -/
def execCxlReset (d port : Nat) (s : State) : Out :=
  guardEv "CXL_RESET" (decide (port < 4)) (s.modDev d fun v => v.setPort port { v.port port with resetSeen := (v.port port).viral })
/-- VIRAL_CLEAR: ignored while RESETSEEN is 0 (R435). -/
def execViralClear (d port : Nat) (s : State) : Out :=
  guardEv "VIRAL_CLEAR" (decide (port < 4))
    (if ((s.dev d).port port).resetSeen then
      s.modDev d fun v => v.setPort port { v.port port with viral := false, resetSeen := false }
    else s)
/-- HOST_LINK_TRAINED (R435). -/
def execHostLinkTrained (d port : Nat) (up : Bool) (s : State) : Out :=
  guardEv "HOST_LINK_TRAINED" (decide (port < 4)) (s.modDev d fun v => v.setPort port { v.port port with up := up })

/-! ### Clearing a poisoned line (R434) -/

/-- The home line that the clear under way has taken from LINECLR. -/
def clearLine (s : State) (d p : Nat) : Nat := gk 0 d p (256 * (s.part d p).clr) / 256
/-- A store to LINECLR with GO: LINE takes its value in any case; a clear under way goes on (R434). -/
def clearStart (d p : Nat) (v : Dword) (s : State) : State :=
  let q := s.part d p
  let x := v &&& 0x00FFFFFFFFFFFF00#64
  if q.lgo then s.modPart d p fun q => { q with lline := x, lerr := true }
  else if (s.dev d).capacity p < x.toNat + 256 then s.modPart d p fun q => { q with lline := x, lerr := true }
  else
    let s := s.modPart d p fun q => { q with lline := x, clr := x.toNat / 256, lgo := true, lerr := q.lerr && !v.getLsbD 0 }
    let line := clearLine s d p
    match kget s.home line with
    | some h => { s with home := kput s.home line { h with waiting := h.waiting ++ [(HKind.clear, d)] } }
    | none => homeStart .clear d line s
/-- LINECLR_GO (R434). -/
def execLineclrGo (d p : Nat) (v : BitVec 64) (s : State) : Out :=
  guardEv "LINECLR_GO" (v.getLsbD 63) (clearStart d p v s)
/-- The clear's turn has come and every copy has been recalled. -/
def clearReady (s : State) (d p : Nat) : Bool :=
  (s.part d p).lgo && (kget s.home (clearLine s d p)).any fun h => h.kind = .clear && h.acks.isEmpty && !h.bi
/-- The line is written with zero data and valid codes, and its tag is 0; waiting requests go on. -/
def clearDone (d p : Nat) (s : State) : State :=
  let line := clearLine s d p
  match kget s.home line with
  | none => s
  | some h =>
    let s := zeroRange (256 * line) (256 * line + 256) { s with home := kdel s.home line }
    homeNext line h.waiting (s.modPart d p fun q => { q with lgo := false })
/-- LINE_CLEAR_DONE (R434). -/
def execLineClearDone (d p : Nat) (s : State) : Out := guardEv "LINE_CLEAR_DONE" (clearReady s d p) (clearDone d p s)

/-! ### Throttle steps (R436, R437) -/

/-- The step may change: the last change was at least 100 µs ago (R437); `now` in nanoseconds (R187). -/
def Dev.stepFree (v : Dev) (now : Nat) : Bool := match v.thAt with | none => true | some t => decide (t + 100000 ≤ now)
/-- CAUSE of a step: power, temperature or both. -/
def thCode (power hot : Bool) : BitVec 3 := BitVec.ofNat 3 ((if power then 1 else 0) + (if hot then 2 else 0))
/-- THROTTLE_STEP_UP (R437). -/
def execThrottleStepUp (d : Nat) (power hot : Bool) (temp : BitVec 8) (s : State) : Out :=
  guardEv "THROTTLE_STEP_UP" ((power || hot) && (decide (5 ≤ (s.dev d).step) || (s.dev d).stepFree s.time.toNat))
    (s.modDev d fun v => { v with
      step := min 5 (v.step + 1), thCause := thCode power hot, thTemp := temp
      thAt := if 5 ≤ v.step then v.thAt else some s.time.toNat })
/-- THROTTLE_TO_FLOOR (R437): the junction has reached 110 degrees; the jump waits for nothing. -/
def execThrottleToFloor (d : Nat) (power : Bool) (temp : BitVec 8) (s : State) : Out :=
  guardEv "THROTTLE_TO_FLOOR" (decide (110 ≤ temp.toNat))
    (s.modDev d fun v => { v with step := 5, thCause := thCode power true, thTemp := temp })
/-- THROTTLE_STEP_DOWN (R437): the cause stands until step 0. -/
def execThrottleStepDown (d : Nat) (temp : BitVec 8) (s : State) : Out :=
  guardEv "THROTTLE_STEP_DOWN" ((s.dev d).step ≠ 0 && decide (temp.toNat ≤ 95)
      && (s.dev d).stepFree s.time.toNat)
    (s.modDev d fun v => { v with
      step := v.step - 1, thCause := if v.step = 1 then 0 else v.thCause, thTemp := temp, thAt := some s.time.toNat })
/-- CLOCK_CHANGE (R437): every core stands at an instruction boundary between two steps; the clock of a step is fixed
(R436), and only the time of the cores changes. -/
def execClockChange (d : Nat) (s : State) : Out := guardEv "CLOCK_CHANGE" (decide ((s.dev d).step ≤ 5)) s

end Sys2Proof.Machine
end

