-- ==== Sys2Proof/Machine/EvLayout.lean ====
section
/-! DEFINITION. Sys2Proof/Machine/EvLayout.lean: the partition layout: its checks, its commit and its application (R218, R342 to R345). -/

namespace Sys2Proof.Machine
open Sys2Proof

/-! ### The checks of PREPARE (R343) -/

/-- Doubleword i of row p, and an entry of the core table. -/
def Layout.row (l : Layout) (p i : Nat) : Dword := rget l.rows (8 * p + i)
def Layout.valid (l : Layout) (p : Nat) : Bool := (l.row p 3).getLsbD 0
def Layout.core (l : Layout) (c : Nat) : BitVec 16 := rget l.cores c
def Layout.parts (l : Layout) : List Nat := (List.range 16).filter l.valid
/-- Channels of a row: the first and the count. -/
def Layout.chLo (l : Layout) (p : Nat) : Nat := bf (l.row p 3) 63 55
def Layout.chN (l : Layout) (p : Nat) : Nat := bf (l.row p 3) 54 46
/-- Channels of a fitting and bytes of one (R218). -/
def Dev.channels (v : Dev) : Nat := if v.fit then 64 else 256
def Dev.channelSize (v : Dev) : Nat := if v.fit then 64 * 2 ^ 30 else 2 * 2 ^ 30
/-- Reserved fields are zero, and every field of a valid row lies in its range. -/
def layFieldsOk (v : Dev) (l : Layout) : Bool :=
  let res (p : Nat) : Bool :=
    !(l.row p 3).getLsbD 18 && bf (l.row p 3) 9 1 = 0 && bf (l.row p 4) 63 56 = 0 && bf (l.row p 4) 11 4 = 0
      && bf (l.row p 5) 63 12 = 0 && l.row p 6 = 0#64 && l.row p 7 = 0#64
  let range (p : Nat) : Bool :=
    let w := l.row p 3
    let ring := bf (l.row p 4) 55 12 * 4096
    let size := 32 * 2 ^ (6 + bf (l.row p 4) 3 0)
    decide (bf w 45 39 ≤ 64) && decide (bf w 38 33 ≤ 32) && decide (1 ≤ bf w 32 27) && decide (bf w 32 27 ≤ 48)
      && decide (8 ≤ bf w 26 20) && decide (bf w 26 20 ≤ 64) && decide (bf (l.row p 4) 3 0 ≤ 10)
      && l.row p 0 ≠ 0#64 && (l.row p 1 &&& ~~~(l.row p 0)) = 0#64
      && decide (1 ≤ l.chN p) && decide (l.chLo p + l.chN p ≤ v.channels)
      && decide (ring + size ≤ l.chN p * v.channelSize)
  (List.range 16).all res && l.parts.all range
    && (List.range 208).all fun c => bf (l.core c) 2 0 = 0 && decide (bf (l.core c) 10 3 ≤ 191)
/-- No slice, channel or virtual interface belongs to two partitions. -/
def overlapOk (l : Layout) : Bool :=
  l.parts.all fun p => l.parts.all fun q => p = q ||
    ((l.row p 0 &&& l.row q 0) = 0#64 && (l.row p 2 &&& l.row q 2) = 0#64
      && (decide (l.chLo p + l.chN p ≤ l.chLo q) || decide (l.chLo q + l.chN q ≤ l.chLo p)))
/-- The carve-outs and the sums of R218. -/
def sumsOk (l : Layout) : Bool :=
  let carve (p : Nat) : Bool :=
    let k := popcount (l.row p 1)
    let n := bf (l.row p 3) 45 39
    (n = k || n = 2 * k) && decide (n + 2 ≤ 2 * popcount (l.row p 0))
  let sum (hi lo : Nat) : Nat := l.parts.foldl (fun a p => a + bf (l.row p 3) hi lo) 0
  l.parts.all carve && decide (sum 38 33 ≤ 32) && decide (sum 32 27 ≤ 48)
/-- Valid core entries name fused cores, valid partitions and distinct numbers, with no gaps. -/
def coresOk (v : Dev) (l : Layout) : Bool :=
  let used := (List.range 208).filter fun c => (l.core c).getLsbD 15
  let part (c : Nat) : Nat := bf (l.core c) 14 11
  let log (c : Nat) : Nat := bf (l.core c) 10 3
  used.all (fun c => (kget v.fuse c).getD false && l.valid (part c))
    && l.parts.all fun p =>
      let n := (bf (l.row p 3) 17 14 + 1) * (bf (l.row p 3) 13 10 + 1)
      let mine := used.filter fun c => part c = p
      mine.length = n && (List.range n).all fun i => mine.any fun c => log c = i
/-- A partition is idle. -/
def partIdle (s : State) (d p : Nat) : Bool :=
  let q := s.part d p
  !s.conts.any (fun (e : Nat × Cont) => e.2.d = d && e.2.p = p) && q.launchq.isEmpty && q.walkq.isEmpty && q.fents.isEmpty
    && !s.cmds.any (fun (e : Nat × Cmd) => e.2.d = d && e.2.p = p)
    && !s.nodes.any (fun (e : Nat × GNode) => e.2.d = d && e.2.p = p)
    && (List.range 16).all fun n => q.migState n ≠ 1
/-- The outcome of PREPARE: 0, or the code of what fails first (R343, R345). -/
def prepareErr (s : State) (d : Nat) : BitVec 4 :=
  let v := s.dev d
  let l := v.shadow
  if !layFieldsOk v l then 1
  else if !overlapOk l then 2
  else if !sumsOk l then 3
  else if !coresOk v l then 4
  else if !((List.range 16).filter v.changing).all (partIdle s d) then 5
  else 0
/-- PREPARE (R343, R344). -/
def execPrepare (d : Nat) (s : State) : Out :=
  let e := prepareErr s d
  guardEv "PREPARE" (s.dev d).bootDone (s.modDev d fun v => { v with phase := e = 0#4, layErr := e.toNat })

/-! ### Applying the committed copy (R344) -/

/-- Where byte `off` of a partition's memory stands after a change of its channels: the byte keeps its channel and its place
in it (R219); none when the channel leaves the partition. -/
def remapOff (o n : Layout) (p off : Nat) : Option Nat :=
  let u := off / 4096
  let no := max 1 (o.chN p)
  let nn := max 1 (n.chN p)
  let c := o.chLo p + u % no
  if o.valid p && n.valid p && decide (n.chLo p ≤ c) && decide (c < n.chLo p + n.chN p) then
    some ((u / no * nn + (c - n.chLo p)) * 4096 + off % 4096)
  else none
/-- The channels of the partition differ between the copies. -/
def chDiffer (o n : Layout) (p : Nat) : Bool :=
  o.valid p != n.valid p || o.chLo p ≠ n.chLo p || o.chN p ≠ n.chN p
/-- Moves one key of local memory of device d. `unit`: bytes that a key of the map stands for. -/
def remapKey (o n : Layout) (d unit k : Nat) : Option Nat :=
  let key := k * unit
  if gkSpace key = 0 && gkDev key = d && chDiffer o n (gkInst key) then
    (remapOff o n (gkInst key) (gkOff key)).map fun x => gk 0 d (gkInst key) x / unit
  else some k
/-- Moves the keys of a map. -/
def remapKV {α : Type} (o n : Layout) (d unit : Nat) (m : KV α) : KV α :=
  m.foldl (fun (a : KV α) e => match remapKey o n d unit e.1 with | some k => kput a k e.2 | none => a) []
/-- The same for memory. -/
def remapMem (o n : Layout) (d : Nat) (m : Mem) : Mem :=
  m.foldl (fun (a : Mem) e => match remapKey o n d 1 e.1 with | some k => memSet a k e.2 | none => a) []
/-- Carve-outs that the commit creates are zeroed (R202). -/
def zeroCarve (o n : Layout) (d : Nat) (s : State) : State :=
  let new (p : Nat) : Bool := o.valid p != n.valid p || o.row p 1 ≠ n.row p 1 || bf (o.row p 3) 45 39 ≠ bf (n.row p 3) 45 39
  ((List.range 16).filter new).foldl (fun s p => zeroRange (gk 1 d p 0) (gk 1 d (p + 1) 0) s) s
/-- The device applies the committed copy (R344): memory that changes partition is zero, caches and cores of changing
partitions are set up anew. -/
def applyLayout (d : Nat) (s : State) : State :=
  let v := s.dev d
  if v.applied then s
  else
    let o := v.shadow
    let n := v.lay
    let moved : Bool := (List.range 16).any (chDiffer o n)
    let s := if moved then
      { s with
        mem := remapMem o n d s.mem
        psn := remapKV o n d 32 s.psn
        tags := remapKV o n d 256 s.tags
        edirty := remapKV o n d 256 s.edirty }
      else s
    let s := zeroCarve o n d s
    let s := ((List.range 16).filter v.changing).foldl (fun s p => s.modPart d p fun q =>
      { q with tlb := [], l2 := [], l2d := [], msc := [], fetch := [] }) s
    let s := ((List.range 208).filter fun c => o.core c ≠ n.core c).foldl (fun s c => s.modCore (coreKey d c) fun k =>
      { k with l1 := [] }) s
    s.modDev d fun v => { v with applied := true }
/-- LAYOUT_APPLIED (R344). -/
def execLayoutApplied (d : Nat) (s : State) : Out :=
  guardEv "LAYOUT_APPLIED" (!(s.dev d).applied) (applyLayout d s)

/-! ### COMMIT, ABORT, writes, resets -/

/-- The bytes of a layout copy: the core table, then the partition rows (R342, R440). -/
def Layout.bytes (l : Layout) : List Byte :=
  (List.range 208).flatMap (fun c => leBytes (l.core c).toNat 2)
    ++ (List.range 128).flatMap fun i => leBytes (rget l.rows i).toNat 8
/-- The single commit point (R344), and the measurement of the committed copy (R440). -/
def commitLayout (v : Dev) : Dev :=
  if v.phase then
    let v := { v with sel := !v.sel, applied := false, phase := false, layErr := 0 }
    v.extend 4 (Config.sha384 v.lay.bytes)
  else { v with layErr := 6 }
/-- COMMIT (R344, R345). A copy whose application is under way is applied first. -/
def execCommit (d : Nat) (s : State) : Out :=
  guardEv "COMMIT" (s.dev d).bootDone ((applyLayout d s).modDev d commitLayout)
/-- ABORT (R344). -/
def execAbort (d : Nat) (s : State) : Out :=
  guardEv "ABORT" (s.dev d).bootDone (s.modDev d fun v => { v with phase := false })
/-- Changes the shadow. -/
def Dev.modShadow (v : Dev) (f : Layout → Layout) : Dev :=
  if v.sel then { v with layA := f v.layA } else { v with layB := f v.layB }
/-- An element of the shadow: below 208 a core entry, then the doublewords of the partition rows. -/
def putShadow (off : Nat) (x : Dword) (l : Layout) : Layout :=
  if off < 208 then { l with cores := kput l.cores off (x.extractLsb' 0 16) }
  else { l with rows := kput l.rows (off - 208) x }
/-- SHADOW_WRITE (R344): it clears PHASE. -/
def execShadowWrite (d off : Nat) (v : BitVec 64) (s : State) : Out :=
  guardEv "SHADOW_WRITE" (decide (off < 336))
    ((applyLayout d s).modDev d fun x => { x.modShadow (putShadow off v) with phase := false })
/-- WATCHDOG_RESET (R345): an application that had not ended runs again, and the shadow is discarded. -/
def execWatchdogReset (d : Nat) (s : State) : Out :=
  .next ((applyLayout d s).modDev d fun v => { v.modShadow (fun _ => v.lay) with phase := false })

end Sys2Proof.Machine
end

