-- ==== Sys2Proof/Machine/EvBoot.lean ====
section
/-! DEFINITION. Sys2Proof/Machine/EvBoot.lean: power-on and the first stage (R438 to R440), SPDM (R441) and the alarm (R442, R443). -/

namespace Sys2Proof.Machine
open Sys2Proof

/-! ### Power-on -/

/-- A failed first stage (R439). -/
def Dev.bootStop (v : Dev) (n : BitVec 4) : Dev := { v with bootFail := n }
/-- The first stage verifies the image and passes control to it (R439), which configures the ports (R438). -/
def bootImage (v : Dev) : Dev :=
  match Config.imageParts v.flash with
  | none => v.bootStop 4
  | some (key, svn, sig, body) =>
    if key.length ≠ 97 then v.bootStop 4
    else if Config.sha384 key ≠ v.keyHash then v.bootStop 1
    else if svn < v.minSvn then v.bootStop 2
    else if !Config.ecdsaOk key (Config.sha384 body) sig then v.bootStop 3
    else
      let v := v.extend 0 (Config.sha384 body)
      let v := v.extend 1 (Config.sha384 (svn :: leBytes v.keyHash.toNat 48))
      { v with bootSvn := svn, bootDone := true, planes := BitVec.allOnes 64 }
/-- What power-on keeps: the fitting, the fuses and the flash, into which an image from the recovery mailbox has gone. -/
def Dev.powerOn (v : Dev) : Dev :=
  bootImage { Dev.reset with
    fit := v.fit, fuse := v.fuse, keyHash := v.keyHash, minSvn := v.minSvn
    flash := if v.recov.isEmpty then v.flash else v.recov }
/-- Everything that stood on a device is gone, and its memory holds zeros (R212, R438). -/
def clearDevice (d : Nat) (s : State) : State :=
  let s := ((s.conts.filter fun (e : Nat × Cont) => e.2.d = d).map Prod.fst).foldl dropCont s
  let s := zeroRange (gk 0 d 0 0) (gk 0 (d + 1) 0 0) s
  let s := zeroRange (gk 1 d 0 0) (gk 1 (d + 1) 0 0) s
  let at_ (line : Nat) : Bool := gkSpace (line * 256) = 0 && gkDev (line * 256) = d
  { s with
    parts := s.parts.filter fun (e : Nat × Part) => e.1 / 16 ≠ d
    cores := s.cores.filter fun (e : Nat × Core) => e.1 / 256 ≠ d
    launches := s.launches.filter fun (e : Nat × Launch) => e.2.d ≠ d
    nodes := s.nodes.filter fun (e : Nat × GNode) => e.2.d ≠ d
    cmds := s.cmds.filter fun (e : Nat × Cmd) => e.2.d ≠ d
    home := s.home.filter fun (e : Nat × HReq) => !at_ e.1 }
/-- POWER_ON_RESET (R438, R439): TIME of the device counts from here (R187). -/
def execPowerOnReset (d : Nat) (s : State) : Out :=
  .next ((clearDevice d s).modDev d fun v => { Dev.powerOn v with t0 := s.time })
/-- RECOVERY_IMAGE: the mailbox of a device whose boot has failed takes an image for the next power-on (R439). -/
def execRecoveryImage (d : Nat) (img : List (BitVec 8)) (s : State) : Out :=
  guardEv "RECOVERY_IMAGE" ((s.dev d).bootFail ≠ 0#4) (s.modDev d fun v => { v with recov := img })

/-! ### SPDM (R441) -/

/-- Bytes of an ERROR response. -/
def spdmError : List Byte := Config.spdmAnswer 0x7F []
/-- The responder answers: with ERROR when the request is not in order, or after a LOCK trip (R443). -/
def spdmReply (ok : Bool) (ans : List Byte) (f : Dev → Dev) (v : Dev) : Dev :=
  if v.lockout || !ok then { v with spdmOut := spdmError } else { f v with spdmOut := ans }
/-- One SPDM request; the image answers (R438). -/
def spdmDo (name : String) (d : Nat) (ok : Dev → Bool) (ans : Dev → List Byte) (f : Dev → Dev) (s : State) : Out :=
  guardEv name ((s.dev d).bootDone) (s.modDev d fun v => spdmReply (ok v) (ans v) f v)
/-- GET_VERSION (R441). -/
def execGetVersion (d : Nat) (s : State) : Out :=
  spdmDo "GET_VERSION" d (fun _ => true) (fun _ => Config.spdmAnswer 0x84 [])
    (fun v => { v with spdmVer := 1, spdmAlg := false }) s
/-- GET_CAPABILITIES (R441). -/
def execGetCapabilities (d : Nat) (s : State) : Out :=
  spdmDo "GET_CAPABILITIES" d (fun v => v.spdmVer = 1) (fun _ => Config.spdmAnswer 0xE1 [])
    (fun v => { v with spdmVer := 2 }) s
/-- NEGOTIATE_ALGORITHMS (R441): ERROR when the requester does not offer the algorithms. -/
def execNegotiateAlgorithms (d : Nat) (supported : Bool) (s : State) : Out :=
  spdmDo "NEGOTIATE_ALGORITHMS" d (fun v => v.spdmVer = 2 && supported) (fun _ => Config.spdmAnswer 0xE3 [])
    (fun v => { v with spdmAlg := true }) s
/-- GET_DIGESTS (R441). -/
def execGetDigests (d : Nat) (s : State) : Out :=
  spdmDo "GET_DIGESTS" d (fun v => v.spdmAlg) (fun _ => Config.spdmAnswer 0x81 []) id s
/-- GET_CERTIFICATE: the chain stands in slot 0 (R441). -/
def execGetCertificate (d slot : Nat) (s : State) : Out :=
  spdmDo "GET_CERTIFICATE" d (fun v => v.spdmAlg && slot = 0) (fun _ => Config.spdmAnswer 0x82 [slot]) id s
/-- CHALLENGE (R441): signed with the attestation key. -/
def execChallenge (d nonce : Nat) (s : State) : Out :=
  spdmDo "CHALLENGE" d (fun v => v.spdmAlg && v.attKey) (fun _ => Config.spdmAnswer 0x83 [nonce]) id s
/-- The bytes of measurement register k. -/
def measBytes (v : Dev) (k : Nat) : List Byte := leBytes (rget v.meas k).toNat 48
/-- The measurements that an index names (R441): index k + 1 is Mk, 0xFF all sixteen. -/
def measAt (v : Dev) (idx : Nat) : List Byte :=
  if idx = 0xFF then (List.range 16).flatMap (measBytes v) else measBytes v (idx - 1)
/-- GET_MEASUREMENTS (R441): the raw digests and a signature. -/
def execGetMeasurements (d : Nat) (idx : BitVec 8) (nonce : Nat) (s : State) : Out :=
  let i := idx.toNat
  spdmDo "GET_MEASUREMENTS" d (fun v => v.spdmAlg && v.attKey && (i = 0xFF || (decide (1 ≤ i) && decide (i ≤ 16))))
    (fun v => measAt v i ++ Config.spdmAnswer 0x60 (i :: nonce :: (measAt v i).map BitVec.toNat)) id s
/-- The number of a new session: 64 + q for a requester that is the management core of node q (its value below 1,024),
else the lowest free one below 64. -/
def sessionNo (v : Dev) (pub : Nat) : Nat :=
  if pub < 1024 then 64 + pub else ((List.range 64).find? fun n => (kget v.spdm n).isNone).getD 0
/-- KEY_EXCHANGE: at most 64 sessions are open (R441). -/
def execKeyExchange (d pub : Nat) (s : State) : Out :=
  spdmDo "KEY_EXCHANGE" d (fun v => v.spdmAlg && v.attKey && decide (v.spdm.length < 64))
    (fun v => Config.spdmAnswer 0x64 [sessionNo v pub, pub])
    (fun v =>
      let n := sessionNo v pub
      { v with spdm := kput v.spdm n ⟨Config.sessionKey n pub, false, 0, 0⟩ }) s
/-- Task-packet keys of the tenants of a device with another node (R309, R441): both ends hold the same key. -/
def newSess (t a b : Nat) : Sess :=
  { key := Config.sessionKey t (min a b * 1024 + max a b), nextSeq := 1, high := 0, seen := [], live := true }
def taskKeys (d q : Nat) (s : State) : State :=
  let ts := (((List.range 16).filter (s.dev d).partOk).map (s.dev d).tenant).eraseDups
  let set (a b : Nat) (v : Dev) : Dev := { v with
    sess := ts.foldl (fun (m : KV Sess) t => kput m (sessKey t b) (newSess t a b)) v.sess }
  (s.modDev d (set d q)).modDev q (set q d)
/-- FINISH: the session is established, or ends (R441). -/
def execFinish (d n : Nat) (proof : Nat) (s : State) : Out :=
  let v := s.dev d
  let good : Bool := (kget v.spdm n).isSome && Config.finishOk n proof
  let s := if good && v.bootDone && !v.lockout && decide (64 ≤ n) then taskKeys d (n - 64) s else s
  spdmDo "FINISH" d (fun _ => good) (fun _ => Config.spdmAnswer 0x65 [n])
    (fun v => { v with spdm := kmod v.spdm n fun x => { x with ready := true } })
    (if good then s else s.modDev d fun v => { v with spdm := kdel v.spdm n })
/-- The session is established. -/
def sessionUp (v : Dev) (n : Nat) : Bool := (kget v.spdm n).any fun x => x.ready
/-- KEY_UPDATE (R441). -/
def execKeyUpdate (d n : Nat) (s : State) : Out :=
  spdmDo "KEY_UPDATE" d (fun v => sessionUp v n) (fun _ => Config.spdmAnswer 0x69 [n])
    (fun v => { v with spdm := kmod v.spdm n fun x =>
      { x with key := Config.sessionKey n x.key.toNat, updates := x.updates + 1 } }) s
/-- HEARTBEAT (R441). -/
def execHeartbeat (d n : Nat) (s : State) : Out :=
  spdmDo "HEARTBEAT" d (fun v => sessionUp v n) (fun _ => Config.spdmAnswer 0x68 [n])
    (fun v => { v with spdm := kmod v.spdm n fun x => { x with beats := x.beats + 1 } }) s
/-- END_SESSION (R441). -/
def execEndSession (d n : Nat) (s : State) : Out :=
  spdmDo "END_SESSION" d (fun v => sessionUp v n) (fun _ => Config.spdmAnswer 0x6C [n])
    (fun v => { v with spdm := kdel v.spdm n }) s
/-- IDE_KM: stream keys come over a session (R441). -/
def execIdeKm (d n stream : Nat) (key : BitVec 256) (s : State) : Out :=
  spdmDo "IDE_KM" d (fun v => sessionUp v n) (fun _ => Config.spdmAnswer 0x7E [n, stream])
    (fun v => { v with ide := kput v.ide stream key }) s

/-! ### The alarm -/

/-- The policy of a sensor (R442): 3 acts as 2. -/
def policyOf (v : Dev) (k : Nat) : Nat := min 2 (bf v.alarmCfg (2 * k + 1) (2 * k))
/-- The actions of a policy upon the device (R443). -/
def tripDev (k : Nat) (v : Dev) : Dev :=
  let pol := policyOf v k
  let v := { v with alarmStat := v.alarmStat ||| (1#4 <<< k), irqs := v.irqs ++ [(0, 0)] }
  let v := v.extend 15 (Config.sha384 [BitVec.ofNat 8 k, BitVec.ofNat 8 (bf v.alarmCfg (2 * k + 1) (2 * k))])
  let v := if 1 ≤ pol then { v with spdm := [], ide := [], sess := [] } else v
  if 2 ≤ pol then { v with lockout := true, attKey := false } else v
/-- Address spaces of a device that have a context (R374). -/
def liveCtxs (s : State) (d : Nat) : List Nat :=
  (((s.conts.filter fun (e : Nat × Cont) => e.2.d = d && !e.2.over).map fun (e : Nat × Cont) => e.2.asid)
    ++ ((s.launches.filter fun (e : Nat × Launch) => e.2.d = d).map fun (e : Nat × Launch) => e.2.asid)
    ++ ((s.nodes.filter fun (e : Nat × GNode) => e.2.d = d).map fun (e : Nat × GNode) => e.2.asid)
    ++ ((s.cmds.filter fun (e : Nat × Cmd) => e.2.d = d).map fun (e : Nat × Cmd) => e.2.asid)).eraseDups
/-- A trip (R443): a LOCK policy ends every context with WHY = 3 and CODE = 0. -/
def tripDone (d k : Nat) (s : State) : State :=
  let pol := policyOf (s.dev d) k
  let s := s.modDev d (tripDev k)
  if 2 ≤ pol then (liveCtxs s d).foldl (fun s a => endContext s d a 0 3 0 0 0 0) s else s
/-- SENSOR_TRIP (R442, R443). -/
def execSensorTrip (d k : Nat) (s : State) : Out := guardEv "SENSOR_TRIP" (decide (k < 4)) (tripDone d k s)

end Sys2Proof.Machine
end

