-- ==== Sys2Proof/Machine/Scalar.lean ====
section
/-! DEFINITION. Sys2Proof/Machine/Scalar.lean: scalar arithmetic (R167 to R170). -/

namespace Sys2Proof.Machine
open Sys2Proof

/-- The 64-bit value a scalar result leaves: the low w bits, extended by the type (R168). -/
def sResult (t : Nat) (v : Int) : Dword :=
  let r := wrapNat (tyWidth t) v
  BitVec.ofNat 64 (if tySigned t then wrapNat 64 (sextNat (tyWidth t) r) else r)
/-- The signed reading of the low w bits. -/
def sSigned (t : Nat) (x : Nat) : Int := sextNat (tyWidth t) x
/-- A signed value outside the w-bit range (R169). -/
def outSigned (t : Nat) (v : Int) : Bool :=
  decide (v < -(2 ^ (tyWidth t - 1))) || decide (2 ^ (tyWidth t - 1) - 1 < v)

/-- A scalar result with its condition code (R168, R169). -/
def sRes (t d : Nat) (v : Int) (c o : Bool) : Res :=
  { sws := [(d, sResult t v)], cc := some (ccRes (tyWidth t) (wrapNat (tyWidth t) v) c o) }
/-- Carry and overflow of x + y (R169). -/
def addCarry (t x y : Nat) : Bool := decide (2 ^ tyWidth t ≤ x % 2 ^ tyWidth t + y % 2 ^ tyWidth t)
def addOver (t x y : Nat) : Bool := outSigned t (sSigned t x + sSigned t y)
/-- No borrow and overflow of x - y (R169). -/
def subCarry (t x y : Nat) : Bool := decide (y % 2 ^ tyWidth t ≤ x % 2 ^ tyWidth t)
def subOver (t x y : Nat) : Bool := outSigned t (sSigned t x - sSigned t y)

/-- A SALU form: a function of the type and the two register values (R168). -/
def sAlu (i : Instr) (f : SForm) (g : Nat → Nat → Nat → Res) (s : State) : Out :=
  issueS i (fun s => g (effTy i) (rs s f.a.toNat).toNat (rs s f.b.toNat).toNat) s

def execSadd (e : Pfx) (f : SForm) (s : State) : Out :=
  sAlu (.sadd e f) f (fun t x y => sRes t f.d.toNat (extOf t x 0 + extOf t y 0) (addCarry t x y) (addOver t x y)) s
def execSsub (e : Pfx) (f : SForm) (s : State) : Out :=
  sAlu (.ssub e f) f (fun t x y => sRes t f.d.toNat (extOf t x 0 - extOf t y 0) (subCarry t x y) (subOver t x y)) s
/-- SMUL: V tells a product outside the range of the type (R169). -/
def execSmul (e : Pfx) (f : SForm) (s : State) : Out :=
  sAlu (.smul e f) f (fun t x y =>
    let v := extOf t x 0 * extOf t y 0
    sRes t f.d.toNat v false (decide (v < minT t) || decide (maxT t < v))) s
def execSand (e : Pfx) (f : SForm) (s : State) : Out :=
  sAlu (.sand e f) f (fun t x y => sRes t f.d.toNat ((x &&& y : Nat) : Int) false false) s
def execSor (e : Pfx) (f : SForm) (s : State) : Out :=
  sAlu (.sor e f) f (fun t x y => sRes t f.d.toNat ((x ||| y : Nat) : Int) false false) s
def execSxor (e : Pfx) (f : SForm) (s : State) : Out :=
  sAlu (.sxor e f) f (fun t x y => sRes t f.d.toNat ((x ^^^ y : Nat) : Int) false false) s
/-- Shifts by the low eight bits of s(b) (R168). -/
def execSshl (e : Pfx) (f : SForm) (s : State) : Out :=
  sAlu (.sshl e f) f (fun t x y => sRes t f.d.toNat ((x * 2 ^ (y % 256) : Nat) : Int) false false) s
def execSshr (e : Pfx) (f : SForm) (s : State) : Out :=
  sAlu (.sshr e f) f (fun t x y =>
    sRes t f.d.toNat ((x % 2 ^ tyWidth t / 2 ^ (y % 256) : Nat) : Int) false false) s
def execSsra (e : Pfx) (f : SForm) (s : State) : Out :=
  sAlu (.ssra e f) f (fun t x y => sRes t f.d.toNat (sSigned t x / (2 ^ (y % 256) : Int)) false false) s
def execSmin (e : Pfx) (f : SForm) (s : State) : Out :=
  sAlu (.smin e f) f (fun t x y => sRes t f.d.toNat (min (extOf t x 0) (extOf t y 0)) false false) s
def execSmax (e : Pfx) (f : SForm) (s : State) : Out :=
  sAlu (.smax e f) f (fun t x y => sRes t f.d.toNat (max (extOf t x 0) (extOf t y 0)) false false) s
/-- SCMP writes only CC (R168). -/
def execScmp (e : Pfx) (b a : BitVec 6) (s : State) : Out :=
  let i : Instr := .scmp e b a
  issueS i (fun s =>
    let t := effTy i
    let x := (rs s a.toNat).toNat; let y := (rs s b.toNat).toNat
    { sRes t 0 (extOf t x 0 - extOf t y 0) (subCarry t x y) (subOver t x y) with sws := [] }) s
/-- SADDI: imm is sext(I9), or sext(IMM23 : I9) under a kind-1 prefix (R168, R85). -/
def execSaddi (e : Pfx) (i9 : BitVec 9) (a d : BitVec 6) (w : BitVec 1) (s : State) : Out :=
  let i : Instr := .saddi e i9 a d w
  issueS i (fun s =>
    let t := effTy i
    let x := (rs s a.toNat).toNat
    let im : Int := match e.k1 with | some m => (m ++ i9).toInt | none => i9.toInt
    let y := wrapNat 64 im
    sRes t d.toNat (extOf t x 0 + extOf t y 0) (addCarry t x y) (addOver t x y)) s
/-- SMOVI and SMOVI.HI; CC keeps its value (R170). -/
def execSmovi (e : Pfx) (i14 : BitVec 14) (d : BitVec 7) (w : BitVec 1) (s : State) : Out :=
  issueS (.smovi e i14 d w) (fun s =>
    let im : Word := match e.k1 with | some m => m ++ i14.extractLsb' 0 9 | none => i14.signExtend 32
    let v : Dword := if e.xo = 1 then im ++ (rs s d.toNat).extractLsb' 0 32 else im.signExtend 64
    { sws := [(d.toNat, v)] }) s

end Sys2Proof.Machine
end

