-- ==== Sys2Proof/Machine/VecInt.lean ====
section
/-! DEFINITION. Sys2Proof/Machine/VecInt.lean: the vector integer, logic and address instructions (R120 to R140). -/

namespace Sys2Proof.Machine
open Sys2Proof

/-- The exact results of VADD, VSUB, VMUL, VMIN, VMAX (R125). -/
def execVadd (e : Pfx) (f : GForm) (s : State) : Out :=
  let t := effTy (.vadd e f)
  intOp (.vadd e f) e f.p t f.d f.a (bOp e f.b) (fun x y => narrow t (e.xo = 1) (x + y)) s
def execVsub (e : Pfx) (f : GForm) (s : State) : Out :=
  let t := effTy (.vsub e f)
  intOp (.vsub e f) e f.p t f.d f.a (bOp e f.b) (fun x y => narrow t (e.xo = 1) (x - y)) s
def execVmul (e : Pfx) (f : GForm) (s : State) : Out :=
  let t := effTy (.vmul e f)
  intOp (.vmul e f) e f.p t f.d f.a (bOp e f.b) (fun x y => narrow t (e.xo = 1) (x * y)) s
/-- VMULH: bits [2w - 1 : w] of the product (R125). -/
def execVmulh (e : Pfx) (f : GForm) (s : State) : Out :=
  let t := effTy (.vmulh e f)
  intOp (.vmulh e f) e f.p t f.d f.a (bOp e f.b)
    (fun x y => (wrapNat (tyWidth t) (x * y / (2 ^ tyWidth t : Int)), 0#6)) s
/-- VMAD: one wrap or clamp of the exact x × y + z (R125). -/
def execVmad (e : Pfx) (f : GForm) (s : State) : Out :=
  let t := effTy (.vmad e f)
  vecOp (.vmad e f) e f.p f.d (tyWords t) (fun G l =>
    let x := G.rdWords l f.a.toNat (tyWords t)
    let y := opInt G (bOp e f.b) t l
    let z := G.rdWords l (e.rc f.d).toNat (tyWords t)
    perElem (tyWidth t) (elems t) fun k => narrow t (e.xo = 1) (extOf t x k * extOf t y k + extOf t z k)) s
def execVmin (e : Pfx) (f : GForm) (s : State) : Out :=
  let t := effTy (.vmin e f)
  intOp (.vmin e f) e f.p t f.d f.a (bOp e f.b) (fun x y => narrow t false (min x y)) s
def execVmax (e : Pfx) (f : GForm) (s : State) : Out :=
  let t := effTy (.vmax e f)
  intOp (.vmax e f) e f.p t f.d f.a (bOp e f.b) (fun x y => narrow t false (max x y)) s

/-- A lane-wise instruction of one source operand, computed on each element (R128). -/
def unInt (i : Instr) (e : Pfx) (f : UForm) (t : Nat) (g : Int → Nat × Flags) (s : State) : Out :=
  vecOp i e f.p f.d (tyWords t) (fun G l =>
    let x := G.rdWords l f.a.toNat (tyWords t)
    perElem (tyWidth t) (elems t) fun k => g (extOf t x k)) s
/-- A result of the most negative value: kept with XO = 0, clamped with SAT with XO = 1 (R128). -/
def execVabs (e : Pfx) (f : UForm) (s : State) : Out :=
  let t := effTy (.vabs e f)
  unInt (.vabs e f) e f t (fun x => narrow t (e.xo = 1) (if x < 0 then -x else x)) s
def execVneg (e : Pfx) (f : UForm) (s : State) : Out :=
  let t := effTy (.vneg e f)
  unInt (.vneg e f) e f t (fun x => narrow t (e.xo = 1) (-x)) s
/-- A bitwise function of one `w`-bit operand (R128). -/
def unBits (i : Instr) (e : Pfx) (f : UForm) (t n : Nat) (g : Nat → Nat → Nat) (s : State) : Out :=
  vecOp i e f.p f.d n (fun G l => (g (tyWidth t) (G.rdWords l f.a.toNat (tyWords t)), 0#6)) s
def execVnot (e : Pfx) (f : UForm) (s : State) : Out :=
  let t := effTy (.vnot e f)
  unBits (.vnot e f) e f t (tyWords t) (fun w x => 2 ^ w - 1 - x) s
/-- The number of one bits of a `w`-bit number. -/
def popc (w x : Nat) : Nat := ((List.range w).filter fun j => x.testBit j).length
/-- Leading zeros of a `w`-bit number; w for zero. -/
def clz (w x : Nat) : Nat := if x = 0 then w else w - 1 - Nat.log2 x
/-- The bits of a `w`-bit number in reverse order. -/
def brev (w x : Nat) : Nat := joinElems 1 ((List.range w).map fun j => if x.testBit (w - 1 - j) then 1 else 0)
def execVpopc (e : Pfx) (f : UForm) (s : State) : Out :=
  unBits (.vpopc e f) e f (effTy (.vpopc e f)) 1 popc s
def execVclz (e : Pfx) (f : UForm) (s : State) : Out :=
  unBits (.vclz e f) e f (effTy (.vclz e f)) 1 clz s
def execVbrev (e : Pfx) (f : UForm) (s : State) : Out :=
  let t := effTy (.vbrev e f)
  unBits (.vbrev e f) e f t (tyWords t) brev s

/-- A bitwise function of two operands (R126). -/
def bitOp (i : Instr) (e : Pfx) (p : BitVec 2) (t : Nat) (d a : BitVec 7) (b : BOp) (g : Nat → Nat → Nat) (s : State) :
    Out :=
  vecOp i e p d (tyWords t) (fun G l => (g (G.rdWords l a.toNat (tyWords t)) (opInt G b t l), 0#6)) s
def execVand (e : Pfx) (f : GForm) (s : State) : Out :=
  bitOp (.vand e f) e f.p (effTy (.vand e f)) f.d f.a (bOp e f.b) (· &&& ·) s
def execVor (e : Pfx) (f : GForm) (s : State) : Out :=
  bitOp (.vor e f) e f.p (effTy (.vor e f)) f.d f.a (bOp e f.b) (· ||| ·) s
def execVxor (e : Pfx) (f : GForm) (s : State) : Out :=
  bitOp (.vxor e f) e f.p (effTy (.vxor e f)) f.d f.a (bOp e f.b) (· ^^^ ·) s

/-- A shift or rotate by the low eight bits of B (R127). -/
def shiftOp (i : Instr) (e : Pfx) (p : BitVec 2) (t : Nat) (d a : BitVec 7) (b : BOp) (g : Nat → Nat → Nat → Nat)
    (s : State) : Out :=
  vecOp i e p d (tyWords t) (fun G l =>
    (g (tyWidth t) (G.rdWords l a.toNat (tyWords t)) (opCount G b l % 256), 0#6)) s
/-- Shift left: 0 when c ≥ w (R127). -/
def shl (w x c : Nat) : Nat := x * 2 ^ c % 2 ^ w
/-- Logical shift right: 0 when c ≥ w (R127). -/
def shr (_w x c : Nat) : Nat := x / 2 ^ c
/-- Arithmetic shift right: all sign bits when c ≥ w (R127). -/
def sra (w x c : Nat) : Nat := wrapNat w (sextNat w x / (2 ^ c : Int))
/-- Rotate left by c mod w (R127). -/
def rotl (w x c : Nat) : Nat := let k := c % w; (x * 2 ^ k) % 2 ^ w + x / 2 ^ (w - k)
/-- Rotate right by c mod w (R127). -/
def rotr (w x c : Nat) : Nat := rotl w x (w - c % w)
def execVshl (e : Pfx) (f : GForm) (s : State) : Out :=
  shiftOp (.vshl e f) e f.p (effTy (.vshl e f)) f.d f.a (bOp e f.b) shl s
def execVshr (e : Pfx) (f : GForm) (s : State) : Out :=
  shiftOp (.vshr e f) e f.p (effTy (.vshr e f)) f.d f.a (bOp e f.b) shr s
def execVsra (e : Pfx) (f : GForm) (s : State) : Out :=
  shiftOp (.vsra e f) e f.p (effTy (.vsra e f)) f.d f.a (bOp e f.b) sra s
def execVrot (e : Pfx) (f : GForm) (s : State) : Out :=
  shiftOp (.vrot e f) e f.p (effTy (.vrot e f)) f.d f.a (bOp e f.b) (if e.xo = 1 then rotr else rotl) s

/-- The length of the field that VBFE and VBFI act on (R129). -/
def fieldLen (w pos len : Nat) : Nat := if len = 0 || w ≤ pos then 0 else min len (w - pos)
/-- VBFE (R129). -/
def execVbfe (e : Pfx) (f : GForm) (s : State) : Out :=
  let t := effTy (.vbfe e f)
  vecOp (.vbfe e f) e f.p f.d (tyWords t) (fun G l =>
    let x := G.rdWords l f.a.toNat (tyWords t)
    let c := opCount G (bOp e f.b) l
    let m := fieldLen (tyWidth t) (c % 256) (c / 256 % 256)
    let v := x / 2 ^ (c % 256) % 2 ^ m
    (if m = 0 then 0 else if tySigned t then wrapNat (tyWidth t) (sextNat m v) else v, 0#6)) s
/-- VBFI (R129). -/
def execVbfi (e : Pfx) (f : GForm) (s : State) : Out :=
  let t := effTy (.vbfi e f)
  vecOp (.vbfi e f) e f.p f.d (tyWords t) (fun G l =>
    let x := G.rdWords l f.a.toNat (tyWords t)
    let base := G.rdWords l (e.rc f.d).toNat (tyWords t)
    let c := opCount G (bOp e f.b) l
    let pos := c % 256
    let m := fieldLen (tyWidth t) pos (c / 256 % 256)
    let old := base / 2 ^ pos % 2 ^ m
    (if m = 0 then base else base - old * 2 ^ pos + x % 2 ^ m * 2 ^ pos, 0#6)) s

/-- VSEL: va where the predicate of RC is set, else B (R130). -/
def execVsel (e : Pfx) (f : GForm) (s : State) : Out :=
  let t := effTy (.vsel e f)
  let pk := predVal s ((e.rc f.d).toNat % 16)
  vecOp (.vsel e f) e f.p f.d (tyWords t) (fun G l =>
    (if pk.getLsbD l then G.rdWords l f.a.toNat (tyWords t) else opInt G (bOp e f.b) t l, 0#6)) s

/-- The condition CD of VCMP (R131). -/
def vcmpCond (t cd x y : Nat) : Bool :=
  let a := extOf t x 0; let b := extOf t y 0
  match cd with
  | 0 => a = b
  | 1 => a ≠ b
  | 2 => decide (a < b)
  | 3 => decide (a ≤ b)
  | 4 => decide (b < a)
  | 5 => decide (b ≤ a)
  | 6 => x &&& y ≠ 0
  | _ => x &&& y = 0
/-- VCMP (R131). -/
def execVcmp (e : Pfx) (f : CForm) (s : State) : Out :=
  let t := effTy (.vcmp e f)
  let m := activeMask e f.p s
  issueRes (.vcmp e f) m (fun s => cmpRes s m f.q.toNat e.xo (lanesOf s.g.width m) fun l =>
    (vcmpCond t f.c.toNat (s.g.rdWords l f.a.toNat (tyWords t)) (s.g.rdWords l f.b.toNat (tyWords t)), 0#6)) s

/-- VSAT: clamps the signed value to n bits (R132). -/
def execVsat (e : Pfx) (f : GForm) (s : State) : Out :=
  let t := effTy (.vsat e f)
  let w := tyWidth t
  let n := f.b.toNat
  let lo : Int := if tySigned t then -(2 ^ (n - 1)) else 0
  let hi : Int := if tySigned t then 2 ^ (n - 1) - 1 else 2 ^ n - 1
  vecOp (.vsat e f) e f.p f.d (tyWords t) (fun G l =>
    let x := sextNat w (G.rdWords l f.a.toNat (tyWords t))
    let v := max lo (min hi x)
    (wrapNat w v, satFlag (v ≠ x))) s

/-- VADDC: addition with a carry predicate in and out (R133). -/
def execVaddc (e : Pfx) (f : GForm) (s : State) : Out :=
  let t := effTy (.vaddc e f)
  let w := tyWidth t
  let k := (e.rc f.d).toNat % 16
  let m := activeMask e f.p s
  issueRes (.vaddc e f) m (fun s =>
    let pk := predVal s k
    let r := (lanesOf s.g.width m).map fun l =>
      let y := opInt s.g (bOp e f.b) t l
      let y := if e.xo = 0 then y else 2 ^ w - 1 - y
      (l, s.g.rdWords l f.a.toNat (tyWords t) + y + (if pk.getLsbD l then 1 else 0))
    let c := maskOf ((r.filter fun (x : Nat × Nat) => decide (2 ^ w ≤ x.2)).map Prod.fst)
    { vws := r.flatMap fun (x : Nat × Nat) => wordsAt x.1 f.d.toNat x.2 (tyWords t)
      pws := [(k, (pk &&& ~~~m) ||| c)] }) s

/-- VLEA: a 64-bit address from a pair and a scaled index (R134). -/
def execVlea (e : Pfx) (f : GForm) (s : State) : Out :=
  let t := effTy (.vlea e f)
  vecOp (.vlea e f) e f.p f.d 2 (fun G l =>
    (wrapNat 64 ((G.rdWords l f.a.toNat 2 : Int) + extOf t (opCount G (bOp e f.b) l) 0 * 2 ^ e.xo), 0#6)) s

/-! ### Across lanes (R135 to R138) -/

/-- The source lane of VSHF for lane l (R136). -/
def shfLane (G : Group) (xo : Nat) (b : BOp) (l : Nat) : Nat :=
  let c := opCount G b l
  let j : Int := match xo with
    | 0 => (c : Int)
    | 1 => (l : Int) - c
    | 2 => (l : Int) + c
    | _ => ((l ^^^ (c % 64) : Nat) : Int)
  if 0 ≤ j ∧ j < G.width then j.toNat else l
/-- VSHF (R136). -/
def execVshf (e : Pfx) (f : GForm) (s : State) : Out :=
  let t := effTy (.vshf e f)
  let ls := lanesOf s.g.width (activeMask e f.p s)
  issueAcross (.vshf e f) (regs (.vshf e f))
    (fun s => ls.flatMap fun l =>
      (l, shfLane s.g e.xo (bOp e f.b) l, f.a.toNat, tyWords t) :: (if e.long then [] else [(l, l, f.b.toNat, 1)]))
    (fun s => laneRes ls f.d.toNat (tyWords t) fun l =>
      (s.g.rdWords (shfLane s.g e.xo (bOp e f.b) l) f.a.toNat (tyWords t), 0#6)) s
/-- VBCAST (R137). -/
def execVbcast (e : Pfx) (f : GForm) (s : State) : Out :=
  let t := effTy (.vbcast e f)
  let m := activeMask e f.p s
  let ls := lanesOf s.g.width m
  let j := if e.xo = 1 then lowBit m else f.b.toNat
  issueAcross (.vbcast e f) (regs (.vbcast e f))
    (fun _ => ls.map fun l => (l, j, f.a.toNat, tyWords t))
    (fun s => laneRes ls f.d.toNat (tyWords t) fun _ => (s.g.rdWords j f.a.toNat (tyWords t), 0#6)) s

/-- A partial value of a tree: absent, or a bit pattern with the flags of its nodes (R67, R69). -/
abbrev TVal := Option Nat × Flags
/-- Combines two subtrees, the lower-numbered one on the left (R67, R69). -/
def tjoin (op : Nat → Nat → Nat × Flags) (a b : TVal) : TVal :=
  match a, b with
  | (some x, fa), (some y, fb) => let r := op x y; (some r.1, fa ||| fb ||| r.2)
  | (some x, fa), (none, fb) => (some x, fa ||| fb)
  | (none, fa), (y, fb) => (y, fa ||| fb)
/-- The subtree over lanes lo to lo + 2^n - 1 (R67). -/
def treeVal (op : Nat → Nat → Nat × Flags) (v : Nat → Option Nat) : Nat → Nat → TVal
  | 0, lo => (v lo, 0#6)
  | n + 1, lo => tjoin op (treeVal op v n lo) (treeVal op v n (lo + 2 ^ n))
/-- The scan over lanes lo to lo + cnt - 1: aligned blocks from the highest bit down, joined from the left (R68). -/
def scanVal (op : Nat → Nat → Nat × Flags) (v : Nat → Option Nat) : Nat → Nat → Nat → TVal → TVal
  | 0, _, _, acc => acc
  | n + 1, lo, cnt, acc =>
    if cnt.testBit n then scanVal op v n (lo + 2 ^ n) cnt (tjoin op acc (treeVal op v n lo)) else scanVal op v n lo cnt acc
/-- The combining operation of VREDUCE and VSCAN (R138). -/
def redOp (t b rm : Nat) (fz : Bool) (x y : Nat) : Nat × Flags :=
  if tyFloat t then
    match b with
    | 0 => flushRes t fz (fvArith t rm 0 (elemVal t fz x) (elemVal t fz y))
    | 1 => fMinMax t false fz x y
    | _ => fMinMax t true fz x y
  else
    match b with
    | 0 => ((x + y) % 2 ^ tyWidth t, 0#6)
    | 1 => (if extOf t x 0 ≤ extOf t y 0 then x else y, 0#6)
    | 2 => (if extOf t y 0 ≤ extOf t x 0 then x else y, 0#6)
    | 3 => (x &&& y, 0#6)
    | 4 => (x ||| y, 0#6)
    | _ => (x ^^^ y, 0#6)
/-- A lane's value as the tree takes it: with FZ = 1 a subnormal floating-point input reads as zero of its sign (R49). -/
def redLeaf (t : Nat) (fz : Bool) (x : Nat) : Nat :=
  if fz && tyFloat t && isSub (fmtOf t) x then withSign (fmtOf t) (fSign (fmtOf t) x) 0 else x
/-- The identity of the operation (R69). -/
def redIdent (t b : Nat) : Nat :=
  if tyFloat t then
    match b with | 0 => 0 | 1 => infBits (fmtOf t) false | _ => infBits (fmtOf t) true
  else
    match b with
    | 1 => wrapNat (tyWidth t) (maxT t)
    | 2 => wrapNat (tyWidth t) (minT t)
    | 3 => 2 ^ tyWidth t - 1
    | _ => 0
/-- VREDUCE (R138). -/
def execVreduce (e : Pfx) (f : GForm) (s : State) : Out :=
  let t := effTy (.vreduce e f)
  let ls := lanesOf s.g.width (activeMask e f.p s)
  issueAcross (.vreduce e f) (regs (.vreduce e f))
    (fun _ => ls.flatMap fun l => ls.map fun j => (l, j, f.a.toNat, tyWords t))
    (fun s =>
      let r := treeVal (redOp t f.b.toNat e.rm s.g.fz)
        (fun l => if ls.contains l then some (redLeaf t s.g.fz (s.g.rdWords l f.a.toNat (tyWords t))) else none) 6 0
      let x := r.1.getD (redIdent t f.b.toNat)
      { vws := ls.flatMap fun l => wordsAt l f.d.toNat x (tyWords t), fl := r.2 }) s
/-- VSCAN (R138): exclusive with XO = 1. -/
def execVscan (e : Pfx) (f : GForm) (s : State) : Out :=
  let t := effTy (.vscan e f)
  let ls := lanesOf s.g.width (activeMask e f.p s)
  let cnt (l : Nat) : Nat := if e.xo = 1 then l else l + 1
  issueAcross (.vscan e f) (regs (.vscan e f))
    (fun _ => ls.flatMap fun l => (ls.filter fun j => decide (j < cnt l)).map fun j => (l, j, f.a.toNat, tyWords t))
    (fun s => laneRes ls f.d.toNat (tyWords t) fun l =>
      let r := scanVal (redOp t f.b.toNat e.rm s.g.fz)
        (fun l => if ls.contains l then some (redLeaf t s.g.fz (s.g.rdWords l f.a.toNat (tyWords t))) else none) 7 0 (cnt l) (none, 0#6)
      (r.1.getD (redIdent t f.b.toNat), r.2)) s

/-- VDOT4 (R139). -/
def execVdot4 (e : Pfx) (f : GForm) (s : State) : Out :=
  let t := effTy (.vdot4 e f)
  let tb := if e.xo % 2 = 1 then (if t = 0x16 then 0x17 else 0x16) else t
  vecOp (.vdot4 e f) e f.p f.d 1 (fun G l =>
    let x := G.rdWords l f.a.toNat 1
    let y := opInt G (bOp e f.b) t l
    let c := sextNat 32 (G.rdWords l (e.rc f.d).toNat 1)
    narrow 0x10 (2 ≤ e.xo) ((List.range 4).foldl (fun a k => a + extOf t x k * extOf tb y k) c)) s

/-- VMOVI: the same constant in every active lane (R140). -/
def vmovi (i : Instr) (e : Pfx) (p : BitVec 2) (d : BitVec 7) (x : Word) (s : State) : Out :=
  vecOp i e p d 1 (fun _ _ => (x.toNat, 0#6)) s
def execVmovi (e : Pfx) (i : BitVec 14) (d : BitVec 7) (w : BitVec 1) (p : BitVec 2) (s : State) : Out :=
  vmovi (.vmovi e i d w p) e p d
    (match e.k1 with | some m => m ++ i.extractLsb' 0 9 | none => i.signExtend 32) s

end Sys2Proof.Machine
end

