-- ==== Sys2Proof/Machine/Short.lean ====
section
/-! DEFINITION. Sys2Proof/Machine/Short.lean: the 16-bit forms (R80 to R82): each has the effect of its 32-bit instruction on
all lanes of the sub-group, with W = 0 and RNE. -/

namespace Sys2Proof.Machine
open Sys2Proof

/-- No prefix. -/
def bare : Pfx := ⟨none, none⟩
/-- A short register field as a register number. -/
def sh6 (d : BitVec 6) : BitVec 7 := d.zeroExtend 7
def sh5 (b : BitVec 5) : BitVec 7 := b.zeroExtend 7

/-- VMOV: MOV.B32 vd, vb (R81). -/
def execVmov (b : BitVec 5) (d : BitVec 6) (s : State) : Out :=
  vecOp (.vmov b d) bare 0 (sh6 d) 1 (fun G l => (G.rdWords l b.toNat 1, 0#6)) s
/-- NOP16 (R82). -/
def execNop16 (r : BitVec 5) (s : State) : Out := issueS (.nop16 r) (fun _ => {}) s
/-- VMOVI vd, #imm (R81). -/
def execVmoviShort (i : BitVec 5) (d : BitVec 6) (s : State) : Out :=
  vecOp (.vmoviShort i d) bare 0 (sh6 d) 1 (fun _ _ => (wrapNat 32 i.toInt, 0#6)) s
/-- VADD.S32 vd, vd, vb (R81). -/
def execVaddShort (b : BitVec 5) (d : BitVec 6) (s : State) : Out :=
  intOp (.vaddShort b d) bare 0 0x10 (sh6 d) (sh6 d) (.reg (sh5 b)) (fun x y => narrow 0x10 false (x + y)) s
/-- VSUB.S32 vd, vd, vb (R81). -/
def execVsubShort (b : BitVec 5) (d : BitVec 6) (s : State) : Out :=
  intOp (.vsubShort b d) bare 0 0x10 (sh6 d) (sh6 d) (.reg (sh5 b)) (fun x y => narrow 0x10 false (x - y)) s
/-- VMUL.S32 vd, vd, vb (R81). -/
def execVmulShort (b : BitVec 5) (d : BitVec 6) (s : State) : Out :=
  intOp (.vmulShort b d) bare 0 0x10 (sh6 d) (sh6 d) (.reg (sh5 b)) (fun x y => narrow 0x10 false (x * y)) s
/-- VADD.S32 vd, vd, #imm (R81). -/
def execVaddi (i : BitVec 5) (d : BitVec 6) (s : State) : Out :=
  intOp (.vaddi i d) bare 0 0x10 (sh6 d) (sh6 d) (bImm5 i) (fun x y => narrow 0x10 false (x + y)) s
/-- VAND.B32 vd, vd, vb (R81). -/
def execVandShort (b : BitVec 5) (d : BitVec 6) (s : State) : Out :=
  bitOp (.vandShort b d) bare 0 0x1B (sh6 d) (sh6 d) (.reg (sh5 b)) (· &&& ·) s
/-- VOR.B32 vd, vd, vb (R81). -/
def execVorShort (b : BitVec 5) (d : BitVec 6) (s : State) : Out :=
  bitOp (.vorShort b d) bare 0 0x1B (sh6 d) (sh6 d) (.reg (sh5 b)) (· ||| ·) s
/-- VXOR.B32 vd, vd, vb (R81). -/
def execVxorShort (b : BitVec 5) (d : BitVec 6) (s : State) : Out :=
  bitOp (.vxorShort b d) bare 0 0x1B (sh6 d) (sh6 d) (.reg (sh5 b)) (· ^^^ ·) s
/-- VSHL.B32 vd, vd, #imm (R81). -/
def execVshlI (i : BitVec 5) (d : BitVec 6) (s : State) : Out :=
  shiftOp (.vshlI i d) bare 0 0x1B (sh6 d) (sh6 d) (bZimm5 i) shl s
/-- VSHR.B32 vd, vd, #imm (R81). -/
def execVshrI (i : BitVec 5) (d : BitVec 6) (s : State) : Out :=
  shiftOp (.vshrI i d) bare 0 0x1B (sh6 d) (sh6 d) (bZimm5 i) shr s
/-- FADD.F32 vd, vd, vb (R81). -/
def execFaddShort (b : BitVec 5) (d : BitVec 6) (s : State) : Out :=
  fltOp (.faddShort b d) bare 0 0 (sh6 d) (sh6 d) (.reg (sh5 b)) (fArithBits 0 0 0) s
/-- FSUB.F32 vd, vd, vb (R81). -/
def execFsubShort (b : BitVec 5) (d : BitVec 6) (s : State) : Out :=
  fltOp (.fsubShort b d) bare 0 0 (sh6 d) (sh6 d) (.reg (sh5 b)) (fArithBits 0 0 1) s
/-- FMUL.F32 vd, vd, vb (R81). -/
def execFmulShort (b : BitVec 5) (d : BitVec 6) (s : State) : Out :=
  fltOp (.fmulShort b d) bare 0 0 (sh6 d) (sh6 d) (.reg (sh5 b)) (fArithBits 0 0 2) s
/-- FMAX.F32 vd, vd, vb (R81). -/
def execFmaxShort (b : BitVec 5) (d : BitVec 6) (s : State) : Out :=
  fltOp (.fmaxShort b d) bare 0 0 (sh6 d) (sh6 d) (.reg (sh5 b)) (fMinMax 0 true) s
/-- FMIN.F32 vd, vd, vb (R81). -/
def execFminShort (b : BitVec 5) (d : BitVec 6) (s : State) : Out :=
  fltOp (.fminShort b d) bare 0 0 (sh6 d) (sh6 d) (.reg (sh5 b)) (fMinMax 0 false) s

end Sys2Proof.Machine
end

