-- ==== Sys2Proof/Machine/Dispatch.lean ====
section
/-! DEFINITION. Sys2Proof/Machine/Dispatch.lean: one arm per constructor of Instr, each one call of that instruction's or
event's own meaning. -/

namespace Sys2Proof.Machine

def exec (i : Instr) (s : State) : Host.Outcome State Fault Refusal :=
  match i with
  | .nop e => Sys2Proof.Machine.execNop e s
  | .vadd e f => Sys2Proof.Machine.execVadd e f s
  | .vsub e f => Sys2Proof.Machine.execVsub e f s
  | .vmul e f => Sys2Proof.Machine.execVmul e f s
  | .vmulh e f => Sys2Proof.Machine.execVmulh e f s
  | .vmad e f => Sys2Proof.Machine.execVmad e f s
  | .vmin e f => Sys2Proof.Machine.execVmin e f s
  | .vmax e f => Sys2Proof.Machine.execVmax e f s
  | .vabs e f => Sys2Proof.Machine.execVabs e f s
  | .vneg e f => Sys2Proof.Machine.execVneg e f s
  | .vnot e f => Sys2Proof.Machine.execVnot e f s
  | .vpopc e f => Sys2Proof.Machine.execVpopc e f s
  | .vclz e f => Sys2Proof.Machine.execVclz e f s
  | .vbrev e f => Sys2Proof.Machine.execVbrev e f s
  | .vand e f => Sys2Proof.Machine.execVand e f s
  | .vor e f => Sys2Proof.Machine.execVor e f s
  | .vxor e f => Sys2Proof.Machine.execVxor e f s
  | .vshl e f => Sys2Proof.Machine.execVshl e f s
  | .vshr e f => Sys2Proof.Machine.execVshr e f s
  | .vsra e f => Sys2Proof.Machine.execVsra e f s
  | .vrot e f => Sys2Proof.Machine.execVrot e f s
  | .vbfe e f => Sys2Proof.Machine.execVbfe e f s
  | .vbfi e f => Sys2Proof.Machine.execVbfi e f s
  | .vsel e f => Sys2Proof.Machine.execVsel e f s
  | .vcmp e f => Sys2Proof.Machine.execVcmp e f s
  | .vsat e f => Sys2Proof.Machine.execVsat e f s
  | .vaddc e f => Sys2Proof.Machine.execVaddc e f s
  | .vlea e f => Sys2Proof.Machine.execVlea e f s
  | .vshf e f => Sys2Proof.Machine.execVshf e f s
  | .vbcast e f => Sys2Proof.Machine.execVbcast e f s
  | .vreduce e f => Sys2Proof.Machine.execVreduce e f s
  | .vscan e f => Sys2Proof.Machine.execVscan e f s
  | .vdot4 e f => Sys2Proof.Machine.execVdot4 e f s
  | .vmovi e v d w p => Sys2Proof.Machine.execVmovi e v d w p s
  | .fadd e f => Sys2Proof.Machine.execFadd e f s
  | .fsub e f => Sys2Proof.Machine.execFsub e f s
  | .fmul e f => Sys2Proof.Machine.execFmul e f s
  | .ffma e f => Sys2Proof.Machine.execFfma e f s
  | .fmin e f => Sys2Proof.Machine.execFmin e f s
  | .fmax e f => Sys2Proof.Machine.execFmax e f s
  | .fsgn e f => Sys2Proof.Machine.execFsgn e f s
  | .fcmp e f => Sys2Proof.Machine.execFcmp e f s
  | .fclass e f => Sys2Proof.Machine.execFclass e f s
  | .frcp e f => Sys2Proof.Machine.execFrcp e f s
  | .frsq e f => Sys2Proof.Machine.execFrsq e f s
  | .fsqrt e f => Sys2Proof.Machine.execFsqrt e f s
  | .fexp2 e f => Sys2Proof.Machine.execFexp2 e f s
  | .flog2 e f => Sys2Proof.Machine.execFlog2 e f s
  | .fsin e f => Sys2Proof.Machine.execFsin e f s
  | .fcos e f => Sys2Proof.Machine.execFcos e f s
  | .ftanh e f => Sys2Proof.Machine.execFtanh e f s
  | .fcvt e sn t a d w p => Sys2Proof.Machine.execFcvt e sn t a d w p s
  | .fpack e f => Sys2Proof.Machine.execFpack e f s
  | .funpack e f => Sys2Proof.Machine.execFunpack e f s
  | .fscale e f => Sys2Proof.Machine.execFscale e f s
  | .frnd e f => Sys2Proof.Machine.execFrnd e f s
  | .fdot2 e f => Sys2Proof.Machine.execFdot2 e f s
  | .fmxs e t a d w p => Sys2Proof.Machine.execFmxs e t a d w p s
  | .fwcvt e f => Sys2Proof.Machine.execFwcvt e f s
  | .fwadd e f => Sys2Proof.Machine.execFwadd e f s
  | .sadd e f => Sys2Proof.Machine.execSadd e f s
  | .ssub e f => Sys2Proof.Machine.execSsub e f s
  | .smul e f => Sys2Proof.Machine.execSmul e f s
  | .sand e f => Sys2Proof.Machine.execSand e f s
  | .sor e f => Sys2Proof.Machine.execSor e f s
  | .sxor e f => Sys2Proof.Machine.execSxor e f s
  | .sshl e f => Sys2Proof.Machine.execSshl e f s
  | .sshr e f => Sys2Proof.Machine.execSshr e f s
  | .ssra e f => Sys2Proof.Machine.execSsra e f s
  | .smin e f => Sys2Proof.Machine.execSmin e f s
  | .smax e f => Sys2Proof.Machine.execSmax e f s
  | .scmp e b a => Sys2Proof.Machine.execScmp e b a s
  | .saddi e v a d w => Sys2Proof.Machine.execSaddi e v a d w s
  | .smovi e v d w => Sys2Proof.Machine.execSmovi e v d w s
  | .pand e b a d => Sys2Proof.Machine.execPand e b a d s
  | .por e b a d => Sys2Proof.Machine.execPor e b a d s
  | .pxor e b a d => Sys2Proof.Machine.execPxor e b a d s
  | .pandn e b a d => Sys2Proof.Machine.execPandn e b a d s
  | .pnot e a d => Sys2Proof.Machine.execPnot e a d s
  | .pset e a d => Sys2Proof.Machine.execPset e a d s
  | .pget e a d => Sys2Proof.Machine.execPget e a d s
  | .mov e f => Sys2Proof.Machine.execMov e f s
  | .movix e f => Sys2Proof.Machine.execMovix e f s
  | .stix e f => Sys2Proof.Machine.execStix e f s
  | .ixset e b m k p => Sys2Proof.Machine.execIxset e b m k p s
  | .park e c a d p => Sys2Proof.Machine.execPark e c a d p s
  | .unpark e c a d p => Sys2Proof.Machine.execUnpark e c a d p s
  | .winrd e b k d p => Sys2Proof.Machine.execWinrd e b k d p s
  | .br e v c => Sys2Proof.Machine.execBr e v c s
  | .brp e v sn k => Sys2Proof.Machine.execBrp e v sn k s
  | .jmp e v => Sys2Proof.Machine.execJmp e v s
  | .call e v => Sys2Proof.Machine.execCall e v s
  | .ret e a => Sys2Proof.Machine.execRet e a s
  | .split e f q v => Sys2Proof.Machine.execSplit e f q v s
  | .join e a => Sys2Proof.Machine.execJoin e a s
  | .meetset e v => Sys2Proof.Machine.execMeetset e v s
  | .elect e b a d => Sys2Proof.Machine.execElect e b a d s
  | .exit e => Sys2Proof.Machine.execExit e s
  | .tcfg e a => Sys2Proof.Machine.execTcfg e a s
  | .tclaim e a d => Sys2Proof.Machine.execTclaim e a d s
  | .tclaimAny e n d => Sys2Proof.Machine.execTclaimAny e n d s
  | .trel e a => Sys2Proof.Machine.execTrel e a s
  | .tstatr e sn d => Sys2Proof.Machine.execTstatr e sn d s
  | .ldG e f => Sys2Proof.Machine.execLdG e f s
  | .ldSp e f => Sys2Proof.Machine.execLdSp e f s
  | .ldCl e f => Sys2Proof.Machine.execLdCl e f s
  | .ldCh e f => Sys2Proof.Machine.execLdCh e f s
  | .ldLn e f => Sys2Proof.Machine.execLdLn e f s
  | .stG e f => Sys2Proof.Machine.execStG e f s
  | .stSp e f => Sys2Proof.Machine.execStSp e f s
  | .stCl e f => Sys2Proof.Machine.execStCl e f s
  | .stCh e f => Sys2Proof.Machine.execStCh e f s
  | .stLn e f => Sys2Proof.Machine.execStLn e f s
  | .gather e f => Sys2Proof.Machine.execGather e f s
  | .scatter e f => Sys2Proof.Machine.execScatter e f s
  | .atom e f => Sys2Proof.Machine.execAtom e f s
  | .atomr e f => Sys2Proof.Machine.execAtomr e f s
  | .cas e sn g d p => Sys2Proof.Machine.execCas e sn g d p s
  | .lda e f => Sys2Proof.Machine.execLda e f s
  | .strel e f => Sys2Proof.Machine.execStrel e f s
  | .fence e b a => Sys2Proof.Machine.execFence e b a s
  | .acqPromote e a => Sys2Proof.Machine.execAcqPromote e a s
  | .pref e x o a l p => Sys2Proof.Machine.execPref e x o a l p s
  | .cflush e x o a l p => Sys2Proof.Machine.execCflush e x o a l p s
  | .tfill e x o a d p => Sys2Proof.Machine.execTfill e x o a d p s
  | .trow e f => Sys2Proof.Machine.execTrow e f s
  | .qpush e f => Sys2Proof.Machine.execQpush e f s
  | .qpop e f => Sys2Proof.Machine.execQpop e f s
  | .qtry e f => Sys2Proof.Machine.execQtry e f s
  | .qstat e b d => Sys2Proof.Machine.execQstat e b d s
  | .wait e t n sn l => Sys2Proof.Machine.execWait e t n sn l s
  | .barinit e b a d => Sys2Proof.Machine.execBarinit e b a d s
  | .bararr e d => Sys2Proof.Machine.execBararr e d s
  | .bararrN e a d => Sys2Proof.Machine.execBararrN e a d s
  | .barexp e a d => Sys2Proof.Machine.execBarexp e a d s
  | .barwait e a d => Sys2Proof.Machine.execBarwait e a d s
  | .bartest e b a d => Sys2Proof.Machine.execBartest e b a d s
  | .gbar e => Sys2Proof.Machine.execGbar e s
  | .trap e v => Sys2Proof.Machine.execTrap e v s
  | .tfence e => Sys2Proof.Machine.execTfence e s
  | .rett e => Sys2Proof.Machine.execRett e s
  | .sprr e v d => Sys2Proof.Machine.execSprr e v d s
  | .sprw e v a => Sys2Proof.Machine.execSprw e v a s
  | .yield e => Sys2Proof.Machine.execYield e s
  | .sleep e a => Sys2Proof.Machine.execSleep e a s
  | .getid e v a d => Sys2Proof.Machine.execGetid e v a d s
  | .replace e b a => Sys2Proof.Machine.execReplace e b a s
  | .vmov b d => Sys2Proof.Machine.execVmov b d s
  | .nop16 r => Sys2Proof.Machine.execNop16 r s
  | .vmoviShort v d => Sys2Proof.Machine.execVmoviShort v d s
  | .vaddShort b d => Sys2Proof.Machine.execVaddShort b d s
  | .vsubShort b d => Sys2Proof.Machine.execVsubShort b d s
  | .vmulShort b d => Sys2Proof.Machine.execVmulShort b d s
  | .vaddi v d => Sys2Proof.Machine.execVaddi v d s
  | .vandShort b d => Sys2Proof.Machine.execVandShort b d s
  | .vorShort b d => Sys2Proof.Machine.execVorShort b d s
  | .vxorShort b d => Sys2Proof.Machine.execVxorShort b d s
  | .vshlI v d => Sys2Proof.Machine.execVshlI v d s
  | .vshrI v d => Sys2Proof.Machine.execVshrI v d s
  | .faddShort b d => Sys2Proof.Machine.execFaddShort b d s
  | .fsubShort b d => Sys2Proof.Machine.execFsubShort b d s
  | .fmulShort b d => Sys2Proof.Machine.execFmulShort b d s
  | .fmaxShort b d => Sys2Proof.Machine.execFmaxShort b d s
  | .fminShort b d => Sys2Proof.Machine.execFminShort b d s
  | .illegalInstruction cause => Sys2Proof.Machine.execIllegalInstruction cause s
  | .instructionFetchFault code va inRange tpoi => Sys2Proof.Machine.execInstructionFetchFault code va inRange tpoi s
  | .trapEntry g => Sys2Proof.Machine.execTrapEntry g s
  | .teamPlacement d p => Sys2Proof.Machine.execTeamPlacement d p s
  | .groupRetirement g => Sys2Proof.Machine.execGroupRetirement g s
  | .loadDataReturn g n => Sys2Proof.Machine.execLoadDataReturn g n s
  | .storePerformed core n => Sys2Proof.Machine.execStorePerformed core n s
  | .waitCompletion g b => Sys2Proof.Machine.execWaitCompletion g b s
  | .sleepTimeout g b => Sys2Proof.Machine.execSleepTimeout g b s
  | .queueRoomFreed g b => Sys2Proof.Machine.execQueueRoomFreed g b s
  | .queueEntriesArrive g b => Sys2Proof.Machine.execQueueEntriesArrive g b s
  | .byteCredit n => Sys2Proof.Machine.execByteCredit n s
  | .editionSweepEnd cls key => Sys2Proof.Machine.execEditionSweepEnd cls key s
  | .mscMissFetch d p line want => Sys2Proof.Machine.execMscMissFetch d p line want s
  | .rdsh q line => Sys2Proof.Machine.execRdsh q line s
  | .rdown q line => Sys2Proof.Machine.execRdown q line s
  | .upgrade q line => Sys2Proof.Machine.execUpgrade q line s
  | .wback q line => Sys2Proof.Machine.execWback q line s
  | .evict q line => Sys2Proof.Machine.execEvict q line s
  | .hostOwnershipRequest line => Sys2Proof.Machine.execHostOwnershipRequest line s
  | .cxlMemAccess d p port off len data => Sys2Proof.Machine.execCxlMemAccess d p port off len data s
  | .translationWalk d p asid kind va => Sys2Proof.Machine.execTranslationWalk d p asid kind va s
  | .freplyReplay d p v => Sys2Proof.Machine.execFreplyReplay d p v s
  | .freplyDeliver d p v => Sys2Proof.Machine.execFreplyDeliver d p v s
  | .freplyTerminate d p v => Sys2Proof.Machine.execFreplyTerminate d p v s
  | .freplyDiscard d p v => Sys2Proof.Machine.execFreplyDiscard d p v s
  | .xinvGo d p v => Sys2Proof.Machine.execXinvGo d p v s
  | .xinvComplete d p => Sys2Proof.Machine.execXinvComplete d p s
  | .xwinv d p v => Sys2Proof.Machine.execXwinv d p v s
  | .xwinvComplete d p => Sys2Proof.Machine.execXwinvComplete d p s
  | .migrationStart d p n v => Sys2Proof.Machine.execMigrationStart d p n v s
  | .migrationLineMove d p n => Sys2Proof.Machine.execMigrationLineMove d p n s
  | .migrationEnd d p n v => Sys2Proof.Machine.execMigrationEnd d p n v s
  | .atsInvalidationRequest d pasid va size => Sys2Proof.Machine.execAtsInvalidationRequest d pasid va size s
  | .atsInvalidationCompletion d n => Sys2Proof.Machine.execAtsInvalidationCompletion d n s
  | .atsTranslationCompletion d asid va hpa granted => Sys2Proof.Machine.execAtsTranslationCompletion d asid va hpa granted s
  | .pageRequestResponse d n ok => Sys2Proof.Machine.execPageRequestResponse d n ok s
  | .pageRequestTimeout d n => Sys2Proof.Machine.execPageRequestTimeout d n s
  | .matrixBlockRead k => Sys2Proof.Machine.execMatrixBlockRead k s
  | .matrixOperationStart core => Sys2Proof.Machine.execMatrixOperationStart core s
  | .matrixProducts core => Sys2Proof.Machine.execMatrixProducts core s
  | .drain core => Sys2Proof.Machine.execDrain core s
  | .matrixCompletion core n => Sys2Proof.Machine.execMatrixCompletion core n s
  | .commandBlockRead src q => Sys2Proof.Machine.execCommandBlockRead src q s
  | .copy u n => Sys2Proof.Machine.execCopy u n s
  | .read u => Sys2Proof.Machine.execRead u s
  | .write u => Sys2Proof.Machine.execWrite u s
  | .commandAtom u => Sys2Proof.Machine.execCommandAtom u s
  | .commandCas u => Sys2Proof.Machine.execCommandCas u s
  | .reduce u n => Sys2Proof.Machine.execReduce u n s
  | .kalloc u => Sys2Proof.Machine.execKalloc u s
  | .kfree u => Sys2Proof.Machine.execKfree u s
  | .signal u => Sys2Proof.Machine.execSignal u s
  | .commandCompletion u => Sys2Proof.Machine.execCommandCompletion u s
  | .spanTagCheck u n pass => Sys2Proof.Machine.execSpanTagCheck u n pass s
  | .spanTimeout u n => Sys2Proof.Machine.execSpanTimeout u n s
  | .inboundRequest d p srcNode srcPart win off kind len coherent data => Sys2Proof.Machine.execInboundRequest d p srcNode srcPart win off kind len coherent data s
  | .taskPacketSend src => Sys2Proof.Machine.execTaskPacketSend src s
  | .taskPacketArrival u => Sys2Proof.Machine.execTaskPacketArrival u s
  | .taskRecord u => Sys2Proof.Machine.execTaskRecord u s
  | .graphRootPush g => Sys2Proof.Machine.execGraphRootPush g s
  | .nodeReady d p => Sys2Proof.Machine.execNodeReady d p s
  | .nodeCompletion d p => Sys2Proof.Machine.execNodeCompletion d p s
  | .armedLineReread d vif => Sys2Proof.Machine.execArmedLineReread d vif s
  | .bankSwap core => Sys2Proof.Machine.execBankSwap core s
  | .sliceExpiry core bank => Sys2Proof.Machine.execSliceExpiry core bank s
  | .spillStart core bank => Sys2Proof.Machine.execSpillStart core bank s
  | .spillComplete core bank => Sys2Proof.Machine.execSpillComplete core bank s
  | .imageCopyOut core => Sys2Proof.Machine.execImageCopyOut core s
  | .imageCopyIn k core => Sys2Proof.Machine.execImageCopyIn k core s
  | .fill core bank => Sys2Proof.Machine.execFill core bank s
  | .contextEnd d asid => Sys2Proof.Machine.execContextEnd d asid s
  | .kill d asid => Sys2Proof.Machine.execKill d asid s
  | .audit d => Sys2Proof.Machine.execAudit d s
  | .migctlGo d asid v => Sys2Proof.Machine.execMigctlGo d asid v s
  | .tenantMoveComplete d asid => Sys2Proof.Machine.execTenantMoveComplete d asid s
  | .tenantMoveFailed d asid => Sys2Proof.Machine.execTenantMoveFailed d asid s
  | .packetReceive d plane seq room e2e => Sys2Proof.Machine.execPacketReceive d plane seq room e2e s
  | .acknowledgement d plane seq => Sys2Proof.Machine.execAcknowledgement d plane seq s
  | .negativeAcknowledgement d plane seq => Sys2Proof.Machine.execNegativeAcknowledgement d plane seq s
  | .linkRetrain d plane => Sys2Proof.Machine.execLinkRetrain d plane s
  | .peerUnreachable d q => Sys2Proof.Machine.execPeerUnreachable d q s
  | .mirrorUpdate n => Sys2Proof.Machine.execMirrorUpdate n s
  | .switchLoss d sw => Sys2Proof.Machine.execSwitchLoss d sw s
  | .dcAddExtent d p tenant base len => Sys2Proof.Machine.execDcAddExtent d p tenant base len s
  | .dcReleaseRequest d n => Sys2Proof.Machine.execDcReleaseRequest d n s
  | .dcReleaseResponse d n => Sys2Proof.Machine.execDcReleaseResponse d n s
  | .viralIndication d port => Sys2Proof.Machine.execViralIndication d port s
  | .cxlReset d port => Sys2Proof.Machine.execCxlReset d port s
  | .viralClear d port => Sys2Proof.Machine.execViralClear d port s
  | .lineclrGo d p v => Sys2Proof.Machine.execLineclrGo d p v s
  | .lineClearDone d p => Sys2Proof.Machine.execLineClearDone d p s
  | .throttleStepUp d power hot temp => Sys2Proof.Machine.execThrottleStepUp d power hot temp s
  | .throttleToFloor d power temp => Sys2Proof.Machine.execThrottleToFloor d power temp s
  | .throttleStepDown d temp => Sys2Proof.Machine.execThrottleStepDown d temp s
  | .clockChange d => Sys2Proof.Machine.execClockChange d s
  | .prepare d => Sys2Proof.Machine.execPrepare d s
  | .commit d => Sys2Proof.Machine.execCommit d s
  | .abort d => Sys2Proof.Machine.execAbort d s
  | .layoutApplied d => Sys2Proof.Machine.execLayoutApplied d s
  | .shadowWrite d off v => Sys2Proof.Machine.execShadowWrite d off v s
  | .watchdogReset d => Sys2Proof.Machine.execWatchdogReset d s
  | .powerOnReset d => Sys2Proof.Machine.execPowerOnReset d s
  | .recoveryImage d img => Sys2Proof.Machine.execRecoveryImage d img s
  | .getVersion d => Sys2Proof.Machine.execGetVersion d s
  | .getCapabilities d => Sys2Proof.Machine.execGetCapabilities d s
  | .negotiateAlgorithms d supported => Sys2Proof.Machine.execNegotiateAlgorithms d supported s
  | .getDigests d => Sys2Proof.Machine.execGetDigests d s
  | .getCertificate d slot => Sys2Proof.Machine.execGetCertificate d slot s
  | .challenge d nonce => Sys2Proof.Machine.execChallenge d nonce s
  | .getMeasurements d idx nonce => Sys2Proof.Machine.execGetMeasurements d idx nonce s
  | .keyExchange d pub => Sys2Proof.Machine.execKeyExchange d pub s
  | .finish d n proof => Sys2Proof.Machine.execFinish d n proof s
  | .keyUpdate d n => Sys2Proof.Machine.execKeyUpdate d n s
  | .heartbeat d n => Sys2Proof.Machine.execHeartbeat d n s
  | .endSession d n => Sys2Proof.Machine.execEndSession d n s
  | .sensorTrip d k => Sys2Proof.Machine.execSensorTrip d k s
  | .registerWrite d p sp off v => Sys2Proof.Machine.execRegisterWrite d p sp off v s
  | .backInvalidationCompletion line => Sys2Proof.Machine.execBackInvalidationCompletion line s
  | .invalidationAcknowledgement q line => Sys2Proof.Machine.execInvalidationAcknowledgement q line s
  | .invalidateRequest d line => Sys2Proof.Machine.execInvalidateRequest d line s
  | .peerAdmitted d q => Sys2Proof.Machine.execPeerAdmitted d q s
  | .switchReturn sw rows => Sys2Proof.Machine.execSwitchReturn sw rows s
  | .hostLinkTrained d port up => Sys2Proof.Machine.execHostLinkTrained d port up s
  | .armaddrWrite d vif v => Sys2Proof.Machine.execArmaddrWrite d vif v s
  | .ideKm d n stream key => Sys2Proof.Machine.execIdeKm d n stream key s

end Sys2Proof.Machine
end

