-- ==== Sys2Proof/Machine/Run.lean ====
section
/-! DEFINITION. Sys2Proof/Machine/Run.lean: what one step of the machine does: a pending input, the issue of one sub-group (R20,
R404), or one event that the machine brings about by itself. -/

namespace Sys2Proof.Machine
open Sys2Proof

/-! ### Issue -/

/-- A scalar source of the instruction is the destination of an instruction in which another sub-group of the copy
waits (R20, R99). -/
def scalarBusy (G : Group) (copy : Nat) (i : Instr) : Bool :=
  (ssrcs i).any fun r => r ≠ 0 && G.blocks.any fun (b : Nat × Block) => b.2.sdst = 64 * copy + r + 1

/-- Register words of lane l that a load which has not been made yet will write (R99). -/
def wordOpen (G : Group) (l : Nat) (r : VReg) : Bool :=
  G.pend.any fun (e : Nat × Pend) => !e.2.made && e.2.words.any fun w =>
    !w.dead && w.lane = l && decide (r.first ≤ w.reg) && decide (w.reg < r.first + r.cnt)
/-- The lanes whose vector destination an instruction that waits will write (R99, R208, R290). -/
def Block.destLanes (w : Nat) (b : Block) : List Nat :=
  match b.instr with
  | .qpop _ f => popLanes w (f.a ≠ 0#7) (BitVec.ofNat 64 ((b.data[0]?).getD 0))
  | i => if isMem i then (natsAcc b.data).map LaneAcc.lane else []
/-- Register words of lane l that an instruction in which another sub-group waits will write (R99, R135). -/
def wordAwaited (G : Group) (l : Nat) (r : VReg) : Bool :=
  G.blocks.any fun (b : Nat × Block) => (b.2.destLanes G.width).contains l && (regs b.2.instr).any fun x =>
    x.dst && decide (x.first < r.first + r.cnt) && decide (r.first < x.first + x.cnt)
/-- The lanes and registers that an instruction reads across lanes, or at registers that an index names (R105, R135 to
R137). -/
def crossReads (s : State) (i : Instr) : List (Nat × VReg) :=
  match i with
  | .vshf e f => (lanesOf s.g.width (activeMask e f.p s)).map fun l =>
    (shfLane s.g e.xo (bOp e f.b) l, vsrc f.a (tyWords (effTy i)))
  | .vbcast e f =>
    let m := activeMask e f.p s
    [(if e.xo = 1 then lowBit m else f.b.toNat, vsrc f.a (tyWords (effTy i)))]
  | .movix e f => (ixRegs s.g (f.a.toNat % 4) f.b (lanesOf s.g.width (activeMask e f.p s))).map fun (x : Nat × Nat) =>
    (x.1, ⟨x.2, 1, false, false⟩)
  | _ => []
/-- A source word of the instruction is not there yet (R20, R99). -/
def operandBusy (s : State) (i : Instr) : Bool :=
  let G := s.g
  ((lanesOf G.width s.cur.mask).any fun l => (srcRegs i).any (wordOpen G l))
    || ((crossReads s i).any fun x => wordOpen G x.1 x.2 || wordAwaited G x.1 x.2)
    || match i with
      | .winrd _ _ k _ _ => ((savedEntry G k.toNat).bind fun w => kget G.pend w.late).any fun p => !p.made
      | _ => false
/-- The instruction makes the group's older accesses perform before what it does itself (R248, R358): they must have been
made. -/
def ordersOlder : Instr → Bool
  | .bararr _ _ | .bararrN _ _ _ | .qpush _ _ => true
  | _ => false
/-- The instruction that is at hand would have to wait for something that no block of its own stands for (R229, R232, R270,
R330; log entry 132). -/
def mustWait (s : State) (i : Instr) : Bool :=
  let q := memReq i s
  let lanes := match q with | some q => q.acc.map LaneAcc.lane | none => lanesOf s.g.width s.cur.mask
  (consumed s.g lanes (srcRegs i)).isNone &&
    (q.any (fun q => q.untranslated s) || bankWaits i s || (match i with
      | .gather _ f | .scatter _ f => cbBusy s s.cur.grp (f.f.toNat % 8)
      | _ => false)
    || (ordersOlder i && (!s.g.defer.isEmpty || s.g.blocks.any fun (b : Nat × Block) => isMem b.2.instr)))
/-- The instruction may issue: its operands are there, and nothing holds it back (R18, R20). `s` has it at hand. -/
def mayIssue (s : State) (i : Instr) : Bool :=
  !scalarBusy s.g s.cid i && !operandBusy s i && !mustWait (landFor (srcRegs i) s) i
/-- The sub-group of lane l at the instruction that it would issue. -/
def atHand (s : State) (g l len : Nat) : State :=
  { s with cur := ⟨g, (s.grp g).subOf l, ((s.grp g).lane l).pc, len⟩ }
/-- What the sub-group of lane l would issue; none when it must not issue now (R20). -/
def offer (s : State) (g l : Nat) : Option (Nat × Nat × Fetched) :=
  let G := s.grp g
  let x := G.lane l
  if x.st = .running && x.blk = 0 && lowBit (G.subOf l) = l && handlerLane G l then
    match fetchAt s g x.pc with
    | .wait => none
    | .ok i k => if mayIssue (atHand s g l k) i then some (g, l, .ok i k) else none
    | f => some (g, l, f)
  else none
/-- The next sub-group of a group in R20's rotation, with what it would issue; none when no sub-group is ready or a trap
is due at the boundary (R387). -/
def nextOffer (s : State) (g : Nat) : Option (Nat × Nat × Fetched) :=
  let G := s.grp g
  if trapDue g s then none
  else ((List.range G.width).map fun j => (G.rr + j) % G.width).findSome? fun l => offer s g l

/-- A core issues: its active bank is ACTIVE, no swap waits (R382), no team of a unit with its teams is swapped out (R39,
R41), its context is not frozen for a move (R429), and the parameter blocks of its pushed matrix operations have been read (R276). -/
def issues (s : State) (core : Nat) : Bool :=
  let c := s.core core
  let b := c.bank c.act
  let k := s.cont b.cont
  b.st = .active && c.swap = none && unitRuns s b.cont && !frozen s k.d k.asid && !k.mq.any fun (e : Nat × MOp) => e.2.stage = .pushed
/-- Groups of a quadrant of the active bank (R27). -/
def quadGroups (s : State) (core q : Nat) : List Nat :=
  (s.groupsOf ((s.core core).bank (s.core core).act).cont).filter fun g => (s.grp g).slot % 4 = q
/-- A goes before B: the higher age, then the lower slot (R404). -/
def goesFirst (s : State) (a b : Nat) : Bool :=
  decide ((s.grp b).age < (s.grp a).age) || ((s.grp a).age = (s.grp b).age && decide ((s.grp a).slot < (s.grp b).slot))
/-- The offer of the ready group that goes first (R404). -/
def pickGroup (s : State) : List Nat → Option (Nat × Nat × Fetched)
  | [] => none
  | g :: t =>
    match nextOffer s g, pickGroup s t with
    | some x, some y => if goesFirst s y.1 g then some y else some x
    | some x, none => some x
    | none, y => y
/-- What a core issues next: one quadrant after another from quadrant `n`. -/
def pickCore (s : State) (n core : Nat) : Option (Nat × Nat × Fetched) :=
  if issues s core then (List.range 4).findSome? fun j => pickGroup s (quadGroups s core ((n + j) % 4)) else none
/-- A list, begun at element n modulo its length. -/
def rotate {α : Type} (n : Nat) (xs : List α) : List α := xs.drop (n % xs.length) ++ xs.take (n % xs.length)
/-- What the machine issues next: the cores take turns, and with each round of them the quadrants. -/
def pick (s : State) : Option (Nat × Nat × Fetched) :=
  (rotate (s.turn / 2) (s.cores.map Prod.fst)).findSome? fun core => pickCore s (s.turn / 2 / s.cores.length) core

/-- Ages after an issue of group g (R404): 0 for it, one more for every other group of the quadrant. -/
def ageQuad (g : Nat) (s : State) : State :=
  let core := s.coreOf g
  let up (s : State) (h : Nat) : State := s.modGrp h fun G => { G with age := if h = g then 0 else G.age + 1 }
  (quadGroups s core ((s.grp g).slot % 4)).foldl up s
/-- The instruction, or the fetch event, of an offer. -/
def Fetched.instr : Fetched → Instr
  | .ok i _ => i
  | .bad c _ => .illegalInstruction (illegalCode c)
  | .fail code va r t => .instructionFetchFault (BitVec.ofNat 8 code) (BitVec.ofNat 64 va) r t
  | .wait => .nop ⟨none, none⟩
/-- The length in bytes of what was fetched. -/
def Fetched.len : Fetched → Nat
  | .ok _ k | .bad _ k => k
  | _ => 0
/-- The sub-group takes its turn: the rotation goes on after it (R20), and the ages change (R404). -/
def takeTurn (g l len : Nat) (s : State) : State :=
  let G := s.grp g
  let s := ageQuad g s
  let s := s.modGrp g fun G => { G with rr := l + 1 }
  { s with cur := ⟨g, G.subOf l, (G.lane l).pc, len⟩ }
/-- The turn of a sub-group that issues an instruction: the counters of issued instructions and lanes count (R371). -/
def beginIssue (g l len : Nat) (s : State) : State :=
  let core := s.coreOf g
  takeTurn g l len ((s.perf core 0x02 1).perf core 0x04 (popcount ((s.grp g).subOf l)))
/-- How an issue begins: an instruction counts as issued, and an illegal one and a fetch that fails change no counter (R90). -/
def beginFetched (g l : Nat) (f : Fetched) (s : State) : State :=
  match f with
  | .ok _ k => beginIssue g l k s
  | f => takeTurn g l f.len s
/-- One issue: a marked word of the scalar file that the instruction reads traps before any effect (R431, R224). -/
def issueStep (x : Nat × Nat × Fetched) (s : State) : Out :=
  withMarks x.2.2.instr (exec x.2.2.instr) (beginFetched x.1 x.2.1 x.2.2 s)

/-! ### What happens by itself -/

/-- Something that can happen next: an event of the table, or a further try of a waiting instruction. Seven events stand
under names of their own: MIRROR_UPDATE, LINE_CLEAR_DONE, LAYOUT_APPLIED, DC_RELEASE_RESPONSE, INVALIDATE_REQUEST,
INVALIDATION_ACKNOWLEDGEMENT and BACK_INVALIDATION_COMPLETION. `held`: a group's accesses that have issued are made (R229);
`home`: a device of the machine sends a home the request for a line that it needs (R214). `bury`: what a content of an ended
context had started is complete (R395); `repost`: a fault that found no place is raised (R312). -/
inductive Cand where
  | ev (i : Instr)
  | retry (g b : Nat)
  | clear (d p : Nat)
  | layout (d : Nat)
  | release (d n : Nat)
  | inval (d line : Nat)
  | ack (q line : Nat)
  | host (line : Nat)
  | mirror (n : Nat)
  | held (g : Nat)
  | home (k : HKind) (q line : Nat)
  | bury (c : Nat)
  | repost (d p : Nat)
  deriving DecidableEq, Repr

/-- A waiting instruction tries again; nothing happens while it must still wait (R18, R20). -/
def retryBlock (g b : Nat) (s : State) : Option State :=
  match kget (s.grp g).blocks b with
  | none => none
  | some x =>
    if !atBoundary s g then none
    else
      match exec x.instr (atBlock g b s) with
      | .next t => if kget (t.grp g).blocks b = some x then none else some { t with cur := s.cur }
      | _ => none
/-- The next state of an outcome, if it is one. -/
def nextOf : Out → Option State
  | .next t => some t
  | _ => none
/-- The accesses of a group are made as far as they can be, if one can (R229, R230). -/
def heldGo (g : Nat) (s : State) : Option State :=
  if ((s.grp g).defer.head?).any fun h => heldFree g h s then some (settleGroup g s) else none
/-- A device's request reaches a home that it changes (R213, R214). -/
def homeGo (k : HKind) (q line : Nat) (s : State) : Option State :=
  let t := homeRequest k q line s
  if t.home = s.home && t.tags = s.tags then none else some t
/-- A content of an ended context goes when what it had started is complete (R395). -/
def buryGo (c : Nat) (s : State) : Option State :=
  if (s.cont c).over && contQuiet s c then some (dropCont s c) else none
/-- Faults that wait unposted are raised when their ring has room (R312). -/
def repostGo (d p : Nat) (s : State) : Option State :=
  let t := repostAll d p s
  if t.groups = s.groups && t.cmds = s.cmds then none else some t
/-- What a candidate leads to; none when it cannot happen now. -/
def Cand.run (s : State) : Cand → Option State
  | .ev i => nextOf (exec i s)
  | .retry g b => retryBlock g b s
  | .clear d p => nextOf (execLineClearDone d p s)
  | .layout d => nextOf (execLayoutApplied d s)
  | .release d n => nextOf (execDcReleaseResponse d n s)
  | .inval d line => nextOf (execInvalidateRequest d line s)
  | .ack q line => nextOf (execInvalidationAcknowledgement q line s)
  | .mirror n => nextOf (execMirrorUpdate n s)
  | .host line => nextOf (execBackInvalidationCompletion line s)
  | .held g => heldGo g s
  | .home k q line => homeGo k q line s
  | .bury c => buryGo c s
  | .repost d p => repostGo d p s

/-! ### Requests that the devices' own accesses need (R214) -/

/-- An access that an engine is about to make: permission, space, address and bytes. -/
abbrev Ask := Nat × Nat × Nat × Nat
/-- The request that an engine's access needs. -/
def askOf (s : State) (pt : Party) (x : Ask) : Option (HKind × Nat × Nat) :=
  engWant s pt x.1 (engChk s pt x.1 x.2.1 x.2.2.1 x.2.2.2)
/-- The reads of a command block at a pushed value: its first 64 bytes, and all of it once they can be read (R297). -/
def blockAsks (s : State) (pt : Party) (K : Option Core) (v : Dword) : List Ask :=
  let n := match readBlk s pt K (valSp v) (valAddr v) 64 with
    | .ok ws => blockLen ((ws[0]?).getD 0#64) ((ws[3]?).getD 0#64)
    | _ => 64
  [(1, valSp v, valAddr v, n)]
/-- The reads of a task packet (R308). -/
def taskAsks (s : State) (pt : Party) (K : Option Core) (v : Dword) : List Ask :=
  let n := match readBlk s pt K (valSp v) (valAddr v) 8 with
    | .ok ws => 128 + bf ((ws[0]?).getD 0#64) 47 35
    | _ => 8
  [(1, valSp v, valAddr v, n)]
/-- The reads that a group's queue heads need (R287, R296, R308, R311). -/
def groupAsks (s : State) (g : Nat) (G : Group) : List Ask :=
  let pt := partyOf s g
  let K := grpCore s g
  (G.q2.head?.toList ++ G.q6.head?.toList).flatMap (fun p => blockAsks s pt K p.val)
    ++ G.q4.head?.toList.flatMap (fun p => taskAsks s pt K p.val)
    ++ G.q7.head?.toList.map fun e => (1, 0, valAddr e.val, 64)
/-- What a graph node that is at its turn, or that completes, reads and writes (R346 to R349). -/
def nodeAsks (s : State) (n : GNode) : List Ask :=
  let a := n.addr.toNat
  let own : List Ask := [(1, 0, a, 64), (6, 0, a + 2, 1)]
  match readOwn s n with
  | .ok ws =>
    let err : List Ask := if nw ws 3 = 0#64 then [] else [(6, 0, (nw ws 3).toNat, 8)]
    let succ : List Ask :=
      if bf (nw ws 2) 47 32 = 0 then [] else
      (1, 0, (nw ws 1).toNat, 8 * bf (nw ws 2) 47 32) ::
        (match readBlk s n.party none 0 (nw ws 1).toNat (8 * bf (nw ws 2) 47 32) with
          | .ok xs => xs.flatMap fun (x : Dword) => [(1, 0, x.toNat, 64), (6, 0, x.toNat, 8)]
          | _ => [])
    let body : List Ask := match bf (nw ws 0) 3 0 with
      | 3 => [(if (nw ws 6).getLsbD 0 then 7 else 6, 0, (nw ws 4).toNat, 8)]
      | 4 => [(1, 0, (nw ws 4).toNat, 8)]
      | 5 => [(1, 0, (nw ws 4).toNat, 64)]
      | _ => []
    own ++ err ++ succ ++ body
  | _ => own
/-- What an armed line's stitcher reads and writes (R350). -/
def armAsks (s : State) (d vif : Nat) : List (Party × Ask) :=
  let v := (s.dev d).vifOf vif
  if !v.en || v.arm = 0#64 || v.held then []
  else match vifAsid s d vif with
    | none => []
    | some a =>
      let pt : Party := ⟨d, (s.dev d).asidPart a, a, 0⟩
      let sub : List (Party × Ask) := match armedRead s d vif with
        | some (_, ws) => if nw ws 0 = 0#64 then [] else [(pt, 1, 0, (nw ws 0).toNat, 64), (pt, 6, 0, v.arm.toNat, 16)]
        | none => []
      (pt, 1, 0, v.arm.toNat, 16) :: sub
/-- What a command that is still to be read, sent or answered accesses (R297, R308 to R310). -/
def cmdAsks (s : State) (u : Nat) (c : Cmd) : List (Party × Ask) :=
  if c.src = 4 then
    if c.stage = .queued then (taskAsks s c.party none c.val).map fun x => (c.party, x)
    else match taskAt s c with
      | .launch p a _ => [(⟨c.target, p, a, 0⟩, 6, 0, taskPlace u, c.alen)]
      | .status _ _ => []
  else if c.stage = .queued then (blockAsks s c.party none c.val).map fun x => (c.party, x)
  else []
/-- What a launch reads: its descriptor, and a task's returned doubleword (R97, R310). -/
def launchAsks (L : Launch) : List Ask :=
  if L.desc.rg = 0 then [(1, 0, L.daddr.toNat, 64)]
  else if L.task.isSome then [(1, 0, L.args.toNat, 8)] else []
/-- Every request that the accesses of the machine need next (R214). -/
def homeWants (s : State) : List (HKind × Nat × Nat) :=
  s.groups.flatMap (fun (e : Nat × Group) =>
      (e.2.defer.head?.bind fun h => heldWant e.1 h s).toList ++ (groupAsks s e.1 e.2).filterMap (askOf s (partyOf s e.1)))
    ++ s.cores.flatMap (fun (e : Nat × Core) => e.2.wp.filterMap (lineWant s e.1) ++ (drainWant s e.1).toList)
    ++ s.conts.flatMap (fun (e : Nat × Cont) => (unreadHead e.2).toList.flatMap fun (x : Nat × MOp) =>
      (blockAsks s (x.2.party s) (grpCore s x.2.grp) x.2.val).filterMap (askOf s (x.2.party s)))
    ++ s.cmds.flatMap (fun (e : Nat × Cmd) =>
      (cmdWant s e.2).toList ++ (cmdAsks s e.1 e.2).filterMap fun (x : Party × Ask) => askOf s x.1 x.2)
    ++ s.nodes.flatMap (fun (e : Nat × GNode) => (nodeAsks s e.2).filterMap (askOf s e.2.party))
    ++ s.launches.flatMap (fun (e : Nat × Launch) =>
      (launchAsks e.2).filterMap (askOf s ⟨e.2.d, e.2.p, e.2.asid, 0⟩))
    ++ s.devs.flatMap fun (e : Nat × Dev) => e.2.vif.flatMap fun (x : Nat × Vif) =>
      (armAsks s e.1 x.1).filterMap fun (y : Party × Ask) => askOf s y.1 y.2

/-- Candidates of a group. -/
def candGroup (g : Nat) (G : Group) : List Cand :=
  (if G.defer.isEmpty then [] else [.held g]) ++
  [.ev (.trapEntry g), .ev (.groupRetirement g), .ev (.graphRootPush g), .ev (.commandBlockRead g 2),
   .ev (.commandBlockRead g 6), .ev (.taskPacketSend g)]
    ++ G.pend.map (fun (e : Nat × Pend) => Cand.ev (.loadDataReturn g e.1))
    ++ G.blocks.flatMap fun (e : Nat × Block) =>
      match e.2.instr with
      | .wait _ _ _ _ _ => [Cand.ev (.waitCompletion g e.1)]
      | .sleep _ _ => [Cand.ev (.sleepTimeout g e.1)]
      | .qpush _ _ => [Cand.ev (.queueRoomFreed g e.1)]
      | .qpop _ _ => [Cand.ev (.queueEntriesArrive g e.1)]
      | _ => [Cand.retry g e.1]
/-- A partition whose spills start by themselves: one with a trump class (R403). -/
def spills (s : State) (k b : Nat) : Bool :=
  let c := s.cont ((s.core k).bank b).cont
  ((s.core k).bank b).cont ≠ 0 && (s.dev c.d).trump c.p
/-- Candidates of a core. -/
def candCore (k : Nat) (c : Core) : List Cand :=
  c.wp.map (fun w => Cand.ev (.storePerformed k w.seq))
    ++ [.ev (.bankSwap k), .ev (.matrixOperationStart k), .ev (.matrixProducts k), .ev (.drain k)]
    ++ [.ev (.spillComplete k 0), .ev (.spillComplete k 1), .ev (.imageCopyOut k), .ev (.fill k 0), .ev (.fill k 1)]
/-- Candidates of a bank content. -/
def candCont (s : State) (k : Nat) (c : Cont) : List Cand :=
  (if c.over then [.bury k] else []) ++ .ev (.matrixBlockRead k) :: c.mq.map (fun (e : Nat × MOp) => Cand.ev (.matrixCompletion e.2.core e.1)) ++ (match c.loc with
    | .slot _ => (s.coresOf c.d c.p).map fun core => Cand.ev (.imageCopyIn k core)
    | _ => [])
/-- Candidates of an engine command. -/
def candCmd (u : Nat) (c : Cmd) : List Cand :=
  [.ev (.commandBlockRead u 0), .ev (.taskPacketSend u), .ev (.copy u 64), .ev (.read u), .ev (.write u),
   .ev (.commandAtom u), .ev (.commandCas u), .ev (.reduce u 64), .ev (.kalloc u), .ev (.kfree u), .ev (.signal u),
   .ev (.taskPacketArrival u), .ev (.taskRecord u)]
    ++ c.spans.map (fun (e : Nat × Span) => Cand.ev (.spanTagCheck u e.1 true))
    ++ [.ev (.commandCompletion u)]
/-- Candidates of a partition. -/
def candPart (d p : Nat) (q : Part) : List Cand :=
  [.ev (.nodeReady d p), .ev (.nodeCompletion d p), .ev (.teamPlacement d p), .ev (.xinvComplete d p),
   .ev (.xwinvComplete d p), .clear d p, .repost d p]
    ++ (if q.mig.isEmpty then [] else (List.range 16).map fun n => Cand.ev (.migrationLineMove d p n))
/-- Candidates of a device. -/
def candDev (d : Nat) (v : Dev) : List Cand :=
  v.vif.map (fun (e : Nat × Vif) => Cand.ev (.armedLineReread d e.1))
    ++ [.layout d]
    ++ v.dc.map (fun (e : Nat × Extent) => Cand.release d e.1)
    ++ v.atsInv.map (fun (e : Nat × (Nat × Nat × Nat)) => Cand.ev (.atsInvalidationCompletion d e.1))
    ++ v.ctx.flatMap fun (e : Nat × Ctx) => [Cand.ev (.tenantMoveComplete d e.1), Cand.ev (.tenantMoveFailed d e.1)]
/-- Candidates of a home's in-flight table: the invalidates that devices of the machine have not yet received, and their
acknowledgements (R214), and the host's completion (R215). -/
def candHome (s : State) (line : Nat) (h : HReq) : List Cand :=
  (h.acks.filter fun q => (kget s.devs q).isSome).map (fun q =>
    if h.inv.contains q then Cand.inval q line else Cand.ack q line)
    ++ (if h.bi then [Cand.host line] else [])
/-- The DRAM fetches that pending requests of a group need (R210). -/
def candFetch (s : State) (g : Nat) (G : Group) : List Cand :=
  (pendingLines s g G).filterMap fun (x : Nat × Nat × Nat) =>
    let want := pendingWant s x.1 x.2.1 x.2.2
    let lack := (s.part x.1 x.2.1).mscLack x.2.2 want &&& ~~~((kget (s.part x.1 x.2.1).fetch x.2.2).getD 0#8)
    if lack = 0#8 then none
    else some (.ev (.mscMissFetch x.1 x.2.1 x.2.2 (((fetchDone x.1 x.2.1 x.2.2 s).part x.1 x.2.1).mscLack x.2.2 want)))
/-- Sweeps end last: until then a bump of the class waits (R252). -/
def candSweeps (s : State) : List Cand :=
  s.cores.map (fun (e : Nat × Core) => Cand.ev (.editionSweepEnd 0 e.1))
    ++ s.parts.flatMap fun (e : Nat × Part) => [Cand.ev (.editionSweepEnd 1 e.1), Cand.ev (.editionSweepEnd 2 e.1)]
/-- Contexts whose KILL is set end first (R396). -/
def candKills (s : State) : List Cand :=
  s.devs.flatMap fun (e : Nat × Dev) => e.2.ctx.map fun (x : Nat × Ctx) => Cand.ev (.contextEnd e.1 x.1)
/-- In a partition with a trump class a bank is spilled as soon as it is INACTIVE and the store is free (R375, R403). -/
def candSpills (s : State) : List Cand :=
  s.cores.flatMap fun (e : Nat × Core) => ((List.range 2).filter (spills s e.1)).map fun b => Cand.ev (.spillStart e.1 b)
/-- Everything that may happen by itself, begun at another place from turn to turn. -/
def cands (s : State) : List Cand :=
  let all := s.groups.flatMap (fun (e : Nat × Group) => candGroup e.1 e.2 ++ candFetch s e.1 e.2)
    ++ s.cores.flatMap (fun (e : Nat × Core) => candCore e.1 e.2)
    ++ s.conts.flatMap (fun (e : Nat × Cont) => candCont s e.1 e.2)
    ++ s.cmds.flatMap (fun (e : Nat × Cmd) => candCmd e.1 e.2)
    ++ s.parts.flatMap (fun (e : Nat × Part) => candPart (e.1 / 16) (e.1 % 16) e.2)
    ++ (List.range s.mlog.length).map (fun n => Cand.mirror n)
    ++ (List.range s.credits.length).map (fun n => Cand.ev (.byteCredit n))
    ++ s.home.flatMap (fun (e : Nat × HReq) => candHome s e.1 e.2)
    ++ (homeWants s).map (fun (x : HKind × Nat × Nat) => Cand.home x.1 x.2.1 x.2.2)
    ++ s.devs.flatMap (fun (e : Nat × Dev) => candDev e.1 e.2)
  candKills s ++ candSpills s ++ rotate (s.turn / 2) all ++ candSweeps s
/-- The first candidate that can happen. -/
def firstCand (s : State) : List Cand → Option State
  | [] => none
  | c :: t => match c.run s with | some u => some u | none => firstCand s t

/-! ### A step -/

/-- The names of the events, as opposed to the instructions that a fetch brings: those are the constructors that no
word encodes. -/
def isEvent (i : Instr) : Bool := (encodeWord i).isNone && (encodeShort i).isNone

/-- Events that count cycles, or gangs: what they add in a step is free (R371). -/
def cycleEvent (e : Nat) : Bool := [0x01, 0x03, 0x05, 0x06, 0x09, 0x0A, 0x0B].contains e
/-- Performance counter k of a core counts the cycles of a step (R370, R371); the amount is free. -/
def countCycles (n key : Nat) (c : Core) (k : Nat) : Core :=
  let w := rget c.pmctl k
  if w.getLsbD 63 && cycleEvent (bf w 7 0) && bf w 9 8 ≠ 3 then
    let v := (rget c.pmcnt k).toNat + (Config.cycleEvents n key k).toNat
    { c with
      pmcnt := kput c.pmcnt k (BitVec.ofNat 64 (v % 2 ^ 48))
      pmctl := if 2 ^ 48 ≤ v then kput c.pmctl k (w ||| (1#64 <<< 62)) else c.pmctl }
  else c
/-- REMAIN of the active bank counts down by a free amount (R369); that it reaches 0 is the event SLICE_EXPIRY. -/
def sliceCounts (n key : Nat) (c : Core) : Core :=
  let w := rget c.ts c.act
  let r := bf w 31 0
  if 1 < r then
    { c with ts := kput c.ts c.act (w - BitVec.ofNat 64 (min (r - 1) (Config.sliceCycles n key).toNat)) }
  else c
/-- The cycles of a step pass for a core. -/
def cyclesPass (n : Nat) (x : Nat × Core) : Nat × Core :=
  (x.1, sliceCounts n x.1 (if x.2.pmctl.isEmpty then x.2 else (List.range 8).foldl (countCycles n x.1) x.2))
/-- Time passes (R187), and the use of free values is counted. -/
def tick (s : State) : State :=
  { s with
    time := s.time + (Config.elapsed s.free).zeroExtend 64
    free := s.free + 1
    turn := s.turn + 1
    cores := s.cores.map (cyclesPass s.free) }

/-- The oldest pending input, when it can happen now: it leaves the list. -/
def inputStep (s : State) : Option State :=
  match s.agenda with
  | [] => none
  | i :: t =>
    if isEvent i then nextOf (exec i { s with agenda := t }) else none
/-- An issue, when some sub-group is ready. -/
def issueNow (s : State) : Option Out := (pick s).map fun x => issueStep x s
/-- An event of the machine's own, when one can happen. -/
def eventNow (s : State) : Option Out := (firstCand s (cands s)).map fun t => .next t
/-- Nothing can happen: an input that cannot happen in this state is dropped, and time passes. -/
def idle (s : State) : Out := .next { s with agenda := s.agenda.drop 1 }

/-- One step: an input that can happen goes first; issues and events take turns. -/
def stepOnce (s : State) : Out :=
  let t := tick s
  match inputStep t with
  | some u => .next u
  | none =>
    if s.turn % 2 = 0 then ((issueNow t).orElse fun _ => eventNow t).getD (idle t)
    else ((eventNow t).orElse fun _ => issueNow t).getD (idle t)

end Sys2Proof.Machine
end

