-- ==== Sys2Proof/Machine/Program.lean ====
section
/-! DEFINITION. Sys2Proof/Machine/Program.lean: a machine that stands before the first instruction of a kernel: one partition of one
core, one address space, one team of one 64-lane group. It stands for the boot, the layout, the tables and the launch
that bring a program to run (log entry 15). -/

namespace Sys2Proof.Machine
open Sys2Proof

/-- The entry address of the kernel, which its address space maps to the same local offset. -/
def firstPc : Nat := 0x400000
/-- Partition rows of the layout: partition 0 with one L2 slice, virtual interface 0, one channel, one MSC bandwidth
unit, energy budget 64, a 1 × 1 mesh, and its fault ring at 512 MiB (R342). -/
def firstRows : KV Dword :=
  [(0, 1#64), (2, 1#64), (3, BitVec.ofNat 64 (2 ^ 46 + 2 ^ 27 + 64 * 2 ^ 20 + 1)), (4, 0x20000000#64)]
/-- Device 0 after boot: physical core 0 is logical core 0 of partition 0, ASID 1 is valid (R314, R342). -/
def firstDev : Dev :=
  { Dev.reset with
    bootDone := true
    layA := ⟨[(0, 0x8000#16)], firstRows⟩
    layB := ⟨[(0, 0x8000#16)], firstRows⟩
    asid := [(4, 0x100001#64)]
    planes := BitVec.ofNat 64 (2 ^ 64 - 1) }
/-- The page of the kernel: readable, writable and executable, of kind 2 and device scope (R321, R334). -/
def firstTlb : Tlb :=
  { asid := 1, glb := false, vbase := firstPc, size := 2 ^ 21, pbase := firstPc, xwr := 7#3, kind := 2, scope := 3 }
/-- Its descriptor (R97): 128 registers, 64 lanes, one group, `.gridsync`. -/
def firstDesc : Desc :=
  { entry := BitVec.ofNat 57 firstPc, codesz := 2 ^ 20, gs := true, bo := 4, ls := 0, sc := 0, ec := 0, rg := 16,
    clh := 1, clw := 1, tg := 1, gw := 3 }
/-- The launch. -/
def firstLaunch : Launch :=
  { blankLaunch with asid := 1, desc := firstDesc, nteams := 1, placed := 1 }
/-- A lane at the entry (R13, R14). -/
def firstLane (pc : Nat) : Lane := ⟨BitVec.ofNat 57 pc, BitVec.ofNat 64 (2 ^ 64 - 1), .running, 0, 0⟩
/-- A handler frame of a SOFT-TRAP of every lane, for an instruction that only a handler may issue (R90, R192). -/
def firstFrame : Frame :=
  { cause := 0x40, tlanes := BitVec.ofNat 64 (2 ^ 64 - 1), tva := 0, treta := BitVec.ofNat 57 (firstPc + 12), tdest := 0,
    sub := BitVec.ofNat 64 (2 ^ 64 - 1), next := BitVec.ofNat 57 (firstPc + 12), decoded := true, retire := false,
    at_ := BitVec.ofNat 57 firstPc, held := false, win := [], past := [], count := 0 }
/-- The group, of team t. -/
def firstGroup (t : Nat) (handler : Bool) : Group :=
  { blankGroup with
    team := t
    width := 64
    nregs := 128
    lanes := (List.range 64).map fun l => (l, firstLane firstPc)
    frame := if handler then some firstFrame else none }
/-- The bytes of a program, at a key. -/
def putBytes (m : Mem) (k : Nat) : List Byte → Mem
  | [] => m
  | b :: t => putBytes (memSet m k b) (k + 1) t
/-- The instruction decodes only in a handler (R90). -/
def handlerOnly (nbits w : Nat) : Bool :=
  match decode ⟨128, 64, true, false⟩ (halvesOf (w % 2 ^ nbits) 6) with
  | .bad .notHandler _ => true
  | _ => false
/-- The machine before the first instruction, whose bytes are `bs`. Identities are taken from s.uid on: content, launch,
team, group. Home memory elsewhere stays as it is. -/
def firstFetch (s : State) (bs : List Byte) (handler : Bool) : State :=
  let u := s.uid
  let k := gk 0 0 0 firstPc
  { s with
    agenda := []
    turn := 0
    uid := u + 4
    mem := putBytes s.mem k bs
    psn := kdel s.psn (k / 32)
    tags := kdel s.tags (k / 256)
    devs := kput s.devs 0 firstDev
    parts := kput s.parts 0 { Part.reset with tlb := [firstTlb] }
    cores := [(0, { Core.reset with b0 := ⟨.active, u⟩ })]
    conts := [(u, { blankCont with asid := 1, loc := .bank 0 0, teams := [u + 2] })]
    launches := [(u + 1, firstLaunch)]
    teams := [(u + 2, { blankTeam with cont := u, launch := u + 1, groups := [u + 3] })]
    groups := [(u + 3, firstGroup (u + 2) handler)] }
/-- The bytes of the table's word, of `nbits` bits and zeros above: the longest instruction has 12 bytes (R86). -/
def fetchWord (s : State) (nbits w : Nat) : State := firstFetch s (leBytes (w % 2 ^ nbits) 12) (handlerOnly nbits w)

end Sys2Proof.Machine
end

