-- ==== Sys2Proof/Machine/Step.lean ====
section
/-! DEFINITION. Sys2Proof/Machine/Step.lean: one step of the machine, and a machine whose next step runs a given word. -/

namespace Sys2Proof.Machine
open Sys2Proof

/-- One step: a pending input, one issue of one sub-group, or one event (R18, R20, R404). -/
def step (s : State) : Host.Outcome State Fault Refusal := stepOnce s

/-- The machine whose next step issues the instruction of a table word: a kernel stands loaded and placed, and its first
instruction is that word (log entry 15). -/
def State.withFetchWord (s : State) (nbits w : Nat) : State := fetchWord s nbits w

end Sys2Proof.Machine
end

