-- ==== Sys2Proof/Safety.lean ====
section
/-! DEFINITION. Sys2Proof/Safety.lean: what counts as a safe state, and the words in which claims say what an instruction that
completes does and leaves alone. -/

namespace Sys2Proof
open Sys2Proof.Machine

/-- The byte memory has its canonical form. -/
def Safe (s : Machine.State) : Prop := Machine.Memory.wf s.mem = true

/-- A pending load without the notes that a younger write overtook a word (R99). -/
def revive (p : Pend) : Pend := { p with words := p.words.map fun w => { w with dead := false } }
/-- A waiting instruction without the note that its scalar destination was overtaken (R99). -/
def unclaim (b : Block) : Block := { b with sdst := 0 }

/-- Group H is group G after an instruction completed: the queues, the counters, the special registers, the frame, the
index registers, the records and every other field are as they were. Left open are the vector bank with its marks, the
flags that accumulate, the scalar copies, the lanes, the window and the entries behind it, of which a claim says more. -/
def OnlyResults (G H : Group) : Prop :=
  { H with v := G.v, pz := G.pz, lanes := G.lanes, copies := G.copies, win := G.win, count := G.count,
           past := G.past, aflags := G.aflags, pend := G.pend, blocks := G.blocks } = G ∧
  H.pend.map (fun e => (e.1, revive e.2)) = G.pend.map (fun e => (e.1, revive e.2)) ∧
  H.blocks.map (fun e => (e.1, unclaim e.2)) = G.blocks.map (fun e => (e.1, unclaim e.2))

/-- The scalar copies are those of `base`, but for copies that no lane uses and that are discarded (R23). -/
def CopiesAre (base : KV SCopy) (H : Group) : Prop :=
  ∀ c, kget H.copies c = kget base c ∨ kget H.copies c = none

/-- Every lane keeps its meeting address; the lanes of the mask go to address `a`, the others stay (R11, R14). -/
def LanesGo (m : Dword) (a : BitVec 57) (G H : Group) : Prop :=
  ∀ l, (kget H.lanes l).map (fun x => (x.meet, x.pc)) =
    (kget G.lanes l).map (fun x => (x.meet, if m.getLsbD l then a else x.pc))

/-- State t differs from state s in the issuing group only; all of memory is as it was. -/
def OnlyGroup (s t : State) : Prop :=
  { t with groups := s.groups } = s ∧ ∀ g, g ≠ s.cur.grp → kget t.groups g = kget s.groups g

/-- From s to t one instruction of the issuing sub-group completed (R20, R107, R108): it took a place in the window and
counted, its lanes stand at `a`, and nothing changed but its results. -/
def Flow (s t : State) (base : KV SCopy) (a : BitVec 57) : Prop :=
  OnlyGroup s t ∧ OnlyResults s.g t.g ∧ CopiesAre base t.g ∧ LanesGo s.cur.mask a s.g t.g ∧
  t.g.count = s.g.count + 1 ∧ t.g.win.tail = s.g.win.take 7

/-- Vector registers of the bank that are not written keep their words and marks; those written with W = 0 lose their
mark (R224). `wb`: the instruction writes the window only (R107). -/
def BankKept (wb : Bool) (s t : State) (dst : Nat → Nat → Prop) : Prop :=
  (∀ l r, r < 128 → wb = true ∨ ¬dst l r →
    rget t.g.v (vk l r) = rget s.g.v (vk l r) ∧ kget t.g.pz (vk l r) = kget s.g.pz (vk l r)) ∧
  (∀ l r, r < 128 → wb = false → dst l r → kget t.g.pz (vk l r) = none)

/-- The issuing sub-group can complete an instruction: its group exists and it does not wait in an instruction. -/
def CanIssue (s : State) : Prop := (kget s.groups s.cur.grp).isSome = true ∧ waiting s = none

/-- A lane-wise vector instruction completes (R99, R107, R120, R141, R224): when the older loads of its sources have
landed and no source word is marked, each active lane's registers d to d + n - 1 read the words of its result, the flags
accumulate, and nothing else changes. The result `h` may look at the state of the issue; landing changes no scalar or
predicate register. -/
def LaneWiseAt (i : Instr) (e : Pfx) (p : BitVec 2) (d : BitVec 7) (n : Nat) (h : State → Group → Nat → Nat × Flags) :
    Prop :=
  ∀ s : State,
    let s' := landFor (srcRegs i) s
    let ls := lanesOf s'.g.width (activeMask e p s)
    CanIssue s' → d.toNat + n ≤ 128 → consumed s'.g ls (srcRegs i) = none →
    ∃ t, exec i s = .next t ∧ Flow s' t s'.g.copies s'.nextPc ∧
      (∀ l ∈ ls, ∀ j < n, t.g.rdV l (d.toNat + j) = BitVec.ofNat 32 ((h s s'.g l).1 / 2 ^ (32 * j))) ∧
      BankKept (wBit i) s' t (fun l r => l ∈ ls ∧ d.toNat ≤ r ∧ r < d.toNat + n) ∧
      t.g.aflags = s'.g.aflags ||| orFlags (ls.map fun l => (h s s'.g l).2)
/-- The same for a result that looks at the group only. -/
def LaneWise (i : Instr) (e : Pfx) (p : BitVec 2) (d : BitVec 7) (n : Nat) (f : Group → Nat → Nat × Flags) : Prop :=
  LaneWiseAt i e p d n fun _ => f

/-- A scalar copy after the results of an instruction (R165, R100, R166): with W = 1 the scalar registers keep their
values, s0 and p0 are not written, and predicate bits above the width read zero. -/
def copyAfter (wb : Bool) (full : Dword) (C : SCopy) (r : Res) : SCopy :=
  { s := if wb then C.s else r.sws.foldl (fun m w => if w.1 = 0 then m else kput m w.1 w.2) C.s
    cc := r.cc.getD C.cc
    p := r.pws.foldl (fun m w => if w.1 = 0 then m else kput m w.1 (w.2 &&& full)) C.p }

/-- From s to t instruction i completed with results r, and its sub-group stands at `a` (R107): the next instruction reads
the new values, and nothing else changed. -/
def Wrote (i : Instr) (s t : State) (r : Res) (a : BitVec 57) : Prop :=
  Flow s t (kput s.g.copies s.cid (copyAfter (wBit i) s.g.full (s.g.copyOf s.cid) r)) a ∧
  ((∀ w ∈ r.vws, w.2.1 < 128) →
    BankKept (wBit i) s t (fun l q => ∃ x, (l, q, x) ∈ r.vws) ∧
    ∀ l q x, (l, q, x) ∈ r.vws → (∀ y, (l, q, y) ∈ r.vws → y = x) → t.g.rdV l q = x) ∧
  (∀ k x, r.sws = [(k, x)] → k ≠ 0 → (kget t.g.copies s.cid).isSome = true → t.g.rdS (lowBit s.cur.mask) s.cid k = x) ∧
  t.g.aflags = s.g.aflags ||| r.fl

/-- An instruction of scalar and predicate registers completes with the results that its rule gives. -/
def Simple (i : Instr) (r : State → Res) : Prop :=
  ∀ s : State, CanIssue s → ∃ t, exec i s = .next t ∧ Wrote i s t (r s) s.nextPc

/-- An instruction that reads vector registers completes with the results that its rule gives, when the older loads of its
sources have landed (R99) and no source word of an active lane is marked (R224). -/
def Results (i : Instr) (lanes : State → Dword) (r : State → Res) : Prop :=
  ∀ s : State, CanIssue (landFor (srcRegs i) s) →
    consumed (landFor (srcRegs i) s).g (lanesOf (landFor (srcRegs i) s).g.width (lanes s)) (srcRegs i) = none →
    ∃ t, exec i s = .next t ∧
      Wrote i (landFor (srcRegs i) s) t (r (landFor (srcRegs i) s)) (landFor (srcRegs i) s).nextPc

/-- An instruction that reads words of other lanes completes with the results that its rule gives, when the older loads of
its sources have landed (R99) and no word it reads is marked (R135). -/
def Across (i : Instr) (rds : State → List (Nat × Nat × Nat × Nat)) (r : State → Res) : Prop :=
  ∀ s : State, CanIssue (landFor (regs i) s) →
    (∀ x ∈ rds (landFor (regs i) s), ∀ j < x.2.2.2, (landFor (regs i) s).g.markOf x.2.1 (x.2.2.1 + j) = 0) →
    ∃ t, exec i s = .next t ∧
      Wrote i (landFor (regs i) s) t (r (landFor (regs i) s)) (landFor (regs i) s).nextPc

/-- A control transfer completes (R174, R175): the sub-group stands at the target, when the target lies in the code range. -/
def Goes (i : Instr) (takes : State → Prop) (tgt : State → Nat) (r : State → Res) : Prop :=
  ∀ s : State, CanIssue s → takes s → inCode s s.cur.grp (tgt s) 2 = true →
    ∃ t, exec i s = .next t ∧ Wrote i s t (r s) (BitVec.ofNat 57 (tgt s))

/-! ### Memory instructions -/

/-- Accesses with the outcome of their checks (R223). -/
def checked (s : State) (sp n perm : Nat) (al : Bool) (acc : List LaneAcc) : List (LaneAcc × LaneR) :=
  acc.map fun a => (a, laneChk s s.cur.grp sp n perm al a)

/-- Counter k has room (R352), and no lane of the accesses fails or must wait for its translation (R223, R330). -/
def Clear (k sp n perm : Nat) (al : Bool) (acc : List LaneAcc) (s : State) : Prop :=
  (s.g.ocOf k).value < 255 ∧
  ∀ x ∈ checked s sp n perm al acc, (∃ ps, x.2 = .global ps) ∨ ∃ ks, x.2 = .keys ks

/-- From s to t a memory instruction of the issuing sub-group issued and its sub-group went on (R20, R230, R353): it
entered counter k and took a place in the window and in the count. No byte of memory changed, no cache and no write path;
nor did a register, a queue, a record or anything of another group. Left open are what the accesses of the group still to
be made are, its operations in flight, a watchpoint's report and the events that performance counters count, of which a
claim says more. -/
def Accessed (k : Nat) (s t : State) : Prop :=
  { t with groups := s.groups, cores := s.cores, uid := s.uid } = s ∧
  (∀ h, h ≠ s.cur.grp → kget t.groups h = kget s.groups h) ∧
  (∀ c, { t.core c with pmctl := (s.core c).pmctl, pmcnt := (s.core c).pmcnt } = s.core c) ∧
  { t.g with lanes := s.g.lanes, copies := s.g.copies, win := s.g.win, past := s.g.past, count := s.g.count,
             oc := s.g.oc, pend := s.g.pend, defer := s.g.defer, scat := s.g.scat, watchRep := s.g.watchRep } = s.g ∧
  CopiesAre s.g.copies t.g ∧ LanesGo s.cur.mask s.nextPc s.g t.g ∧
  t.g.count = s.g.count + 1 ∧ t.g.win.tail = s.g.win.take 7 ∧
  (t.g.ocOf k).iss = (s.g.ocOf k).iss + 1 ∧ ∀ j, j ≠ k → t.g.ocOf j = s.g.ocOf j

/-- From s to t a load-class instruction i of access size n and type `ty` into register `d` issued with the checked
accesses `rs` (R99, R230): when a lane reads, its register words are on their way in load number `s.uid`, and its accesses
take their place among those that the group has to make (R229). -/
def Loading (s t : State) (i : Instr) (n ty d : Nat) (rs : List (LaneAcc × LaneR)) : Prop :=
  Accessed 0 s t ∧ t.g.scat = s.g.scat ∧
  (rs = [] → t.g.pend = s.g.pend ∧ t.g.defer = s.g.defer) ∧
  (rs ≠ [] → t.g.defer = addHeld ⟨s.uid, i, (s.g.ocOf 0).iss.toNat, s.uid, rs⟩ s.g.defer ∧
    (∀ j, j ≠ s.uid → kget t.g.pend j = kget s.g.pend j) ∧
    ∃ p, kget t.g.pend s.uid = some p ∧ p.op = (s.g.ocOf 0).iss.toNat ∧ p.made = false ∧ p.om = [] ∧
      p.words = rs.flatMap fun x => openWords ty d n x.1)

/-- From t to v the accesses of load number `u` of group g were made (R221, R224, R230): its words are those of the bytes
that the L1, the write path and memory hold for it, and no byte of memory changed. -/
def Loaded (t v : State) (g u ty d : Nat) (rs : List (LaneAcc × LaneR)) : Prop :=
  let c := t.contOf g
  let K := t.core (t.coreOf g)
  v.mem = t.mem ∧ (v.grp g).v = (t.grp g).v ∧ (v.grp g).defer = [] ∧
  ∃ p, kget (v.grp g).pend u = some p ∧ p.made = true ∧
    p.words = rs.flatMap fun x => loadWords ty x.1.lane d (laneBytes t K c.d c.p (rehit K c.asid x).2)

/-- From s to t a store-class instruction i issued with the checked accesses `rs` (R230): they take their place among
those that the group has to make (R229). -/
def Storing (s t : State) (i : Instr) (rs : List (LaneAcc × LaneR)) : Prop :=
  Accessed 1 s t ∧ t.g.pend = s.g.pend ∧
  t.g.defer = if rs = [] then s.g.defer else addHeld ⟨s.uid, i, (s.g.ocOf 1).iss.toNat, 0, rs⟩ s.g.defer

/-- From t to v a store of `n` bytes in space `sp` of group g was made (R209, R228, R230). One in .G enters the core's
write path line by line, but for sectors of scope .CORE that fail there (R226), and no byte of memory changes yet. One in
another space writes: every byte of its lanes holds the value of the highest lane that writes it, and every other byte is
as it was. -/
def Stored (t v : State) (g sp n : Nat) (rs : List (LaneAcc × LaneR)) : Prop :=
  let c := t.contOf g
  let core := t.coreOf g
  (v.grp g).v = (t.grp g).v ∧ (v.grp g).defer = [] ∧
  (sp = 0 → v.mem = t.mem ∧ ((kget t.cores core).isSome = true →
    ∀ e ∈ storeLines c.d c.p (rs.map fun x => (x.1, piecesOf x.2)), e.2.2.2.2 ≠ [] →
      (e.2.2.1 = 1 → ∀ x ∈ bySector e.2.2.2.2,
        let pl := place t (core / 256) (t.partOfCore core) e.2.1 2 (gkOff (32 * x.1))
        pl.bad = 0 ∧ secBad t pl.key = 0) →
      ∃ w ∈ (v.core core).wp, w.line = e.1 ∧ ∃ r ∈ w.recs, r.grp = g ∧ r.cells = e.2.2.2.2)) ∧
  (sp ≠ 0 → (∀ a, kget (dieCells n rs).1 a ≠ none → gkSpace a ≠ 4 ∧ kget t.psn (a / 32) = none) → Safe t →
    ∀ a, memGet v.mem a = (kget (dieCells n rs).1 a).getD (memGet t.mem a))

end Sys2Proof
end

