-- ==== Sys2Proof/WellFormed.lean ====
section
/-! DEFINITION. Sys2Proof/WellFormed.lean: the instructions that a kernel may hold: those with an encoding that the
checks of R90 accept. -/

namespace Sys2Proof
open Sys2Proof.Machine

/-- The checks of R90 on an instruction whose fixed bits are right; none when it is accepted. A 16-bit form is checked
for its register range only (R82); NOP16 has equal, nonzero register fields; the immediate of all ones has no prefix, since its word is ONES-WORD (R83); events
have no encoding. -/
def wfCheck (k : KCtx) (i : Instr) : Option Illegal :=
  match encodeShort i with
  | some h =>
    match parseShort h with
    | .error c => some c
    | .ok j => if j = i then (if rangeOk k i then none else some .registerRange) else some .reservedField
  | none =>
    match encodeWord i with
    | some _ =>
      if (pfxOf i).k1 = some 0x7FFFFF#23 then some .onesWord
      else semCheck k (bits1711 i) 0#32 i
    | none => some .undefOp

/-- A well-formed instruction of a kernel. -/
def WellFormed (k : KCtx) (i : Instr) : Prop := wfCheck k i = none

end Sys2Proof
end

