-- ==== Sys2Proof/Certificates/Slice0/Obligations.lean ====
section
/-! DEFINITION. Sys2Proof/Certificates/Slice0/Obligations.lean: the statements for the provers. -/

open Sys2Proof Sys2Proof.Machine

/-- The arithmetic of R125 and R128, element by element: exact, then wrapped, or clamped with XO = 1. -/
def Obligations.VectorIntegerArithmeticResults : Prop :=
  ∀ (e : Pfx) (f : GForm) (u : UForm),
    let two (i : Instr) (g : Int → Int → Nat × Flags) : Prop :=
      LaneWise i e f.p f.d (tyWords (effTy i)) fun G l => perElem (tyWidth (effTy i)) (elems (effTy i)) fun k =>
        g (extOf (effTy i) (G.rdWords l f.a.toNat (tyWords (effTy i))) k)
          (extOf (effTy i) (opInt G (bOp e f.b) (effTy i) l) k)
    let one (i : Instr) (g : Int → Nat × Flags) : Prop :=
      LaneWise i e u.p u.d (tyWords (effTy i)) fun G l => perElem (tyWidth (effTy i)) (elems (effTy i)) fun k =>
        g (extOf (effTy i) (G.rdWords l u.a.toNat (tyWords (effTy i))) k)
    let sat : Bool := e.xo = 1
    two (.vadd e f) (fun x y => narrow (effTy (.vadd e f)) sat (x + y)) ∧
    two (.vsub e f) (fun x y => narrow (effTy (.vsub e f)) sat (x - y)) ∧
    two (.vmul e f) (fun x y => narrow (effTy (.vmul e f)) sat (x * y)) ∧
    two (.vmulh e f) (fun x y =>
      (wrapNat (tyWidth (effTy (.vmulh e f))) (x * y / (2 ^ tyWidth (effTy (.vmulh e f)) : Int)), 0#6)) ∧
    two (.vmin e f) (fun x y => narrow (effTy (.vmin e f)) false (min x y)) ∧
    two (.vmax e f) (fun x y => narrow (effTy (.vmax e f)) false (max x y)) ∧
    one (.vabs e u) (fun x => narrow (effTy (.vabs e u)) sat (if x < 0 then -x else x)) ∧
    one (.vneg e u) (fun x => narrow (effTy (.vneg e u)) sat (-x)) ∧
    (LaneWise (.vmad e f) e f.p f.d (tyWords (effTy (.vmad e f))) fun G l =>
      perElem (tyWidth (effTy (.vmad e f))) (elems (effTy (.vmad e f))) fun k =>
        let t := effTy (.vmad e f)
        narrow t sat (extOf t (G.rdWords l f.a.toNat (tyWords t)) k * extOf t (opInt G (bOp e f.b) t l) k +
          extOf t (G.rdWords l (e.rc f.d).toNat (tyWords t)) k))

/-- The bitwise functions of R126 to R128. -/
def Obligations.VectorBitResults : Prop :=
  ∀ (e : Pfx) (f : GForm) (u : UForm),
    let one (i : Instr) (n : Nat) (g : Nat → Nat → Nat) : Prop :=
      LaneWise i e u.p u.d n fun G l => (g (tyWidth (effTy i)) (G.rdWords l u.a.toNat (tyWords (effTy i))), 0#6)
    let two (i : Instr) (g : Nat → Nat → Nat) : Prop :=
      LaneWise i e f.p f.d (tyWords (effTy i)) fun G l =>
        (g (G.rdWords l f.a.toNat (tyWords (effTy i))) (opInt G (bOp e f.b) (effTy i) l), 0#6)
    let shift (i : Instr) (g : Nat → Nat → Nat → Nat) : Prop :=
      LaneWise i e f.p f.d (tyWords (effTy i)) fun G l =>
        (g (tyWidth (effTy i)) (G.rdWords l f.a.toNat (tyWords (effTy i))) (opCount G (bOp e f.b) l % 256), 0#6)
    one (.vnot e u) (tyWords (effTy (.vnot e u))) (fun w x => 2 ^ w - 1 - x) ∧
    one (.vpopc e u) 1 (fun w x => ((List.range w).filter fun j => x.testBit j).length) ∧
    one (.vclz e u) 1 (fun w x => if x = 0 then w else w - 1 - Nat.log2 x) ∧
    one (.vbrev e u) (tyWords (effTy (.vbrev e u))) brev ∧
    two (.vand e f) (· &&& ·) ∧ two (.vor e f) (· ||| ·) ∧ two (.vxor e f) (· ^^^ ·) ∧
    shift (.vshl e f) (fun w x c => x * 2 ^ c % 2 ^ w) ∧
    shift (.vshr e f) (fun _ x c => x / 2 ^ c) ∧
    shift (.vsra e f) (fun w x c => wrapNat w (sextNat w x / (2 ^ c : Int))) ∧
    shift (.vrot e f) (if e.xo = 1 then rotr else rotl)

/-- Fields, selection, saturation, addresses, dot products, constants and moves (R106, R129 to R134, R139, R140). VSEL's
predicate and MOV's scalar register are those of the state before the loads land. -/
def Obligations.VectorFieldAndSelectResults : Prop :=
  ∀ (e : Pfx) (f : GForm) (i14 : BitVec 14) (d : BitVec 7) (w : BitVec 1) (p : BitVec 2),
    (LaneWise (.vbfe e f) e f.p f.d (tyWords (effTy (.vbfe e f))) fun G l =>
      let t := effTy (.vbfe e f)
      let c := opCount G (bOp e f.b) l
      let m := fieldLen (tyWidth t) (c % 256) (c / 256 % 256)
      let v := G.rdWords l f.a.toNat (tyWords t) / 2 ^ (c % 256) % 2 ^ m
      (if m = 0 then 0 else if tySigned t then wrapNat (tyWidth t) (sextNat m v) else v, 0#6)) ∧
    (LaneWise (.vbfi e f) e f.p f.d (tyWords (effTy (.vbfi e f))) fun G l =>
      let t := effTy (.vbfi e f)
      let base := G.rdWords l (e.rc f.d).toNat (tyWords t)
      let c := opCount G (bOp e f.b) l
      let m := fieldLen (tyWidth t) (c % 256) (c / 256 % 256)
      (if m = 0 then base
       else base - base / 2 ^ (c % 256) % 2 ^ m * 2 ^ (c % 256) +
         G.rdWords l f.a.toNat (tyWords t) % 2 ^ m * 2 ^ (c % 256), 0#6)) ∧
    (LaneWiseAt (.vsel e f) e f.p f.d (tyWords (effTy (.vsel e f))) fun s G l =>
      (if (predVal s ((e.rc f.d).toNat % 16)).getLsbD l then G.rdWords l f.a.toNat (tyWords (effTy (.vsel e f)))
       else opInt G (bOp e f.b) (effTy (.vsel e f)) l, 0#6)) ∧
    (LaneWise (.vsat e f) e f.p f.d (tyWords (effTy (.vsat e f))) fun G l =>
      let t := effTy (.vsat e f)
      let lo : Int := if tySigned t then -(2 ^ (f.b.toNat - 1)) else 0
      let hi : Int := if tySigned t then 2 ^ (f.b.toNat - 1) - 1 else 2 ^ f.b.toNat - 1
      let x := sextNat (tyWidth t) (G.rdWords l f.a.toNat (tyWords t))
      (wrapNat (tyWidth t) (max lo (min hi x)), satFlag (max lo (min hi x) ≠ x))) ∧
    (LaneWise (.vlea e f) e f.p f.d 2 fun G l =>
      (wrapNat 64 ((G.rdWords l f.a.toNat 2 : Int) +
        extOf (effTy (.vlea e f)) (opCount G (bOp e f.b) l) 0 * 2 ^ e.xo), 0#6)) ∧
    (LaneWise (.vdot4 e f) e f.p f.d 1 fun G l =>
      let t := effTy (.vdot4 e f)
      let tb := if e.xo % 2 = 1 then (if t = 0x16 then 0x17 else 0x16) else t
      narrow 0x10 (2 ≤ e.xo) ((List.range 4).foldl
        (fun a k => a + extOf t (G.rdWords l f.a.toNat 1) k * extOf tb (opInt G (bOp e f.b) t l) k)
        (sextNat 32 (G.rdWords l (e.rc f.d).toNat 1)))) ∧
    (LaneWise (.vmovi e i14 d w p) e p d 1 fun _ _ =>
      ((match e.k1 with | some m => m ++ i14.extractLsb' 0 9 | none => i14.signExtend 32 : Word).toNat, 0#6)) ∧
    (f.a = 0#7 → LaneWise (.mov e f) e f.p f.d (tyWords (effTy (.mov e f))) fun G l =>
      (G.rdWords l f.b.toNat (tyWords (effTy (.mov e f))), 0#6)) ∧
    (f.a ≠ 0#7 → LaneWiseAt (.mov e f) e f.p f.d (tyWords (effTy (.mov e f))) fun s _ _ =>
      ((rs s f.b.toNat).toNat, 0#6))

/-- Compares into predicates and the addition with carry (R131, R133, R151). -/
def Obligations.VectorCompareAndCarryResults : Prop :=
  ∀ (e : Pfx) (f : CForm) (g : GForm),
    Results (.vcmp e f) (activeMask e f.p)
      (fun s => cmpRes s (activeMask e f.p s) f.q.toNat e.xo (lanesOf s.g.width (activeMask e f.p s)) fun l =>
        let t := effTy (.vcmp e f)
        (vcmpCond t f.c.toNat (s.g.rdWords l f.a.toNat (tyWords t)) (s.g.rdWords l f.b.toNat (tyWords t)), 0#6)) ∧
    Results (.fcmp e f) (activeMask e f.p)
      (fun s => cmpRes s (activeMask e f.p s) f.q.toNat e.xo (lanesOf s.g.width (activeMask e f.p s)) fun l =>
        let t := effTy (.fcmp e f)
        fcmpCond f.c.toNat (elemVal t s.g.fz (s.g.rdWords l f.a.toNat (tyWords t)))
          (elemVal t s.g.fz (s.g.rdWords l f.b.toNat (tyWords t)))) ∧
    Results (.vaddc e g) (activeMask e g.p)
      (fun s =>
        let t := effTy (.vaddc e g)
        let pk := predVal s ((e.rc g.d).toNat % 16)
        let sum (l : Nat) : Nat :=
          let y := opInt s.g (bOp e g.b) t l
          s.g.rdWords l g.a.toNat (tyWords t) + (if e.xo = 0 then y else 2 ^ tyWidth t - 1 - y) +
            (if pk.getLsbD l then 1 else 0)
        let ls := lanesOf s.g.width (activeMask e g.p s)
        { vws := ls.flatMap fun l => wordsAt l g.d.toNat (sum l) (tyWords t)
          pws := [((e.rc g.d).toNat % 16,
            (pk &&& ~~~(activeMask e g.p s)) ||| maskOf (ls.filter fun l => decide (2 ^ tyWidth t ≤ sum l)))] })

/-- Reads of other lanes (R135 to R138). -/
def Obligations.CrossLaneResults : Prop :=
  ∀ (e : Pfx) (f : GForm),
    let ls (s : State) : List Nat := lanesOf s.g.width (activeMask e f.p s)
    let val (i : Instr) (s : State) (l : Nat) : Option Nat :=
      if (ls s).contains l then some (redLeaf (effTy i) s.g.fz (s.g.rdWords l f.a.toNat (tyWords (effTy i)))) else none
    Across (.vshf e f)
      (fun s => (ls s).flatMap fun l =>
        (l, shfLane s.g e.xo (bOp e f.b) l, f.a.toNat, tyWords (effTy (.vshf e f))) ::
          (if e.long then [] else [(l, l, f.b.toNat, 1)]))
      (fun s => laneRes (ls s) f.d.toNat (tyWords (effTy (.vshf e f))) fun l =>
        (s.g.rdWords (shfLane s.g e.xo (bOp e f.b) l) f.a.toNat (tyWords (effTy (.vshf e f))), 0#6)) ∧
    Across (.vbcast e f)
      (fun s => (ls s).map fun l =>
        (l, if e.xo = 1 then lowBit (activeMask e f.p s) else f.b.toNat, f.a.toNat, tyWords (effTy (.vbcast e f))))
      (fun s => laneRes (ls s) f.d.toNat (tyWords (effTy (.vbcast e f))) fun _ =>
        (s.g.rdWords (if e.xo = 1 then lowBit (activeMask e f.p s) else f.b.toNat) f.a.toNat
          (tyWords (effTy (.vbcast e f))), 0#6)) ∧
    Across (.vreduce e f)
      (fun s => (ls s).flatMap fun l => (ls s).map fun j => (l, j, f.a.toNat, tyWords (effTy (.vreduce e f))))
      (fun s =>
        let t := effTy (.vreduce e f)
        let r := treeVal (redOp t f.b.toNat e.rm s.g.fz) (val (.vreduce e f) s) 6 0
        { vws := (ls s).flatMap fun l => wordsAt l f.d.toNat (r.1.getD (redIdent t f.b.toNat)) (tyWords t), fl := r.2 }) ∧
    Across (.vscan e f)
      (fun s => (ls s).flatMap fun l =>
        ((ls s).filter fun j => decide (j < if e.xo = 1 then l else l + 1)).map fun j =>
          (l, j, f.a.toNat, tyWords (effTy (.vscan e f))))
      (fun s => laneRes (ls s) f.d.toNat (tyWords (effTy (.vscan e f))) fun l =>
        let t := effTy (.vscan e f)
        let r := scanVal (redOp t f.b.toNat e.rm s.g.fz) (val (.vscan e f) s) 7 0 (if e.xo = 1 then l else l + 1) (none, 0#6)
        (r.1.getD (redIdent t f.b.toNat), r.2))

/-- Floating-point arithmetic: one rounding (R145 to R148). -/
def Obligations.VectorFloatArithmeticResults : Prop :=
  ∀ (e : Pfx) (f : GForm),
    let two (i : Instr) (g : Bool → Nat → Nat → Nat × Flags) : Prop :=
      LaneWise i e f.p f.d (tyWords (effTy i)) fun G l => perElem (cWidth (effTy i)) (elems (effTy i)) fun k =>
        g G.fz (elemOf (cWidth (effTy i)) (G.rdWords l f.a.toNat (tyWords (effTy i))) k)
          (elemOf (cWidth (effTy i)) (opFloat G (bOp e f.b) (effTy i) l) k)
    let arith (i : Instr) (op : Nat) : Prop := two i fun fz x y =>
      flushRes (effTy i) fz (fvArith (effTy i) e.rm op (elemVal (effTy i) fz x) (elemVal (effTy i) fz y))
    arith (.fadd e f) 0 ∧ arith (.fsub e f) 1 ∧ arith (.fmul e f) 2 ∧
    two (.fmin e f) (fMinMax (effTy (.fmin e f)) false) ∧ two (.fmax e f) (fMinMax (effTy (.fmax e f)) true) ∧
    two (.fsgn e f) (fun _ x y => (fsgnBits (effTy (.fsgn e f)) e.xo x y, 0#6)) ∧
    (LaneWise (.ffma e f) e f.p f.d (tyWords (effTy (.ffma e f))) fun G l =>
      let t := effTy (.ffma e f)
      perElem (cWidth t) (elems t) fun k => flushRes t G.fz (fvFma t e.rm (e.xo % 2 = 1) (2 ≤ e.xo)
        (fElem t G.fz (G.rdWords l f.a.toNat (tyWords t)) k) (fElem t G.fz (opFloat G (bOp e f.b) t l) k)
        (fElem t G.fz (G.rdWords l (e.rc f.d).toNat (tyWords t)) k)))

/-- Functions of one floating-point operand (R149, R150, R152 to R154). -/
def Obligations.VectorFloatFunctionResults : Prop :=
  ∀ (e : Pfx) (u : UForm) (f : GForm),
    let fn (i : Instr) (g : Nat → FV → Nat × Flags) : Prop :=
      LaneWise i e u.p u.d (tyWords (effTy i)) fun G l => perElem (cWidth (effTy i)) (elems (effTy i)) fun k =>
        flushRes (effTy i) G.fz (g (elemOf (cWidth (effTy i)) (G.rdWords l u.a.toNat (tyWords (effTy i))) k)
          (fElem (effTy i) G.fz (G.rdWords l u.a.toNat (tyWords (effTy i))) k))
    fn (.frcp e u) (fun _ => fvRcp (effTy (.frcp e u)) e.rm) ∧ fn (.frsq e u) (fun _ => fvRsq (effTy (.frsq e u)) e.rm) ∧
    fn (.fsqrt e u) (fun _ => fvSqrt (effTy (.fsqrt e u)) e.rm) ∧ fn (.fexp2 e u) (fun _ => fvExp2 (effTy (.fexp2 e u))) ∧
    fn (.flog2 e u) (fun _ => fvLog2 (effTy (.flog2 e u))) ∧ fn (.fsin e u) (fun _ => fvSinCos (effTy (.fsin e u)) false) ∧
    fn (.fcos e u) (fun _ => fvSinCos (effTy (.fcos e u)) true) ∧ fn (.ftanh e u) (fun _ => fvTanh (effTy (.ftanh e u))) ∧
    fn (.frnd e u) (fun _ => fvRint (effTy (.frnd e u)) e.rm (e.xo = 1)) ∧
    (LaneWise (.fclass e u) e u.p u.d 1 fun G l =>
      let t := effTy (.fclass e u)
      perElem (min 32 (cWidth t)) (elems t) fun k =>
        (fClass (fmtOf t) G.fz (elemOf (cWidth t) (G.rdWords l u.a.toNat (tyWords t)) k), 0#6)) ∧
    (LaneWise (.fscale e f) e f.p f.d (tyWords (effTy (.fscale e f))) fun G l =>
      let t := effTy (.fscale e f)
      perElem (cWidth t) (elems t) fun k => flushRes t G.fz (fvTo t e.rm false 0
        (fvScale (sextNat 32 (opCount G (bOp e f.b) l)) (fElem t G.fz (G.rdWords l f.a.toNat (tyWords t)) k))))

/-- Conversions and window arithmetic (R155 to R163). The scalar operands that FCVT, FPACK and FWCVT read are those of the
state before the loads land: landing changes no scalar register. -/
def Obligations.VectorConversionResults : Prop :=
  ∀ (e : Pfx) (f : GForm) (nf : NForm) (sl w : BitVec 1) (ty : BitVec 5) (a d : BitVec 7) (p : BitVec 2),
    let done (i : Instr) (p : BitVec 2) (d : BitVec 7) (n : Nat) (h : State → Group → Nat → Nat × Flags) : Prop :=
      LaneWiseAt i e p d n h
    done (.fcvt e sl ty a d w p) p d (tyWords (effTy (.fcvt e sl ty a d w p))) (fun s G l =>
      let dt := effTy (.fcvt e sl ty a d w p)
      cvtLane dt ty.toNat e.rm (cvtSlot sl e) e.sn G.fz (fun k => srRnd s e d l (min (epr dt) (epr ty.toNat)) k)
        (G.rdWords l d.toNat (tyWords dt)) (G.rdWords l a.toNat (tyWords ty.toNat))) ∧
    done (.fmxs e ty a d w p) p d 1 (fun _ G l => mxScale ty.toNat (elemVal 0x00 G.fz (G.rdV l a.toNat).toNat)) ∧
    done (.fpack e f) f.p f.d 1 (fun s G l =>
      let t := effTy (.fpack e f)
      let sc := opCount G (bOp e f.b) l % 256
      perElem (cWidth t) (epr t) fun k =>
        if sc = 255 then nanTo t 0#6
        else convTo t e.rm e.sn (srRnd s e f.d l (epr t) k) G.fz
          (fvScale (127 - (sc : Int)) (elemVal 0x00 G.fz (G.rdV l (f.a.toNat + k)).toNat))) ∧
    done (.funpack e nf) nf.p nf.d (epr (effTy (.funpack e nf))) (fun _ G l =>
      let t := effTy (.funpack e nf)
      let sc := opCount G (bOp e nf.b) l % 256
      perElem 32 (epr t) fun k =>
        if sc = 255 then nanTo 0x00 (snanFlag [fElem t G.fz (G.rdV l nf.a.toNat).toNat k])
        else flushRes 0x00 G.fz (fvTo 0x00 e.rm false 0
          (fvScale ((sc : Int) - 127) (fElem t G.fz (G.rdV l nf.a.toNat).toNat k)))) ∧
    done (.fdot2 e f) f.p f.d 1 (fun _ G l =>
      let t := effTy (.fdot2 e f)
      let x := G.rdWords l f.a.toNat 1
      let y := opFloat G (bOp e f.b) t l
      flushRes 0x00 G.fz (dot2 e.rm (elemVal 0x00 G.fz (G.rdV l (e.rc f.d).toNat).toNat) (fElem t G.fz x 0)
        (fElem t G.fz y 0) (fElem t G.fz x 1) (fElem t G.fz y 1))) ∧
    (e.xo = 0 → done (.fwcvt e f) f.p f.d 4 (fun s G l =>
      toFw e.rm (fwBase s e f.b)
        (elemVal (effTy (.fwcvt e f)) G.fz (G.rdWords l f.a.toNat (tyWords (effTy (.fwcvt e f))))))) ∧
    (e.xo ≠ 0 → done (.fwcvt e f) f.p f.d (tyWords (effTy (.fwcvt e f))) (fun s G l =>
      let t := effTy (.fwcvt e f)
      let r := convTo t e.rm false 0 G.fz (fwVal (fwBase s e f.b) (G.rdWords l f.a.toNat 4))
      (if tyWidth t = 16 then putElem 16 (G.rdV l f.d.toNat).toNat 0 r.1 else r.1, r.2))) ∧
    done (.fwadd e f) f.p f.d 4 (fun _ G l =>
      let x := G.rdWords l f.a.toNat 4
      let y := opInt G (bOp e f.b) 0x0A l
      (if e.xo = 0 then (x + y) % 2 ^ 128 else (x + (2 ^ 128 - y % 2 ^ 128)) % 2 ^ 128, 0#6))

/-- The sixteen-bit forms (R80 to R82): no prefix, no predicate, W = 0. -/
def Obligations.ShortFormResults : Prop :=
  ∀ (b : BitVec 5) (d : BitVec 6),
    let e : Pfx := ⟨none, none⟩
    let form (i : Instr) (f : Group → Nat → Nat × Flags) : Prop := LaneWise i e 0#2 (d.zeroExtend 7) 1 f
    let old (G : Group) (l : Nat) : Nat := G.rdWords l d.toNat 1
    let src (G : Group) (l : Nat) : Nat := G.rdWords l b.toNat 1
    let sum (x y : Int) : Nat := wrapNat 32 (x + y)
    let flt (i : Instr) (g : Bool → Nat → Nat → Nat × Flags) : Prop :=
      form i fun G l => perElem 32 1 fun k => g G.fz (elemOf 32 (old G l) k) (elemOf 32 (src G l) k)
    form (.vmov b d) (fun G l => (src G l, 0#6)) ∧
    form (.vmoviShort b d) (fun _ _ => (wrapNat 32 b.toInt, 0#6)) ∧
    form (.vaddShort b d) (fun G l => (sum (sextNat 32 (old G l)) (sextNat 32 (src G l)), 0#6)) ∧
    form (.vsubShort b d) (fun G l => (sum (sextNat 32 (old G l)) (-sextNat 32 (src G l)), 0#6)) ∧
    form (.vmulShort b d) (fun G l => (wrapNat 32 (sextNat 32 (old G l) * sextNat 32 (src G l)), 0#6)) ∧
    form (.vaddi b d) (fun G l => (sum (sextNat 32 (old G l)) b.toInt, 0#6)) ∧
    form (.vandShort b d) (fun G l => (old G l &&& src G l, 0#6)) ∧
    form (.vorShort b d) (fun G l => (old G l ||| src G l, 0#6)) ∧
    form (.vxorShort b d) (fun G l => (old G l ^^^ src G l, 0#6)) ∧
    form (.vshlI b d) (fun G l => (old G l * 2 ^ b.toNat % 2 ^ 32, 0#6)) ∧
    form (.vshrI b d) (fun G l => (old G l / 2 ^ b.toNat, 0#6)) ∧
    flt (.faddShort b d) (fArithBits 0 0 0) ∧
    flt (.fsubShort b d) (fArithBits 0 0 1) ∧
    flt (.fmulShort b d) (fArithBits 0 0 2) ∧
    flt (.fmaxShort b d) (fMinMax 0 true) ∧
    flt (.fminShort b d) (fMinMax 0 false)

/-- The ends of waits (R195, R289, R290, R354) and byte credits (R340, R356, R359, R363). `ended r t`: from r to t the
sub-group that waited in block b of group g completed its instruction. What stays open in its group is said per event. -/
def Obligations.WaitsEnd : Prop :=
  (∀ (s : State) (g b : Nat) (x : Block), kget (s.grp g).blocks b = some x → atBoundary s g = true →
    let u := atBlock g b s
    let quiet (G H : Group) : Prop := H.v = G.v ∧ H.pz = G.pz ∧ H.pend = G.pend ∧ H.blocks = kdel G.blocks b ∧ CopiesAre G.copies H
    let ended (r t : State) : Prop :=
      { t with groups := r.groups, cur := r.cur } = r ∧ t.cur = s.cur ∧
      (∀ h, h ≠ g → kget t.groups h = kget r.groups h) ∧
      { t.grp g with v := (r.grp g).v, pz := (r.grp g).pz, pend := (r.grp g).pend, lanes := (r.grp g).lanes,
                     copies := (r.grp g).copies, win := (r.grp g).win, past := (r.grp g).past, frame := (r.grp g).frame,
                     blocks := (r.grp g).blocks } = r.grp g ∧
      kget (t.grp g).blocks b = none ∧ LanesGo u.cur.mask u.nextPc (r.grp g) (t.grp g)
    waiting u = some (b, x) →
    (∀ e nt nc ns nl, x.instr = .wait e nt nc ns nl →
      let thr : List (Nat × Nat) := [(0, nl.toNat), (1, ns.toNat), (2, nc.toNat), (3, nt.toNat)]
      waitMet (s.grp g) x.data thr = true → waitReport (s.grp g) x.data thr = none →
      let r := acquire (s.coreOf g) (waitScope (s.grp g) x.data thr) u
      ∃ t, exec (.waitCompletion g b) s = .next t ∧ ended r t ∧ quiet (r.grp g) (t.grp g)) ∧
    (∀ e a, x.instr = .sleep e a →
      (x.data[1]?).getD 0 ≤ (s.time - BitVec.ofNat 64 ((x.data[0]?).getD 0)).toNat →
      ∃ t, exec (.sleepTimeout g b) s = .next t ∧ ended u t ∧ quiet (u.grp g) (t.grp g)) ∧
    (∀ e f n run, x.instr = .qpush e f → x.data = (n + 1) :: run → run ≠ [] →
      run.length ≤ qRoom s g f.d.toNat → olderPush s g f.d.toNat b = false →
      let k := f.d.toNat
      let vs : List Dword := run.map (BitVec.ofNat 64)
      let r := appendRun x.watch g k (if (qCounter k).isNone then 0 else n) vs u
      exec (.queueRoomFreed g b) s = .next { finish x.instr {} r with cur := s.cur } ∧
      (k < 8 → ∃ t, exec (.queueRoomFreed g b) s = .next t ∧ ended r t ∧ quiet (r.grp g) (t.grp g)) ∧
      (k = 2 → (r.grp g).q2.map Push.val = (s.grp g).q2.map Push.val ++ vs) ∧
      (k = 4 → (r.grp g).q4.map Push.val = (s.grp g).q4.map Push.val ++ vs) ∧
      (k = 6 → (r.grp g).q6.map Push.val = (s.grp g).q6.map Push.val ++ vs) ∧
      (k = 7 → (r.grp g).q7 = (s.grp g).q7 ++ vs.map (⟨·, 0, 0⟩)) ∧
      (8 ≤ k → (kget s.teams (s.grp g).team).isSome = true → popQ r g k = popQ s g k ++ vs.map (⟨·, 0, 0⟩))) ∧
    (∀ e f m, x.instr = .qpop e f → x.data = [m] →
      let ls := popLanes (s.grp g).width (decide (f.a ≠ 0#7)) (BitVec.ofNat 64 m)
      let q := popQ s g f.b.toNat
      let n := tyWords (effTy x.instr)
      let r := putQ g f.b.toNat (q.drop ls.length) u
      ls.length ≤ qCap f.b.toNat → ls.length ≤ q.length → (∀ y ∈ q.take ls.length, y.mark = 0) →
      ∃ t, exec (.queueEntriesArrive g b) s = .next t ∧ ended r t ∧
        (f.a = 0#7 → f.d.toNat + n ≤ 128 →
          (∀ (j l : Nat) (y : QEntry), ls[j]? = some l → q[j]? = some y → ∀ c < n,
            rget (t.grp g).v (vk l (f.d.toNat + c)) = BitVec.ofNat 32 (y.val.toNat / 2 ^ (32 * c))) ∧
          ∀ l j, j < 128 → l ∉ ls ∨ j < f.d.toNat ∨ f.d.toNat + n ≤ j →
            rget (t.grp g).v (vk l j) = rget (s.grp g).v (vk l j)) ∧
        (f.a ≠ 0#7 → (t.grp g).v = (s.grp g).v ∧
          ∀ l y C, ls = [l] → q[0]? = some y → f.d ≠ 0#7 → x.sdst ≠ 0 → kget (t.grp g).copies u.cid = some C →
            rget C.s f.d.toNat = y.val))) ∧
  (∀ (s : State) (n : Nat) (c : Credit), s.credits[n]? = some c →
    (∀ (m : Nat) (x : Credit), m < n → s.credits[m]? = some x → sameSource x c = false) →
    (c.cmd = 0 ∨ ∀ x ∈ s.mlog, x.op ≠ (c.cmd, 0)) →
    let r : State := { s with credits := s.credits.eraseIdx n }
    (∀ t, (c.land = none ∧ t = c.team ∧ (kget s.teams t).isSome = true) ∨
        (∃ d p lc b slot k, c.land = some (d, p, lc, b, slot) ∧ teamAt r d p lc b slot = some (k, t)) →
      (c.obj < s.barCount t → exec (.byteCredit n) s = .next (barUpdate t c.obj (·.credit c.bytes) r)) ∧
      (s.barCount t ≤ c.obj → ∃ v, exec (.byteCredit n) s = .next v ∧ { v with cores := s.cores } = r)) ∧
    (c.land = none → kget s.teams c.team = none → exec (.byteCredit n) s = .next r) ∧
    (∀ d p lc b slot, c.land = some (d, p, lc, b, slot) → teamAt r d p lc b slot = none →
      ∃ v, exec (.byteCredit n) s = .next v ∧ { v with cores := s.cores } = r))

/-- Traps at a boundary (R387), retirement (R26, R226, R310, R347) and placement (R34 to R41, R97, R401, R402). -/
def Obligations.TrapEntryRetirementPlacement : Prop :=
  (∀ (s : State) (g : Nat) (t : TrapInfo), atBoundary s g = true → firstTrap (boundaryTraps (s.grp g)) = some t →
    waitGoes (s.grp g) t = false →
    t ∈ boundaryTraps (s.grp g) ∧
    (∀ x ∈ boundaryTraps (s.grp g), t.cause < x.cause ∨ (t.cause = x.cause ∧ lowBit t.sub ≤ lowBit x.sub)) ∧
    ∃ u, exec (.trapEntry g) s = .next (takeTrap g t u) ∧ { u with groups := s.groups, cores := s.cores } = s ∧
      (∀ h, h ≠ g → kget u.groups h = kget s.groups h) ∧
      { u.grp g with lostRep := (s.grp g).lostRep, watchRep := (s.grp g).watchRep } = s.grp g ∧
      (u.grp g).lostRep = (if t.cause = 0x60#8 then (s.grp g).lostRep.filter fun k => k ≠ t.tva.toNat else (s.grp g).lostRep) ∧
      (u.grp g).watchRep = (if t.cause ≠ 0x60#8 ∧ 0x90#8 ≤ t.cause then none else (s.grp g).watchRep)) ∧
  (∀ (s : State) (g : Nat), atBoundary s g = true → (s.grp g).frame = none →
    (∀ e ∈ (s.grp g).lanes, e.2.st = .exited) → (∀ k < 4, ((s.grp g).ocOf k).value = 0) →
    ((s.grp g).q7 = [] ∨ rootReady g s = true) → retFree s (s.launchOf g) = true → (s.grp g).defer = [] →
    (∀ e ∈ (s.grp g).pend, e.2.made = true) → coreWrites s g = false →
    (∀ c t, retireReport (s.grp g) = some (c, t) →
      ∃ u, exec (.groupRetirement g) s = .next (takeTrap g t u) ∧ { u with groups := s.groups } = s ∧
        (∀ h, h ≠ g → kget u.groups h = kget s.groups h) ∧
        { u.grp g with fails := (s.grp g).fails, cwatch := (s.grp g).cwatch } = s.grp g) ∧
    (retireReport (s.grp g) = none →
      let tm := (s.grp g).team
      let rest := (s.team tm).groups.filter fun x => x ≠ g
      let l := (s.team tm).launch
      ∃ t, exec (.groupRetirement g) s = .next t ∧ kget t.groups g = none ∧
        ((s.grp g).q7 = [] → (kget s.teams tm).isSome = true →
          (rest ≠ [] → { t with groups := s.groups, teams := s.teams } = s ∧
            (∀ h, h ≠ g → kget t.groups h = kget s.groups h) ∧ (t.team tm).groups = rest ∧
            ∀ x, x ≠ tm → kget t.teams x = kget s.teams x) ∧
          (rest = [] → ∀ L, kget s.launches l = some L →
            (L.retired + 1 ≠ L.nteams → (t.launch l).retired = L.retired + 1) ∧
            (teamBusy s tm = false → kget t.teams tm = none) ∧
            (L.retired + 1 = L.nteams → L.task = none → ∀ n, kget s.nodes L.node = some n →
              kget t.nodes L.node = some { n with status := some 0x02, st := 1 }) ∧
            (L.retired + 1 = L.nteams → ∀ u c, L.task = some u → kget s.cmds u = some c →
              ∃ y, kget t.cmds u = some y ∧ y.stage = .replied ∧ y.launch = 0))))) ∧
  (∀ (s : State) (d p c r : Nat),
    (s.dev d).partOk p = true → (s.dev d).lockout = false →
    (s.dev d).applied = true ∨ (s.dev d).changing p = false →
    (∀ a t, queueHead s d p = some (c, r, .inr a) → dealContext d p a s = some t →
      exec (.teamPlacement d p) s = .next t) ∧
    (∀ l, queueHead s d p = some (c, r, .inl l) → (kget s.launches l).isSome = true →
      (s.launch l).d = d → (s.launch l).p = p →
      ((s.launch l).desc.rg = 0 →
        (readDesc s (s.launch l) = some none → exec (.teamPlacement d p) s = .next (endLaunch l 0x11 s)) ∧
        (∀ ws, readDesc s (s.launch l) = some (some ws) →
          let st := if descOk ws then launchStatus (s.dev d) (s.launch l) (descOf ws) else 0x11
          (st ≠ 0 → exec (.teamPlacement d p) s = .next (endLaunch l st s)) ∧
          (st = 0 → exec (.teamPlacement d p) s = .next (s.modLaunch l fun L => { L with desc := descOf ws })))) ∧
      ((s.launch l).desc.rg ≠ 0 →
        ((s.launch l).desc.gs = false → ∀ y,
          findSpot s d p ((s.launch l).desc.clw + 1) ((s.launch l).desc.clh + 1) (seekerOf s (s.launch l)) [0, 1] = some y →
          spotReady s y = true →
          ∃ t, exec (.teamPlacement d p) s = .next t ∧ (t.launch l).placed = (s.launch l).placed + y.cores.length ∧
            ((s.launch l).nteams ≤ (s.launch l).placed + y.cores.length → l ∉ (t.part d p).launchq)) ∧
        ((s.launch l).desc.gs = true → ∀ t, placeAll l 0 s (s.launch l).nteams s = some (t, true) →
          exec (.teamPlacement d p) s = .next t ∧ (s.launch l).nteams ≤ (t.launch l).placed)))) ∧
  (∀ (s : State) (l st : Nat) (L : Launch), kget s.launches l = some L →
    let t := endLaunch l st s
    kget t.launches l = none ∧ l ∉ (t.part L.d L.p).launchq ∧ t.mem = s.mem ∧ t.groups = s.groups ∧
    (∀ n, L.task = none → kget s.nodes L.node = some n → kget t.nodes L.node = some { n with status := some st, st := 1 }) ∧
    ∀ u x, L.task = some u → kget s.cmds u = some x →
      kget t.cmds u = some { x with status := 0x13, launch := 0, stage := .replied }) ∧
  (∀ (s : State) (l core b idx cls : Nat), ((s.core core).bank b).st = .active →
    let k := (s.launch l).desc
    let t := placeTeam l core b idx cls s
    ∃ T, kget t.teams s.uid = some T ∧ T.cont = ((s.core core).bank b).cont ∧ T.launch = l ∧ T.idx = idx ∧
      T.groups = (List.range (k.tg + 1)).map (fun i => s.uid + 1 + i) ∧
      (∀ i < k.bo, (T.bar i).at_ = BitVec.ofNat 16 ((k.tg + 1) * (8 * 2 ^ k.gw)) ∧ (T.bar i).phase = 0 ∧ (T.bar i).ca = 0) ∧
      ∀ i < k.tg + 1, ∃ G, kget t.groups (s.uid + 1 + i) = some G ∧ G.team = s.uid ∧ G.idx = i ∧
        G.width = 8 * 2 ^ k.gw ∧ G.nregs = 8 * k.rg ∧ G.v = [] ∧ G.frame = none ∧
        (∀ j < G.width, kget G.lanes j = some ⟨k.entry, BitVec.allOnes 64, .running, 0, 0⟩) ∧
        ∀ o ∈ s.groupsOf ((s.core core).bank b).cont,
          (freeSlots s ((s.core core).bank b).cont (k.tg + 1)).length = k.tg + 1 → (s.grp o).slot ≠ G.slot)

/-- Translation events (R313, R317 to R327, R341). A REPLAY, DELIVER or TERMINATE answer leads to `repostAll` of a state of
which the statement says everything: faults that found no room are posted again after it (R312). -/
def Obligations.TranslationEvents : Prop :=
  ∀ (s : State) (d p : Nat),
    let q := s.part d p
    let V := s.dev d
    (∀ asid kind (va : BitVec 64),
      let ok : Prop := va.toNat < 2 ^ 57 ∧ V.asidOk asid = true ∧ V.asidPart asid = p
      (∀ vb size pb xwr g, ok → walkFrom s d p va.toNat 5 (V.root asid) = .leaf vb size pb xwr g →
        let k := q.folKind (pb + (va.toNat - vb))
        ∃ t, exec (.translationWalk d p asid kind va) s = .next t ∧ { t with parts := s.parts } = s ∧
          (∀ n, n ≠ d * 16 + p → kget t.parts n = kget s.parts n) ∧
          { t.part d p with tlb := q.tlb } = q ∧
          (t.part d p).tlb = ⟨asid, g, vb, size, pb, xwr, k.1, k.2⟩ ::
            q.tlb.filter fun x => !(x.asid = asid && x.vbase = vb && x.size = size)) ∧
      (¬ok ∨ (∀ vb size pb xwr g, walkFrom s d p va.toNat 5 (V.root asid) ≠ .leaf vb size pb xwr g) →
        exec (.translationWalk d p asid kind va) s = .next s)) ∧
    (∀ (v : BitVec 64) (e : FEnt), bf v 7 2 = 0 → q.fents.find? (fun x => x.seq % 2 ^ 56 = bf v 63 8) = some e →
      let gone (u : State) : Prop :=
        { u with parts := s.parts, groups := s.groups, cmds := s.cmds } = s ∧
        { u.part d p with fents := q.fents } = q ∧ (u.part d p).fents = q.fents.filter fun x => x.seq ≠ e.seq
      let hits (r : Rec) : Prop := r.woken = false ∧ r.seq = some e.seq
      let waits (c : Cmd) : Prop := c.stage = .faulted ∧ c.d = d ∧ c.p = p ∧ c.seq = some e.seq
      let failed (u : State) : Prop := ∀ n c, kget s.cmds n = some c → waits c →
        kget u.cmds n = some (Cmd.fail { c with seq := none, pri := none } (0x0A + c.fkind) 0 0).stop
      let delivered (u : State) : Prop := ∀ g ∈ groupsIn s d p,
        { u.grp g with recs := (s.grp g).recs } = s.grp g ∧
        ∀ k r, kget (s.grp g).recs k = some r → (∀ r', (k, r') ∈ (s.grp g).recs → r' = r) → hits r →
          kget (u.grp g).recs k = some { r with woken := true, seq := none, pri := none }
      (bf v 1 0 = 0 → ∃ u, exec (.freplyReplay d p v) s = .next (repostAll d p u) ∧ gone u ∧
        (∀ n c, kget s.cmds n = some c → waits c → kget u.cmds n =
          some { c with stage := if c.begun then .run else .block, seq := none, pri := none, ret := 0 }) ∧
        ∀ g ∈ groupsIn s d p, { u.grp g with recs := (s.grp g).recs, lanes := (s.grp g).lanes } = s.grp g ∧
          ∀ k r, (k, r) ∈ (s.grp g).recs → hits r → kget (u.grp g).recs k = none ∧
          ∀ l x, kget (s.grp g).lanes l = some x → r.lanes.getLsbD l = true → x.st = .parked →
            kget (u.grp g).lanes l = some { x with st := .running, blk := 0 }) ∧
      (bf v 1 0 = 1 → ∃ u, exec (.freplyDeliver d p v) s = .next (repostAll d p u) ∧ gone u ∧ failed u ∧ delivered u) ∧
      (bf v 1 0 = 2 → ∃ u, exec (.freplyTerminate d p v) s =
        .next (repostAll d p (endContext u d e.asid 0 0 e.unit e.bank e.slot e.va)) ∧ gone u ∧ failed u ∧ delivered u)) ∧
    (∀ (v : BitVec 64), bf v 7 2 ≠ 0 ∨ q.fents.find? (fun x => x.seq % 2 ^ 56 = bf v 63 8) = none ∨ bf v 1 0 = 3 →
      exec (.freplyDiscard d p v) s = .next s) ∧
    (∀ (v : BitVec 64), v.getLsbD 63 = true →
      let bad : Prop := q.xbusy = true ∨ bf v 5 0 < 12 ∨ 57 < bf v 5 0 ∨
        (v.getLsbD 46 = false ∧ V.asidPart (bf v 55 47) ≠ p)
      let r : Part := { q with xctl := v &&& 0x00FFE0000000003F#64 }
      (bad → ∃ t, exec (.xinvGo d p v) s = .next t ∧ { t with parts := s.parts } = s ∧
        t.part d p = { r with xerr := true }) ∧
      (¬bad → ∃ t, exec (.xinvGo d p v) s = .next t ∧
        { t with parts := s.parts, cores := s.cores, groups := s.groups } = s ∧
        t.part d p = { r with xbusy := true, tlb := q.tlb.filter fun e =>
          !(r.xHits e.vbase e.size && if e.glb then r.xGlb else r.xIn e.asid) } ∧
        (∀ k ∈ s.coresOf d p, t.core k = { s.core k with l1 := (s.core k).l1.filter fun x =>
          !(r.xHits (x.vline * 256) 256 && (r.xIn x.asid || r.xGlb)) }) ∧
        (∀ k, k ∉ s.coresOf d p → t.core k = s.core k) ∧
        ∀ g, { t.grp g with pend := (s.grp g).pend } = s.grp g)) ∧
    (q.xbusy = true → drainOk s d p = true →
      ∃ t, exec (.xinvComplete d p) s = .next t ∧ (t.part d p).xbusy = false ∧ (t.part d p).xdone = q.xdone + 1 ∧
        (t.part d p).xctl = q.xctl ∧ (∀ k ∈ s.coresOf d p, (t.core k).wp = []) ∧
        ∀ g ∈ groupsIn s d p, (t.grp g).pend = []) ∧
    (∀ (v : BitVec 64),
      (q.xwbusy = true → exec (.xwinv d p v) s = .next s) ∧
      (q.xwbusy = false → ∃ t, exec (.xwinv d p v) s = .next t ∧ { t with parts := s.parts } = s ∧
        t.part d p = { q with xwbusy := true, xwinv := v.extractLsb' 0 11, winc := (t.part d p).winc } ∧
        ∀ e, e ∈ (t.part d p).winc ↔ e ∈ q.winc ∧ v.getLsbD 10 = false ∧ e.1 / 64 ≠ bf v 9 0)) ∧
    (q.xwbusy = true → ∃ t, exec (.xwinvComplete d p) s = .next t ∧ { t with parts := s.parts } = s ∧
      t.part d p = { q with xwbusy := false })

/-- Migration (R328, R329) and ATS (R330, R331, R418). -/
def Obligations.MigrationAndAtsEvents : Prop :=
  ∀ (s : State) (d p n : Nat),
    let q := s.part d p
    let puts (i : Instr) (x : Nat) : Prop :=
      ∃ t, exec i s = .next t ∧ { t with parts := s.parts } = s ∧
        t.part d p = { q with mig := kput q.mig (4 * n + 3) (BitVec.ofNat 64 x) }
    (∀ v : BitVec 64, n < 16 → bf v 1 0 = 1 → q.migState n = 0 ∨ q.migState n = 2 →
      puts (.migrationStart d p n v) (if migBad q n then 3 else 1)) ∧
    (∀ v : BitVec 64, n < 16 → bf v 1 0 = 0 → q.migState n = 2 →
      puts (.migrationEnd d p n v) (q.migPtr n * 4)) ∧
    (migReady s d p n = true →
      (migTarget s d p n = none → puts (.migrationLineMove d p n) (q.migPtr n * 4 + 3)) ∧
      (∀ k, migTarget s d p n = some k → ∃ t, exec (.migrationLineMove d p n) s = .next t ∧
        let line := gk 0 d p (q.migSrc n + 256 * q.migPtr n) / 256
        let coh : Bool := lineKind s line = 3 || lineKind s line = 4
        let why (j : Nat) : Nat := if coh && tagPoison (rget s.tags line) then 1 else (kget s.psn (line * 8 + j)).getD 0
        { t with parts := s.parts, cores := s.cores, devs := s.devs, mem := s.mem, psn := s.psn, tags := s.tags,
                 edirty := s.edirty } = s ∧
        t.part d p = { q with mig := kput q.mig (4 * n + 3) (BitVec.ofNat 64 ((q.migPtr n + 1) * 4 +
          (if q.migPtr n + 1 = 16 * (q.migLen n / 4096) then 2 else 1))) } ∧
        rget t.tags line = (if coh then 1#32 <<< 24 else migMark) ∧
        (∀ j, j ≠ line → j ≠ k / 256 → rget t.tags j = rget s.tags j) ∧
        (Safe s → line ≠ k / 256 →
          rget t.tags (k / 256) = 0#32 ∧
          (∀ j < 256, memGet t.mem (k / 256 * 256 + j) =
            if why (j / 32) = 0 then memGet s.mem (line * 256 + j) else 0#8) ∧
          (∀ j < 8, kget t.psn (k / 256 * 8 + j) = if why j = 0 then none else some (why j)) ∧
          ∀ a, a / 256 ≠ k / 256 → memGet t.mem a = memGet s.mem a))) ∧
    (∀ pasid (va : BitVec 64) size, ∃ t, exec (.atsInvalidationRequest d pasid va size) s = .next t ∧
      { t with devs := s.devs, uid := s.uid } = s ∧ ((kget s.devs d).isSome = true →
        { t.dev d with ats := (s.dev d).ats, atsInv := (s.dev d).atsInv } = s.dev d ∧
        kget (t.dev d).atsInv s.uid = some (pasid, va.toNat, size) ∧
        ∀ e, e ∈ (t.dev d).ats ↔ e ∈ (s.dev d).ats ∧ (e.xwr = 0#3 ∨ e.asid % 2 ^ 20 ≠ pasid ∨
          e.vbase + e.size ≤ 2 * 2 ^ 52 + va.toNat ∨ 2 * 2 ^ 52 + va.toNat + size ≤ e.vbase))) ∧
    ((kget (s.dev d).atsInv n).isSome = true → (∀ r ∈ partsOf s d, drainOk s d r = true) →
      ∃ t, exec (.atsInvalidationCompletion d n) s = .next t ∧ kget (t.dev d).atsInv n = none ∧
        (∀ r ∈ partsOf s d, ∀ k ∈ s.coresOf d r, (t.core k).wp = []) ∧
        ∀ r ∈ partsOf s d, ∀ g ∈ groupsIn s d r, (t.grp g).pend = []) ∧
    (∀ asid (va hpa : BitVec 64) ok, (kget s.devs d).isSome = true →
      let vb := 2 * 2 ^ 52 + va.toNat % 2 ^ 52 / 4096 * 4096
      let key := (s.dev d).asidVif asid * 2 ^ 20 + (s.dev d).asidPasid asid
      ∃ t, exec (.atsTranslationCompletion d asid va hpa ok) s = .next t ∧ { t with devs := s.devs } = s ∧
        t.dev d = { s.dev d with
          ats := ⟨key, false, vb, 4096, 2 * 2 ^ 52 + hpa.toNat % 2 ^ 52 / 4096 * 4096, if ok then 7#3 else 0#3, 2, 5⟩ ::
            (s.dev d).ats.filter fun x => !(x.asid = key && x.vbase = vb) }) ∧
    (∀ r ok, kget (s.dev d).prs n = some r →
      let pp := (s.dev d).asidPart r.asid
      exec (.pageRequestTimeout d n) s = exec (.pageRequestResponse d n false) s ∧
      ∃ u, exec (.pageRequestResponse d n ok) s = .next (repostAll d pp u) ∧
        kget (u.dev d).prs n = none ∧ { u with devs := s.devs, groups := s.groups, cmds := s.cmds } = s ∧
        (∀ m c, kget s.cmds m = some c → c.stage = .faulted → c.d = d → c.p = pp → c.pri = some n →
          kget u.cmds m = some (if ok
            then { c with stage := if c.begun then .run else .block, seq := none, pri := none, ret := 0 }
            else (Cmd.fail { c with seq := none, pri := none } (0x0A + c.fkind) 0 0).stop)) ∧
        ∀ g ∈ groupsIn s d pp, ∀ k x, kget (s.grp g).recs k = some x → (∀ y, (k, y) ∈ (s.grp g).recs → y = x) →
          x.woken = false → x.pri = some n →
          kget (u.grp g).recs k = if ok then none else some { x with woken := true, seq := none, pri := none })

/-- The events of the matrix array (R274 to R285). That the record of a block that was not clean has the TAG that was read, and
that a marked push-queue entry ends with status 0x0A, are the model's choices (log entries 135, 134). -/
def Obligations.MatrixEngineEvents : Prop :=
  ∀ (s : State),
    (∀ k u o core b, (kget s.conts k).isSome = true → (s.cont k).at? = some (core, b) → (s.cont k).waitingOps < 32 →
      (s.cont k).mq.find? (fun e => e.2.stage = .pushed) = some (u, o) → kget (s.cont k).mq u = some o →
      let r := readBlk s (o.party s) (grpCore s o.grp) (valSp o.val) (valAddr o.val) 64
      let gives (x : MOp) : Prop := ∃ t, exec (.matrixBlockRead k) s = .next t ∧ { t with conts := s.conts } = s ∧
        t.cont k = { s.cont k with mq := kput (s.cont k).mq u x } ∧ ∀ j, j ≠ k → kget t.conts j = kget s.conts j
      let failed (st : Nat) : MOp := { o with status := st, stage := .finished, core := core }
      (o.mark ≠ 0 → gives (failed 0x0A)) ∧
      (o.mark = 0 → valOk o.val = false → gives (failed 0x01)) ∧
      (o.mark = 0 → valOk o.val = true →
        (r = .fault → gives (failed 0x08)) ∧ (∀ y ws n, r = .poison y ws n → gives { failed 0x0A with blk := ws }) ∧
        (∀ ws, r = .ok ws →
          let x : MOp := { o with blk := ws, core := core }
          let st := blockStatus s (s.cont k) x
          (st = 0 → gives { x with stage := .queued }) ∧
          (st ≠ 0 → gives { x with status := st, stage := .finished })))) ∧
    (∀ core b k u o, arrayFree s core = true → startPick s core = some (b, k, u, o) →
      (kget s.conts k).isSome = true → kget (s.cont k).mq u = some o →
      let v := (o.srcSlots ++ (if o.bypass then [o.byslot] else [])).foldl
        (fun v t => landFills k (16384 * t) (16384 * (t + 1)) v) s
      let r := startStatus v k o
      ((∀ g ∈ s.groupsOf k, ∀ e ∈ (s.grp g).pend, e.2.om = []) → v = s) ∧
      ∃ t, exec (.matrixOperationStart core) s = .next t ∧ { t with conts := v.conts, cores := v.cores } = v ∧
        t.core core = { v.core core with arr := some (k, u), arrLast := b + 1 } ∧
        kget (t.cont k).mq u = some (if r.1 = 0 then { o with stage := .products, core := core, dst := r.2 }
          else { o with stage := .finished, status := r.1 })) ∧
    (∀ core k u o, opIn s core .products = some (k, u, o) → (kget s.conts k).isSome = true →
      kget (s.cont k).mq u = some o → o.core = core → Safe s →
      let fw := (s.cont k).fwr o.ct
      let n := if fw then 16 else 4
      let at_ (i j : Nat) : Nat := accKey k (65536 * o.ct + (if fw then 2048 * i + 16 * j else 512 * i + 4 * j))
      ∃ t, exec (.matrixProducts core) s = .next t ∧ { t with mem := s.mem, cores := s.cores, conts := s.conts } = s ∧
        t.core core = { s.core core with arr := none } ∧
        kget (t.cont k).mq u = some { o with
          flags := o.flags ||| o.elems.foldl (fun f e => f ||| (accElem s k o e.1 e.2).2) 0#6
          stage := if o.dr || o.bypass then .convert else .finished } ∧
        (o.n ≤ 128 → ∀ i < o.m, ∀ j < o.n, memLe t.mem (at_ i j) n = (accElem s k o i j).1 % 2 ^ (8 * n)) ∧
        (∀ a, (∀ i < o.m, ∀ j < o.n, a < at_ i j ∨ at_ i j + n ≤ a) → memGet t.mem a = memGet s.mem a)) ∧
    (∀ core k u o, drainReady s core = true → opIn s core .convert = some (k, u, o) → (kget s.conts k).isSome = true →
      kget (s.cont k).mq u = some o →
      let c := drainRows s k o
      let v := if o.bypass then bypassRows k o c.1 s else s
      let ends (t : State) (st landed : Nat) (fl : Flags) : Prop :=
        kget (t.cont k).mq u = some { o with flags := o.flags ||| c.2 ||| fl, status := st, landed := landed, stage := .drain }
      let credit (n : Nat) : List Credit := if o.be ∧ n ≠ 0 then [⟨(s.grp o.grp).team, o.bobj, n, u, none⟩] else []
      ∃ t, exec (.drain core) s = .next t ∧
        (o.dr = false → ends t 0 0 0#6 ∧ { t with conts := s.conts, mem := s.mem, psn := s.psn } = s ∧ t.mem = v.mem ∧
          (o.bypass = false → t.mem = s.mem) ∧
          (Safe s → (o.n * tyWidth o.dt + 7) / 8 ≤ 128 → ∀ a, a < operandKey k (16384 * o.byslot) ∨
            operandKey k (16384 * o.byslot + 128 * o.m) ≤ a → memGet t.mem a = memGet s.mem a)) ∧
        (o.dr = true → o.aos = false → let w := drainWrite u o c.1 v
          ends t w.2.1 w.2.2 0#6 ∧ { t with conts := w.1.conts, credits := w.1.credits } = w.1 ∧
          t.credits = w.1.credits ++ credit w.2.2) ∧
        (o.dr = true → o.aos = true → let w := drainAdd o c.1 v
          ends t w.2.1 w.2.2.1 w.2.2.2 ∧ { t with conts := w.1.conts, credits := w.1.credits } = w.1 ∧
          t.credits = w.1.credits ++ credit w.2.2.1)) ∧
    (∀ core n k o, opComplete core n s = some (k, o) → (kget s.conts k).isSome = true →
      let err := accErrOf (s.cont k) o
      ∃ t, exec (.matrixCompletion core n) s = .next t ∧ kget (t.cont k).mq n = none ∧ t.mem = s.mem ∧
        (o.quiet = true → { t with conts := s.conts } = s) ∧
        (o.quiet = false → (kget s.groups o.grp).isSome = true →
          (t.grp o.grp).oc = (((s.grp o.grp).noteOp 3 o.op (opScope o)).doneOp 3 o.op).oc ∧
          (t.grp o.grp).res = kput (s.grp o.grp).res 1 ((kget (s.grp o.grp).res 1).getD 0 - 1) ∧
          (t.grp o.grp).q1 = (s.grp o.grp).q1 ++
            [⟨BitVec.ofNat 64 (o.tag * 2 ^ 48 + o.flags.toNat * 2 ^ 8 + o.status % 256), if err.isSome then 2 else 0,
              BitVec.ofNat 64 (err.getD 0)⟩]))

/-- Command blocks, the beginning of a command, its moves and its spans (R296 to R307, R423). That the copy counter retires
with a command whose CNT could not be read, and that a marked entry names no block, are the model's choices (log entries 133,
134). -/
def Obligations.CommandEvents : Prop :=
  ∀ (s : State),
    (∀ g q p, headPush (s.grp g) q = some p → (kget s.groups g).isSome = true →
      let pt := partyOf s g
      let c := mkCmd q g pt ((s.dev pt.d).ctxOf pt.asid).gen (s.teamOf g).cls 0 p
      let rd (n : Nat) : Blk := readBlk s pt (grpCore s g) (valSp p.val) (valAddr p.val) n
      let makes (y : Cmd) : Prop :=
        let left (G : Group) : Group := if q = 2 then { G with q2 := G.q2.drop 1 } else { G with q6 := G.q6.drop 1 }
        ∃ t, exec (.commandBlockRead g q) s = .next t ∧
          { t with groups := s.groups, cmds := s.cmds, uid := s.uid } = s ∧ t.uid = s.uid + 1 ∧
          t.cmds = kput s.cmds s.uid y ∧ (∀ j, j ≠ g → kget t.groups j = kget s.groups j) ∧
          t.grp g = if y.cnt then left (s.grp g) else (left (s.grp g)).doneOp 2 p.op
      let opens (ws : List Dword) (bad : List Nat) : Prop :=
        let w0 := (ws[0]?).getD 0#64
        let n := if 0 ∈ bad ∨ (bf w0 3 0 = 0 ∧ 3 ∈ bad) then 64 else blockLen w0 ((ws[3]?).getD 0#64)
        (rd n = .fault → makes ((c.take ws bad).ends 0x08 0 0)) ∧
        (∀ b vs bad', rd n = .poison b vs bad' →
          makes ((c.take vs bad').ends 0x0C (BitVec.ofNat 64 (valAddr p.val)) b.mark)) ∧
        (∀ vs, rd n = .ok vs →
          let x := c.take vs []
          (ckBlock q x ≠ 0 → makes (x.ends (ckBlock q x) 0 0)) ∧
          (ckBlock q x = 0 → makes { x with
            stage := if x.opc ∈ [0, 1, 2, 5] then .block else .run, begun := decide (x.opc ∉ [0, 1, 2, 5]) }))
      (p.mark ≠ 0 → makes (c.ends 0x0C 0 p.mark)) ∧
      (p.mark = 0 → valOk p.val = false → makes (c.ends 0x01 0 0)) ∧
      (p.mark = 0 → valOk p.val = true →
        (rd 64 = .fault → makes (c.ends 0x08 0 0)) ∧ (∀ ws, rd 64 = .ok ws → opens ws []) ∧
        (∀ b ws bad, rd 64 = .poison b ws bad → opens ws bad))) ∧
    (∀ u c x, kget s.cmds u = some c → c.src = 0 → c.stage = .queued → loadCmd s 0 none c = some x →
      exec (.commandBlockRead u 0) s = .next { s with cmds := kput s.cmds u x }) ∧
    (∀ u c n i, kget s.cmds u = some c → c.stage = .block → (c.opc = 0 → c.blk ≠ []) → beginReady s u c = true →
      (c.opc, i) ∈ [(0, Instr.copy u n), (1, .read u), (2, .write u), (5, .reduce u n)] →
      (placesOff (beScan s c) = true → exec i s = .next { s with cmds := kput s.cmds u (c.ends 0x01 0 0) }) ∧
      (∀ x, placesOff (beScan s c) = false → placesLost (beScan s c) = some x →
        ∃ t y, exec i s = .next t ∧ kget t.cmds u = some y ∧ y.stage = .faulted ∧ y.begun = c.begun ∧ t.groups = s.groups) ∧
      (placesOff (beScan s c) = false → placesLost (beScan s c) = none →
        ∃ t, exec i s = .next t ∧ { t with cmds := s.cmds, groups := s.groups } = s ∧
          (c.cbe = false ∨ c.opc ≠ 0 → t.groups = s.groups) ∧
          (c.opc = 0 → c.cbe = true → (kget s.groups c.grp).isSome = true → ∀ k < 64,
            (rget (t.grp c.grp).cb c.cbk).getLsbD k =
              ((c.rs && (rget (s.grp c.grp).cb c.cbk).getLsbD k) || decide (c.total ≤ k * c.chunk))) ∧
          t.cmds = kput s.cmds u
            (if rangesIn s c c.srcAll = false then (c.fail 0x0A 0 0).stop
             else if rangesIn s c c.dstAll = false then (c.fail 0x0B 0 0).stop
             else { c with stage := .run, begun := true }))) ∧
    (∀ u c n, kget s.cmds u = some c → c.opc = 0 → c.blk ≠ [] → c.stage = .run →
      let r := planMove s c (moveUnits c n) 0
      let j := joinMoves r.1
      r.2.1 ≠ 0 ∨ (∃ x, r.2.2 = some x ∧ x ≠ .wait) →
      ∃ t y, exec (.copy u n) s = .next t ∧ kget t.cmds u = some y ∧
        y.next = c.next + r.2.1 ∧ y.flags = c.flags ||| j.2.2.1 ∧ y.blk = c.blk ∧ y.cnt = c.cnt ∧ y.grp = c.grp ∧
        (∀ k va pe tp, r.2.2 = some (.fault k va pe tp) → y.stage = .faulted) ∧
        (∀ k, r.2.2 = some (.out k) → y.stage = .finished) ∧
        (r.2.2 = none ∨ r.2.2 = some .wait →
          y.stage = if c.total / c.unit ≤ c.next + r.2.1 then CStage.finished else CStage.run) ∧
        (∀ b, j.2.2.2.1 = some b → statusRank y.status ≤ 2) ∧
        (c.ssp ≠ 0 → c.dsp ≠ 0 → Safe s → (j.1.map ECell.key).Nodup → (∀ x ∈ j.1, gkSpace x.key ∉ [4, 8]) →
          (∀ a, a ∉ j.1.map ECell.key → memGet t.mem a = memGet s.mem a) ∧
          ∀ x ∈ j.1, (∀ z ∈ j.1, z.key / 32 = x.key / 32 → z.mark = 0) → kget s.psn (x.key / 32) = none →
            memGet t.mem x.key = x.val)) ∧
    (∀ u c i, kget s.cmds u = some c → c.stage = .run → (c.opc, i) ∈ [(1, Instr.read u), (2, .write u)] →
      (moveStop s c = none →
        ∃ t y, exec i s = .next t ∧ kget t.cmds u = some y ∧ y.next = c.next + c.moveLen ∧
          (y.stage = if (c.w 3).toNat ≤ c.next + c.moveLen then CStage.finished else CStage.run) ∧
          ∃ n x, y.spans = kput c.spans n x ∧ s.uid ≤ n ∧ x.fails = 0 ∧ x.bad = false ∧ x.els = []) ∧
      (∀ k, moveStop s c = some (.out k) →
        exec i s = .next { s with cmds := kput s.cmds u (c.fail (0x0A + k) 0 0).stop }) ∧
      (∀ k va p f, moveStop s c = some (.fault k va p f) →
        ∃ t y, exec i s = .next t ∧ kget t.cmds u = some y ∧ y.stage = .faulted ∧ y.next = c.next ∧ t.groups = s.groups)) ∧
    (∀ u c n x, u ≠ 0 → kget s.cmds u = some c → kget c.spans n = some x →
      (cellSectors x.cells).all (engSectorFree s c.party) = true →
      exec (.spanTimeout u n) s = exec (.spanTagCheck u n false) s ∧
      (∃ t y, exec (.spanTagCheck u n true) s = .next t ∧ kget t.cmds u = some y ∧ kget y.spans n = none ∧
        y.stage = c.stage ∧ y.next = c.next) ∧
      (x.fails < 7 → ∃ t y z, exec (.spanTagCheck u n false) s = .next t ∧ kget t.cmds u = some y ∧
        kget y.spans n = some z ∧ z.fails = x.fails + 1 ∧ z.cells = x.cells ∧ z.bad = true ∧ y.stage = c.stage ∧
        y.next = c.next) ∧
      (7 ≤ x.fails → ∃ t y, exec (.spanTagCheck u n false) s = .next t ∧ kget t.cmds u = some y ∧
        kget y.spans n = none ∧ y.stage = .finished ∧ (c.status = 0 → y.status = 0x0D))) ∧
    (∀ n k w, farEntry s n = some (k, w) → lineReady s k w = true → farSectors w ≠ [] →
      exec (.spanTagCheck 0 n true) s = .next s ∧
      exec (.spanTimeout 0 n) s = exec (.spanTagCheck 0 n false) s ∧
      ∃ t, exec (.spanTagCheck 0 n false) s = .next t ∧ t.mem = s.mem ∧ ∀ c, (t.core c).wp = (s.core c).wp)

/-- Remote commands (R304 to R306, R351) and completion (R298, R299). -/
def Obligations.RemoteCommandEvents : Prop :=
  ∀ (s : State) (u : Nat) (c : Cmd), kget s.cmds u = some c →
    let m := 2 ^ tyWidth c.ty
    let failed (old : Nat) (fl : Flags) (r : Option (Nat × Nat)) (va : Dword) (n : Nat) (x : Cmd) : Cmd := match r with
      | some e => { x with next := n }.fail e.1 va e.2
      | none => { x with next := n, ret := if c.opc = 5 then x.ret else BitVec.ofNat 64 old, flags := x.flags ||| fl, scope := 4 }
    let single (i : Instr) (f : Nat → Option (Nat × Flags)) : Prop :=
      let r := remoteAtom c (c.w 1).toNat (tyWidth c.ty / 8) f s
      c.stage = .run → inOrder s u c = true → remoteFree s c (c.w 1).toNat = true →
        (c.opc = 3 ∧ c.arg / 512 % 2 = 1) ∨ atomOrder s u c = true →
        ∃ t, exec i s = .next t ∧ { t with cmds := s.cmds } = { r.1 with cmds := s.cmds } ∧
          kget t.cmds u = some (failed r.2.1 r.2.2.1 r.2.2.2 (c.w 1) c.next c).stop
    (c.opc = 3 → single (.commandAtom u) fun o => some (atomVal c.fn c.ty o (c.operand % m))) ∧
    (c.opc = 4 → single (.commandCas u) fun o =>
      if o = (c.w 3).toNat % m then some ((c.w 2).toNat % m, 0#6) else none) ∧
    (c.stage = .run → c.opc = 5 →
      let r := reduceSrc s c
      let at_ := reduceDst c
      (∀ n k, firstStop s c.party 1 0 [r] = some (.out k) →
        exec (.reduce u n) s = .next { s with cmds := kput s.cmds u (c.fail (0x0A + k) 0 0).stop }) ∧
      (∀ n, firstStop s c.party 1 0 [r] = none → remoteFree s c at_ = true →
        ∃ t y, exec (.reduce u n) s = .next t ∧ kget t.cmds u = some y ∧ y.blk = c.blk ∧
          c.next < y.next ∧ y.next ≤ c.next + max 1 n) ∧
      (∀ n, n ≤ 1 → firstStop s c.party 1 0 [r] = none → remoteFree s c at_ = true →
        let bs := engBytes s c.party none r
        let v := engTouch c.party r s
        let w := remoteAtom c at_ (tyWidth c.ty / 8) (fun o => some (atomVal c.fn c.ty o (ebNat bs))) v
        let ends (x : Cmd) : Cmd := if (c.w 3).toNat ≤ x.next then x.stop else x
        ∃ t, exec (.reduce u n) s = .next t ∧
          (∀ b, ebBad bs = some b → { t with cmds := s.cmds } = { v with cmds := s.cmds } ∧
            kget t.cmds u = some (ends ({ c with next := c.next + 1 }.fail 0x0C (c.w 1) b.mark))) ∧
          (ebBad bs = none → { t with cmds := s.cmds } = { w.1 with cmds := s.cmds } ∧
            kget t.cmds u = some (ends (failed w.2.1 w.2.2.1 w.2.2.2 (c.w 1) (c.next + 1) c))))) ∧
    (let t := (s.dev c.d).tenant c.p
     let size := (c.w 1).toNat
     let z := zoneOf c.arg
     let ch := chargesOf z.1 size
     c.stage = .run → c.opc = 6 → inOrder s u c = true → switchesKnown s c.d (ch.map Prod.fst) = true →
     let no : Prop := (∃ x ∈ ch, s.swLost x.1 = false ∧ quotaOk s t x = false) ∨ firstFit size z.2 (usedIn s c.arg) = none
     (no → exec (.kalloc u) s = .next { s with cmds := kput s.cmds u (c.fail 0x0E 0 0).stop }) ∧
     (¬no → (∃ x ∈ ch, s.swLost x.1 = true) →
       exec (.kalloc u) s = .next { s with cmds := kput s.cmds u (c.fail 0x0F 0 0).stop }) ∧
     (∀ a, ¬no → (∀ x ∈ ch, s.swLost x.1 = false) → firstFit size z.2 (usedIn s c.arg) = some a →
       ∃ v, exec (.kalloc u) s = .next v ∧ { v with cmds := s.cmds, allocs := s.allocs, quota := s.quota } = s ∧
         v.allocs = s.allocs ++ [⟨t, z.1 + a, size, []⟩] ∧
         v.cmds = kput s.cmds u { c with ret := BitVec.ofNat 64 (z.1 + a), stage := .finished } ∧
         a + size ≤ z.2 ∧ (∀ x ∈ usedIn s c.arg, a + size ≤ x.1 ∨ x.1 + x.2 ≤ a) ∧
         ∀ x, ch = [x] → bf (v.quo x.1 t 0) 31 0 = bf (s.quo x.1 t 0) 31 0 + x.2 / 32768 ∧
           bf (v.quo x.1 t 1) 15 0 = bf (s.quo x.1 t 1) 15 0 + 1)) ∧
    (c.stage = .run → c.opc = 7 → inOrder s u c = true →
      let hit (a : Alloc) : Bool := decide (a.tenant = (s.dev c.d).tenant c.p) && decide (a.base = (c.w 1).toNat)
      (s.allocs.find? hit = none →
        exec (.kfree u) s = .next { s with cmds := kput s.cmds u { c with status := 0x01, stage := .finished } }) ∧
      (∀ a, s.allocs.find? hit = some a → ∃ v, exec (.kfree u) s = .next v ∧ v.allocs = s.allocs.erase a ∧
        { v with cmds := s.cmds, allocs := s.allocs, quota := s.quota } = s ∧
        v.cmds = kput s.cmds u { c with stage := .finished })) ∧
    (c.stage = .run → c.opc = 8 → (∀ e ∈ s.cmds, e.1 < u → e.2.src = 2 → e.2.grp ≠ c.grp) →
      exec (.signal u) s = .next { s with
        credits := s.credits ++ [⟨c.team, c.bobj, bf (c.w 1) 31 0, u, none⟩]
        cmds := kput s.cmds u { c with stage := .finished } }) ∧
    (c.stage = .finished → c.src ≠ 4 → c.spans = [] → (∀ x ∈ s.credits, x.cmd ≠ u) → (∀ x ∈ s.mlog, x.op ≠ (u, 0)) →
      ∃ t, exec (.commandCompletion u) s = .next t ∧ t.cmds = kdel s.cmds u ∧ t.mem = s.mem ∧
        (c.reason ≠ 3 → t.devs = s.devs) ∧
        (c.src = 0 → t.groups = s.groups ∧ ∀ n, kget s.nodes c.node = some n → kget t.nodes c.node =
          some { n with status := some (nodeStatus c.status), st := 1 }) ∧
        (c.src ≠ 0 → t.nodes = s.nodes) ∧
        (c.src ≠ 0 → c.quiet = true ∨ kget s.groups c.grp = none → t.groups = s.groups) ∧
        (c.src ≠ 0 → c.quiet = false → (kget s.groups c.grp).isSome = true →
          (∀ g, g ≠ c.grp → kget t.groups g = kget s.groups g) ∧
          (t.grp c.grp).q3 = (s.grp c.grp).q3 ++ cmdRecord c ∧
          (t.grp c.grp).oc = (if c.cnt then (((s.grp c.grp).noteOp 2 c.op c.scope).doneOp 2 c.op).oc else (s.grp c.grp).oc)) ∧
        (c.status = 0 → c.nt = false → c.rv = false → cmdRecord c = []) ∧
        (c.status ≠ 0 → c.rv = false → ∃ e, cmdRecord c = [e] ∧ e.va = c.paddr ∧
          e.val = BitVec.ofNat 64 (c.tag * 2 ^ 48 + c.flags.toNat * 2 ^ 8 + c.status % 256)))

/-- Tasks (R308 to R310) and inbound requests (R335 to R341). Where a target places the arguments, that a marked entry names
no packet, and that a lost target keeps the status of a packet back, are the model's choices (log entries 13, 134, 137). -/
def Obligations.TaskAndInboundEvents : Prop :=
  ∀ (s : State),
    (∀ g p c, g ≠ s.uid → kget s.cmds g = none → (kget s.groups g).isSome = true → (s.grp g).q4.head? = some p →
      let pt := partyOf s g
      taskRead s (grpCore s g) { mkCmd 4 g pt ((s.dev pt.d).ctxOf pt.asid).gen (s.teamOf g).cls 0 p with cnt := true } = some c →
      let ten := (s.dev c.d).tenant c.p
      let sends (y : Cmd) (r : State → Prop) : Prop := ∃ t, exec (.taskPacketSend g) s = .next t ∧
        { t with cmds := s.cmds, groups := s.groups, uid := s.uid, devs := s.devs } = s ∧ t.uid = s.uid + 1 ∧
        t.cmds = kput s.cmds s.uid y ∧ (∀ j, j ≠ g → kget t.groups j = kget s.groups j) ∧
        t.grp g = { s.grp g with q4 := (s.grp g).q4.drop 1 } ∧ r t
      let same (t : State) : Prop := t.devs = s.devs
      (c.stage ≠ .block → sends c same) ∧
      (c.stage = .block →
        (taskSess s c.d ten c.target = none → sends { c with status := 0x12, stage := .replied } same) ∧
        (∀ x, taskSess s c.d ten c.target = some x →
          (kget s.devs c.target = none ∨ (s.dev c.d).lostPeer.contains c.target = true →
            sends { c with status := 0x0F, stage := .replied } same) ∧
          ((s.dev c.d).lostPeer.contains c.target = false → (kget s.devs c.target).isSome = true →
            let y : Cmd := { c with blk := c.blk.set 1 (BitVec.ofNat 64 x.nextSeq) }
            let m := taskAuth x.key y
            sends { y with
                blk := (y.blk.set 10 (m.extractLsb' 0 64)).set 11 (m.extractLsb' 64 64), stage := .run } fun t =>
              (kget s.devs c.d).isSome = true → kget (t.dev c.d).sess (sessKey ten c.target) =
                some { x with nextSeq := x.nextSeq + 1 })))) ∧
    (∀ u c x, u ≠ s.uid → kget s.cmds u = some c → c.src = 4 → c.stage = .queued → taskRead s none c = some x →
      ∃ t y, exec (.taskPacketSend u) s = .next t ∧ t.groups = s.groups ∧ t.mem = s.mem ∧ kget t.cmds u = some y ∧
        (x.stage ≠ .block → y = x) ∧ (x.stage = .block → y.stage = .run ∨ (y.stage = .replied ∧ y.status ∈ [0x0F, 0x12]))) ∧
    (∀ u c, kget s.cmds u = some c → c.src = 4 → c.stage = .run →
      let n := c.target
      let t := (s.dev c.d).tenant c.p
      let replied (st : Nat) : Prop := exec (.taskPacketArrival u) s =
        .next { s with cmds := kput s.cmds u { c with status := st, stage := .replied } }
      let accepts (v : State) (x : Sess) : Prop :=
        (kget s.devs n).isSome = true → kget (v.dev n).sess (sessKey t c.d) = some (seqTake x (c.w 1).toNat)
      ((s.dev c.d).lostPeer.contains n = true → replied 0x0F) ∧
      ((s.dev c.d).lostPeer.contains n = false →
        (taskSess s n t c.d = none → replied 0x10) ∧
        (∀ x, taskSess s n t c.d = some x →
          (taskAuth x.key c ≠ (c.w 11 ++ c.w 10 : BitVec 128) ∨ (c.w 1).toNat ∈ x.seen ∧ (c.w 1).toNat ≤ x.high ∨
            (c.w 1).toNat + 64 ≤ x.high → replied 0x10) ∧
          (taskAuth x.key c = (c.w 11 ++ c.w 10 : BitVec 128) →
            x.high < (c.w 1).toNat ∨ (x.high < (c.w 1).toNat + 64 ∧ (c.w 1).toNat ∉ x.seen) →
            let code (p : Nat) := (s.dev n).codes.find? fun e => decide (e.1 = c.codeHash) && decide (e.2.1 = p)
            (tenantPart s n t = none ∨ (∃ p, tenantPart s n t = some p ∧ code p = none) →
              ∃ v, exec (.taskPacketArrival u) s = .next v ∧ { v with cmds := s.cmds, devs := s.devs } = s ∧ accepts v x ∧
                v.cmds = kput s.cmds u { c with status := 0x11, stage := .replied }) ∧
            (∀ p e, tenantPart s n t = some p → code p = some e →
              let pt : Party := ⟨n, p, e.2.2.1, 0⟩
              let dst := engChk s pt 6 0 (taskPlace u) c.alen
              (∃ ps, dst = .glob ps) → engFree s pt 6 dst = true →
              ∃ v l, exec (.taskPacketArrival u) s = .next v ∧ accepts v x ∧
                v.cmds = kput s.cmds u { c with launch := v.uid - 1, stage := .tagged } ∧
                v.launches = kput s.launches (v.uid - 1) l ∧ l.d = n ∧ l.p = p ∧ l.asid = e.2.2.1 ∧
                l.task = some u ∧ l.daddr = e.2.2.2 ∧ l.nteams = c.nteams ∧ l.args = BitVec.ofNat 64 (taskPlace u) ∧
                l.placed = 0 ∧ (v.part n p).launchq = (s.part n p).launchq ++ [v.uid - 1]))))) ∧
    (∀ u c, kget s.cmds u = some c → c.src = 4 → c.stage = .replied →
      targetStatus c.status = false ∨ (s.dev c.d).lostPeer.contains c.target = false →
      ∃ t, exec (.taskRecord u) s = .next t ∧ t.cmds = kdel s.cmds u ∧ t.mem = s.mem ∧
        (c.grp = 0 → t.groups = s.groups ∧ ∀ n, kget s.nodes c.node = some n →
          kget t.nodes c.node = some { n with status := some (nodeStatus c.status), st := 1 }) ∧
        (c.grp ≠ 0 → c.quiet = true ∨ kget s.groups c.grp = none → t = { s with cmds := kdel s.cmds u }) ∧
        (c.grp ≠ 0 → c.quiet = false → (kget s.groups c.grp).isSome = true →
          (∀ g, g ≠ c.grp → kget t.groups g = kget s.groups g) ∧
          (t.grp c.grp).oc = (((s.grp c.grp).noteOp 2 c.op 4).doneOp 2 c.op).oc ∧
          ∃ e rest, (t.grp c.grp).q5 = (s.grp c.grp).q5 ++ e :: rest ∧ e.val.toNat % 256 = c.status % 256 ∧
            (c.blk ≠ [] ∧ c.taskRv = true → rest.map QEntry.val = [if c.status = 0 then c.ret else 0]) ∧
            (c.blk = [] ∨ c.taskRv = false → rest = []))) ∧
    (∀ d p src sp w off k len coh data,
      let v := cacheWindow d p src w s
      let at_ (j : Nat) : Option Place := inboundPlace v d p src sp w off k len coh j
      let i : Instr := .inboundRequest d p src sp w off k len coh data
      inboundFree s d p src sp w off k len coh = true →
      (admitted s d p src sp w off len (inboundPerm k) = none → exec i s = .next { s with outData := [] }) ∧
      (∀ base, admitted s d p src sp w off len (inboundPerm k) = some base →
        (k = 0 → ∃ t, exec i s = .next t ∧ t.mem = s.mem ∧ t.credits = s.credits ∧
          ((s.dev d).lockout = true → t.outData = []) ∧
          ((s.dev d).lockout = false → (∀ j < len, ∃ x, at_ j = some x ∧ (homeByte v x).2 = 0) →
            t.outData = (List.range len).map fun j => match at_ j with | some x => (homeByte v x).1 | none => 0#8) ∧
          ((∃ j < len, at_ j = none ∨ ∃ x, at_ j = some x ∧ (homeByte v x).2 ≠ 0) → t.outData = [])) ∧
        (k = 1 ∨ k = 2 → data.length = len → coh = false → Safe s →
          (∀ j < len, ∃ x, at_ j = some x ∧ kget s.psn (x.key / 32) = none) →
          (∀ a b x y, a < len → b < len → at_ a = some x → at_ b = some y → x.key = y.key → a = b) →
          ∃ t, exec i s = .next t ∧ t.outData = [] ∧
            t.credits = s.credits ++ (if k = 2 ∧ len ≠ 0 then inboundCredit v d p src w len else []) ∧
            (∀ (j : Nat) (x : Place) (b : Byte), at_ j = some x → data[j]? = some b → memGet t.mem x.key = b) ∧
            ∀ a, (∀ j x, j < len → at_ j = some x → x.key ≠ a) → memGet t.mem a = memGet s.mem a) ∧
        (k = 547 → ∃ t, exec i s = .next t ∧ t.outData = [] ∧ t.credits = s.credits) ∧
        (k = 548 → ∃ t, exec i s = .next t ∧ t.outData = [] ∧ t.credits = s.credits ∧ t.mem = s.mem) ∧
        (inboundPerm k = 3 → at_ 0 = none → ∃ t, exec i s = .next t ∧ t.outData = [] ∧ t.mem = s.mem) ∧
        (∀ x, inboundPerm k = 3 → at_ 0 = some x → coh = false → Safe s → x.key % 32 + len ≤ 32 → gkSpace x.key ≠ 4 →
          kget s.psn (x.key / 32) = none →
          ∃ t, exec i s = .next t ∧
            t.outData = (if (s.dev d).lockout then [] else leBytes (memLe s.mem x.key len) len) ∧
            (∀ b, inboundAtom k len data (memLe s.mem x.key len) = some b → memLe t.mem x.key len = b % 2 ^ (8 * len)) ∧
            (inboundAtom k len data (memLe s.mem x.key len) = none → memLe t.mem x.key len = memLe s.mem x.key len) ∧
            ∀ a, a < x.key ∨ x.key + len ≤ a → memGet t.mem a = memGet s.mem a)))

/-- The stitcher (R311, R346 to R350, R400). That a marked value is discarded and counted is the model's choice (log entry
134). -/
def Obligations.GraphEvents : Prop :=
  ∀ (s : State),
    (∀ g x rest, (s.grp g).q7 = x :: rest → (kget s.groups g).isSome = true →
      let v := x.val
      let pt : Party := { partyOf s g with team := 0 }
      let r := s.modGrp g fun G => { G with q7 := rest }
      let blk (u : State) : Blk := readBlk u pt (grpCore u g) 0 (valAddr v) 64
      let n : GNode := ⟨pt.d, pt.p, pt.asid, ((s.dev pt.d).ctxOf pt.asid).gen, (s.dev pt.d).asidVif pt.asid,
        BitVec.ofNat 64 (valAddr v), (s.teamOf g).cls, 0, 0, 0, 0, none, g⟩
      let popped (t : State) : Prop := exec (.graphRootPush g) s = .next t ∧
        (∀ j, j ≠ g → kget t.groups j = kget s.groups j) ∧ t.grp g = { s.grp g with q7 := rest }
      (x.mark ≠ 0 ∨ bf v 5 0 ≠ 0 ∨ (blk s ≠ .wait ∧ ∀ ws, blk r ≠ .ok ws) →
        ∃ t, popped t ∧ { t with groups := s.groups, cores := s.cores } = s) ∧
      (∀ ws, x.mark = 0 → bf v 5 0 = 0 → blk s ≠ .wait → blk r = .ok ws →
        let good : Prop := ((s.dev pt.d).vifOf n.vif).en = true ∧ bf (nw ws 0) 63 32 = 0
        ∃ t, popped t ∧ { t with groups := s.groups, nodes := s.nodes, parts := s.parts, uid := s.uid } = s ∧
          t.uid = s.uid + 1 ∧
          (good → t.nodes = kput s.nodes s.uid n ∧
            t.part pt.d pt.p = { s.part pt.d pt.p with walkq := (s.part pt.d pt.p).walkq ++ [s.uid] }) ∧
          (¬good → t.nodes = kput s.nodes s.uid { n with status := some 0x10, st := 1 } ∧ t.parts = s.parts))) ∧
    (∀ d p u n rest, (s.part d p).walkq = u :: rest → kget s.nodes u = some n → u < s.uid → nodeDue s d p = true →
      let s1 : State := s.modPart d p fun q => { q with walkq := rest }
      let r := readOwn s1 n
      ((∀ ws, r ≠ .ok ws) →
        ∃ t, exec (.nodeReady d p) s = .next t ∧ { t with nodes := s.nodes } = s1 ∧
          t.nodes = kput s.nodes u { n with st := 1, status := some 0x10 }) ∧
      (∀ ws, r = .ok ws →
        let kind := bf (nw ws 0) 3 0
        (headBad n.addr.toNat ws = true ∨ bodyBad s1 n ws = true →
          ∃ t, exec (.nodeReady d p) s = .next t ∧ { t with nodes := s.nodes } = s1 ∧
            t.nodes = kput s.nodes u { n with st := 1, kind := kind, status := some 0x10 }) ∧
        (headBad n.addr.toNat ws = false → bodyBad s1 n ws = false →
          let handled (t : State) (x : GNode) : Prop := exec (.nodeReady d p) s = .next t ∧ kget t.nodes u = some x ∧
            ∀ j, j ≠ u → j < s.uid → kget t.nodes j = kget s.nodes j
          let newCmd (src : Nat) : Cmd := mkCmd src 0 n.party n.gen (capClass s n (bf (nw ws 0) 10 8)) u ⟨nw ws 4, 0, [], 0⟩
          (kind = 0 → ∃ t, handled t { n with st := 1, kind := 0 } ∧ t.uid = s.uid + 1 ∧
            t.launches = kput s.launches s.uid { blankLaunch with
              d := n.d, p := n.p, asid := n.asid, node := u, naddr := n.addr, daddr := nw ws 4, nteams := bf (nw ws 6) 31 0,
              args := nw ws 5, cls := bf (nw ws 0) 10 8, top := n.cls, gen := 0, ready := s.uid } ∧
            (t.part n.d n.p).launchq = (s1.part n.d n.p).launchq ++ [s.uid]) ∧
          (kind = 1 → ∃ t, handled t { n with st := 1, kind := 1 } ∧ kget t.cmds s.uid = some (newCmd 0)) ∧
          (kind = 2 → ∃ t, handled t { n with st := 1, kind := 2 } ∧ kget t.cmds s.uid = some (newCmd 4)) ∧
          (kind = 3 → ∃ t st, handled t { n with st := 1, kind := 3, status := some st } ∧
            st ∈ [0x02, 0x49, 0x4B, 0x4D, 0x4F]) ∧
          (kind = 4 → ∃ t, handled t { n with st := 2, kind := 4 }) ∧
          (kind = 5 → ∃ t x, handled t { n with st := 1, kind := 5 } ∧ kget t.nodes s.uid = some x ∧
            x.addr = nw ws 4 ∧ x.sub = u ∧ x.depth = n.depth + 1 ∧ x.d = n.d ∧ x.p = n.p ∧ x.asid = n.asid ∧ x.cls = n.cls ∧
            ((x.status = none ∧ s.uid ∈ (t.part n.d n.p).walkq) ∨ x.status = some 0x10))))) ∧
    (∀ d p u n st, nodeDone? s d p = some (u, n, st) →
      ∃ t, exec (.nodeCompletion d p) s = .next t ∧ kget t.nodes u = none ∧ t.launches = s.launches ∧
        t.groups = s.groups ∧
        (st ≠ 0x02 → t.nodes = kdel s.nodes u ∧ (t.part n.d n.p).walkq = (s.part n.d n.p).walkq) ∧
        (∀ j, j ≠ u → j < s.uid → kget t.nodes j = kget s.nodes j) ∧
        ∀ j x, kget t.nodes j = some x → kget s.nodes j = some x ∨
          (x.status = none ∧ x.st = 0 ∧ x.d = n.d ∧ x.p = n.p ∧ x.asid = n.asid ∧ x.cls = n.cls ∧ x.depth = n.depth ∧
            x.sub = n.sub ∧ j ∈ (t.part n.d n.p).walkq)) ∧
    (∀ d vif pt ws, (kget s.devs d).isSome = true → armedDue s d vif = true → armedRead s d vif = some (pt, ws) →
      ∃ t, exec (.armedLineReread d vif) s = .next t ∧ ((t.dev d).vifOf vif).held = true ∧
        ((t.dev d).vifOf vif).arm = ((s.dev d).vifOf vif).arm ∧ t.launches = s.launches ∧ t.groups = s.groups ∧
        (nw ws 0 = 0#64 → t.mem = s.mem ∧ t.nodes = s.nodes) ∧
        (∀ x, nw ws 0 ≠ 0#64 → kget t.nodes s.uid = some x → x ∈ s.nodes.map Prod.snd ∨
          (x.d = d ∧ x.p = pt.p ∧ x.asid = pt.asid ∧ x.vif = vif ∧ x.addr = nw ws 0 ∧ x.cls = 8 ∧
            (x.status = some 0x10 ∨ (x.status = none ∧ s.uid ∈ (t.part d pt.p).walkq))))) ∧
    (∀ d vif (v : BitVec 64), (kget s.devs d).isSome = true →
      let y : Vif := { (s.dev d).vifOf vif with arm := v &&& 0x01FFFFFFFFFFFF00#64, held := false }
      ∃ t, exec (.armaddrWrite d vif v) s = .next t ∧
        { t with devs := s.devs, tags := s.tags, edirty := s.edirty } = s ∧
        (((s.dev d).vifOf vif).held = false → t.tags = s.tags ∧ t.edirty = s.edirty) ∧
        (∀ j, j ≠ d → kget t.devs j = kget s.devs j) ∧
        t.dev d = { s.dev d with vif := kput (s.dev d).vif vif y })

/-- Banks and images (R39, R41, R261, R369, R375 to R384, R402, R408). Which cores swap as one, when images are resumed, and
what the bytes of a save-area slot read as are the model's choices (log entries 140, 90). -/
def Obligations.BankAndImageEvents : Prop :=
  ∀ (s : State) (core : Nat),
    let c := s.core core
    let slen (k : Nat) : Dword := (s.part (k / 256) (s.partOfCore k)).slen.zeroExtend 64
    (∀ b, c.swap = some b → swapReady s core = true →
      ∃ t, exec (.bankSwap core) s = .next t ∧ t.mem = s.mem ∧ t.conts = s.conts ∧
        (∀ k, kget (swapUnit s core b) k = none → (t.core k).act = (s.core k).act ∧ (t.core k).swap = (s.core k).swap ∧
          (t.core k).b0 = (s.core k).b0 ∧ (t.core k).b1 = (s.core k).b1 ∧ (t.core k).store = (s.core k).store) ∧
        ∀ k x, x < 2 → kget (swapUnit s core b) k = some x →
          let o := s.core k
          let n := t.core k
          n.act = x ∧ n.swap = none ∧ (n.bank x).cont = (o.bank x).cont ∧ (n.bank (1 - x)).cont = (o.bank (1 - x)).cont ∧
          (o.act = 1 - x →
            (n.bank x).st = (if (o.bank x).st = .empty then BankSt.empty else BankSt.active) ∧
            (n.bank (1 - x)).st = (if (o.bank (1 - x)).st = .active then BankSt.inactive else (o.bank (1 - x)).st) ∧
            n.store = (if o.store = (o.bank x).cont then 0 else o.store) ∧ rget n.ts x = slen k)) ∧
    (∀ b, b < 2 → c.act = b → bf (rget c.ts b) 31 0 ≠ 0 →
      let o := c.bank (1 - b)
      let goes : Prop := o.st ≠ .empty ∧ unitHere s o.cont = true ∧ contClass s (c.bank b).cont ≤ contClass s o.cont
      ∃ t, exec (.sliceExpiry core b) s = .next t ∧ { t with cores := s.cores } = s ∧
        (goes → t.core core = { c with ts := kput c.ts b (1#64 <<< 63), swap := some (1 - b) } ∧
          ∀ k, k ≠ core → { t.core k with swap := (s.core k).swap } = s.core k ∧
            (kget (swapUnit s core (1 - b)) k = none → t.core k = s.core k)) ∧
        (¬goes → t.core core = { c with ts := kput c.ts b (slen core) } ∧ ∀ k, k ≠ core → t.core k = s.core k)) ∧
    (∀ b, b < 2 →
      let others (t : State) : Prop := ∀ k, k ≠ core → t.core k = s.core k
      ((c.bank b).st = .inactive → c.store = 0 →
        ∃ t, exec (.spillStart core b) s = .next t ∧ { t with cores := s.cores } = s ∧ others t ∧
          t.core core = { c.setBank b ⟨.spilling, (c.bank b).cont⟩ with store := (c.bank b).cont }) ∧
      ((c.bank b).st = .spilling → opRunning s (c.bank b).cont = false → accessesOpen s (c.bank b).cont = false →
        ∃ t, exec (.spillComplete core b) s = .next t ∧ { t with cores := s.cores } = s ∧ others t ∧
          t.core core = c.setBank b ⟨.clean, (c.bank b).cont⟩) ∧
      (fillStarts s core b = true →
        ∃ t, exec (.fill core b) s = .next t ∧ { t with cores := s.cores } = s ∧ others t ∧
          t.core core = c.setBank b ⟨.filling, c.store⟩) ∧
      ((c.bank b).st = .filling → (s.cont c.store).last = core → (kget s.conts c.store).isSome = true →
        ∃ t, exec (.fill core b) s = .next t ∧ { t with cores := s.cores, conts := s.conts } = s ∧
          (t.core core).bank b = ⟨.inactive, c.store⟩ ∧ (t.core core).bank (1 - b) = c.bank (1 - b) ∧
          (t.core core).store = 0 ∧ t.cont c.store = { s.cont c.store with loc := .bank core b, last := core } ∧
          ∀ k, k ≠ core → { t.core k with swap := (s.core k).swap } = s.core k) ∧
      ((c.bank b).st = .filling → (s.cont c.store).last ≠ core → wpReady s (s.cont c.store).last = true →
        mirrorsDone s c.store = true → (kget s.conts c.store).isSome = true →
        ∃ t, exec (.fill core b) s = .next t ∧ (t.core core).bank b = ⟨.inactive, c.store⟩ ∧ (t.core core).store = 0 ∧
          t.cont c.store = { s.cont c.store with loc := .bank core b, last := core } ∧
          (t.core (s.cont c.store).last).wp = [])) ∧
    (∀ i, copyOutSlot s core = some i → (kget s.conts c.store).isSome = true →
      let x := s.cont c.store
      ∃ t, exec (.imageCopyOut core) s = .next t ∧ { t with cores := s.cores, conts := s.conts, psn := s.psn } = s ∧
        t.core core = { c with store := 0 } ∧ t.cont c.store = { x with loc := .slot i } ∧
        (∀ k y, kget s.conts k = some y → y.d = x.d → y.asid = x.asid → y.loc ≠ .slot i) ∧
        i < bf ((s.dev x.d).ctxOf x.asid).save 15 0 ∧
        ∀ a, a < slotBase s x i / 32 ∨ (slotBase s x i + imageSize) / 32 ≤ a → kget t.psn a = kget s.psn a) ∧
    (∀ k, copyInOk s k core = true →
      ∃ t, exec (.imageCopyIn k core) s = .next t ∧ { t with cores := s.cores, conts := s.conts } = s ∧
        t.core core = { c with store := k } ∧ t.cont k = { s.cont k with loc := .store core } ∧
        (∀ j, j ≠ core → t.core j = s.core j) ∧ ∀ j, j ≠ k → kget t.conts j = kget s.conts j)

/-- Contexts (R366, R367, R395, R396, R428 to R430). What of a context runs on after its end, and how internal links are
numbered and repaired, are the model's choices (log entries 141, 142). -/
def Obligations.ContextEvents : Prop :=
  ∀ (s : State) (d a : Nat), (kget s.devs d).isSome = true →
    let v := s.dev d
    let x := v.ctxOf a
    let context (t : State) (y : Ctx) : Prop := { t with devs := s.devs } = s ∧ { t.dev d with ctx := v.ctx } = v ∧
      (t.dev d).ctxOf a = y ∧ (∀ j, j ≠ a → (t.dev d).ctxOf j = v.ctxOf j) ∧ ∀ j, j ≠ d → t.dev j = s.dev j
    (∃ t, exec (.kill d a) s = .next t ∧ context t { x with stat := x.stat ||| (1#64 <<< 62) }) ∧
    (x.stat.getLsbD 62 = true → ∃ t, exec (.contextEnd d a) s = .next t ∧
      (∀ k c, kget t.conts k = some c → c.d = d → c.asid = a → c.over = true) ∧
      (∀ k l, kget t.launches k = some l → ¬(l.d = d ∧ l.asid = a)) ∧
      (∀ e ∈ (t.part d (v.asidPart a)).fents, e.asid ≠ a) ∧
      (∀ u n, kget s.nodes u = some n → n.d = d → n.asid = a → n.gen = x.gen → n.st ≠ 0 →
        (n.kind = 0 → n.status = none → kget t.nodes u = some { n with status := some 0x14, st := 1 }) ∧
        (n.status ≠ none → kget t.nodes u = some n)) ∧
      (t.dev d).irqs = v.irqs ++ [(v.asidVif a + 1, 0)] ∧ ((t.dev d).ctxOf a).gen = x.gen + 1 ∧
      (x.stat.getLsbD 63 = false → ((t.dev d).ctxOf a).stat = BitVec.ofNat 64 (2 ^ 63 + 3 * 2 ^ 38) ∧
        ((t.dev d).ctxOf a).va = 0#64) ∧
      (x.stat.getLsbD 63 = true → ((t.dev d).ctxOf a).stat = x.stat &&& ~~~(1#64 <<< 62) ∧
        ((t.dev d).ctxOf a).va = x.va)) ∧
    (v.audEn = true →
      (lostLinks s d = [] → lostOf v.ilost = [] →
        ∃ t, exec (.audit d) s = .next t ∧ { t with devs := s.devs } = s ∧ t.dev d = v) ∧
      (∀ g k, lostLinks s d = [(true, g, k)] → lostOf v.ilost = [] → (kget s.groups g).isSome = true →
        ∃ t, exec (.audit d) s = .next t ∧ (t.dev d).audMis = v.audMis + 1 ∧ t.mem = s.mem ∧
          kget (t.grp g).lost k = none ∧ (t.grp g).lostRep = (s.grp g).lostRep ++ [k] ∧
          (k = 1 → (t.grp g).q1 = []) ∧ (k = 2 → (t.grp g).q2 = []) ∧ (k = 3 → (t.grp g).q3 = []) ∧
          (k = 4 → (t.grp g).q4 = []) ∧ (k = 5 → (t.grp g).q5 = []) ∧ (k = 6 → (t.grp g).q6 = []) ∧
          (k = 7 → (t.grp g).q7 = []) ∧
          ∀ u c, kget s.cmds u = some c → c.grp = g → c.src ∈ linkSources k →
            kget t.cmds u = some { c with quiet := true }) ∧
      (∀ p link, lostLinks s d = [] → lostOf v.ilost = [16 * link + p] → p < 16 → link ≠ 32 →
        ∃ t, exec (.audit d) s = .next t ∧ (t.dev d).audMis = v.audMis + 1 ∧ (t.dev d).ilost = kdel v.ilost (16 * link + p) ∧
          t.mem = s.mem ∧ ∀ u c, kget s.cmds u = some c → innerSources s d p link (u, c) = true →
            kget t.cmds u = some { c with quiet := true } ∧
            (t.grp c.grp).lostRep = (s.grp c.grp).lostRep ++ [0x100 + link])) ∧
    (∀ w : BitVec 64, w.getLsbD 63 = true →
      (x.migctl.getLsbD 63 = true → ∃ t, exec (.migctlGo d a w) s = .next t ∧ context t { x with
        migctl := (w &&& 0x0003FFFFF8000000#64) ||| (x.migctl &&& 0x8000000000000007#64) }) ∧
      (x.migctl.getLsbD 63 = false → ∃ t, exec (.migctlGo d a w) s = .next t ∧
        { t with devs := s.devs, cores := s.cores, conts := s.conts } = s ∧ frozen t d a = true ∧
        (t.dev d).ctxOf a = { x with mdst := w, migctl := ((t.dev d).ctxOf a).migctl } ∧
        ((t.dev d).ctxOf a).migctl &&& 0x0003FFFFF8000000#64 = w &&& 0x0003FFFFF8000000#64 ∧
        (bf ((t.dev d).ctxOf a).migctl 2 0 = 1 ∨ bf ((t.dev d).ctxOf a).migctl 2 0 = 2) ∧
        (∀ k, k ∉ contsOfCtx s d a → kget t.conts k = kget s.conts k) ∧
        (∀ k ∈ contsOfCtx s d a, opRunning s k = false → k ∈ unsent s d a →
          (t.cont k).loc = .moving (bf w 49 40) (bf w 39 36) (bf w 35 27) k) ∧
        ((∀ k ∈ contsOfCtx s d a, opRunning s k = false) → bf ((t.dev d).ctxOf a).migctl 2 0 = 2))) ∧
    (x.migctl.getLsbD 63 = true →
      ((∀ k ∈ unsent s d a, opRunning s k = false) → destOk s d a = true →
        ∃ t, exec (.tenantMoveComplete d a) s = .next t ∧
          (∀ k y, kget t.conts k = some y → y.over = true ∨ ¬(y.d = d ∧ y.asid = a)) ∧
          (∀ k ∈ contsOfCtx s d a, (t.cont k).d = x.dnode ∧ (t.cont k).p = x.dpart ∧ (t.cont k).asid = x.dasid ∧
            ∃ i, (t.cont k).loc = .slot i) ∧
          frozen t d a = false ∧ bf ((t.dev d).ctxOf a).migctl 2 0 = 3 ∧ t.mem = s.mem) ∧
      (destOk s d a = false →
        ∃ t, exec (.tenantMoveFailed d a) s = .next t ∧ frozen t d a = false ∧
          (∀ k, (kget t.conts k).map (fun y => { y with loc := .slot 0, relTime := 0 }) =
            (kget s.conts k).map (fun y => { y with loc := .slot 0, relTime := 0 })) ∧
          bf ((t.dev d).ctxOf a).migctl 2 0 = 4 ∧ { t with conts := s.conts, devs := s.devs } = s))

/-- Links, peers, switches and extents (R416, R420 to R422, R424, R426, R427). That a LINK_RETRAIN event stands for one
failed retrain, and that time counts in nanoseconds, are the model's readings (log entries 60, 5). -/
def Obligations.FabricEvents : Prop :=
  ∀ (s : State) (d : Nat), (kget s.devs d).isSome = true → Memory.wf s.mem = true →
    let v := s.dev d
    (∀ plane, plane < 64 →
      let x := v.link plane
      (∀ seq room e2e, ∃ t, exec (.packetReceive d plane seq room e2e) s = .next t ∧ { t with devs := s.devs } = s ∧
        { t.dev d with links := v.links, placed := v.placed } = v ∧ (∀ q, q ≠ plane → (t.dev d).link q = v.link q) ∧
        (x.expect = seq → room = true → (t.dev d).link plane = { x with expect := x.expect + 1, nak := false } ∧
          ∀ n, n ∈ (t.dev d).placed ↔ n = e2e ∨ n ∈ v.placed) ∧
        (x.expect ≠ seq ∨ room = false →
          (t.dev d).link plane = { x with nak := true } ∧ (t.dev d).placed = v.placed)) ∧
      (∀ seq, ∃ t, exec (.acknowledgement d plane seq) s = .next t ∧ { t with devs := s.devs } = s ∧
        { t.dev d with links := v.links } = v ∧ (∀ q, q ≠ plane → (t.dev d).link q = v.link q) ∧
        ((x.send - x.acked).toNat ≤ (seq - x.acked).toNat → (t.dev d).link plane = x) ∧
        ((seq - x.acked).toNat < (x.send - x.acked).toNat →
          { (t.dev d).link plane with buf := x.buf } = { x with acked := seq + 1, retrains := [] } ∧
          ∀ n, n ∈ ((t.dev d).link plane).buf ↔ n ∈ x.buf ∧ (seq - x.acked).toNat < (n - x.acked).toNat)) ∧
      (∀ seq, ∃ t, exec (.negativeAcknowledgement d plane seq) s = .next t ∧ { t with devs := s.devs } = s ∧ t.dev d = v) ∧
      (v.planes.getLsbD plane = true → ∃ t, exec (.linkRetrain d plane) s = .next t ∧ { t with devs := s.devs } = s ∧
        ((x.recent s.time.toNat).length < 2 → (t.dev d).planes = v.planes ∧
          (t.dev d).link plane = { x with retrains := s.time.toNat :: x.recent s.time.toNat } ∧
          ∀ q, q ≠ plane → (t.dev d).link q = v.link q) ∧
        (2 ≤ (x.recent s.time.toNat).length →
          let up := v.planes &&& ~~~(1#64 <<< plane)
          (t.dev d).planes = up ∧ (t.dev d).link plane = { x with retrains := [], acked := x.send, buf := [] } ∧
          ∀ q, q ≠ plane → let y := v.link q
            (t.dev d).link q = if fallback { v with planes := up } plane = some q then
              { y with send := y.send + BitVec.ofNat 16 x.buf.length
                       buf := y.buf ++ (List.range x.buf.length).map fun i => y.send + BitVec.ofNat 16 i } else y))) ∧
    (∀ q, q ≠ d → ∃ t, exec (.peerUnreachable d q) s = .next t ∧
      (∀ n, n ∈ (t.dev d).lostPeer ↔ n = q ∨ n ∈ v.lostPeer) ∧
      (∀ u c, kget s.cmds u = some c → c.d = d → c.src = 4 → c.stage = .run → c.target = q → c.spans = [] →
        kget t.cmds u = some { c with status := 0x0F, stage := .replied }) ∧
      (s.home = [] → t.mem = s.mem ∧
        ∀ line, gkSpace (line * 256) = 0 → gkDev (line * 256) = d → lineKind s line = 3 ∨ lineKind s line = 4 →
          let w := rget s.tags line
          (tagST w = 3 ∨ tagST w = 4 → tagOWN w = q → rget t.tags line = w ||| (1#32 <<< 23)) ∧
          (tagST w = 1 → tagOWN w = q → tagSEC w = q → rget t.tags line = tagHHbit w) ∧
          (tagST w = 2 → tagOWN w = q → rget t.tags line = tagHHbit w))) ∧
    (∀ q, v.lostPeer.contains q = true → ∃ t, exec (.peerAdmitted d q) s = .next t ∧ { t with devs := s.devs } = s ∧
      { t.dev d with lostPeer := v.lostPeer } = v ∧ ∀ n, n ∈ (t.dev d).lostPeer ↔ n ∈ v.lostPeer ∧ n ≠ q) ∧
    (∀ n u, s.mlog[n]? = some u → mirrorTurn s n = true → ∃ t, exec (.mirrorUpdate n) s = .next t ∧
      t.mlog.length + 1 = s.mlog.length ∧
      (∀ k b, u.cells = [(k, b)] → kget s.psn (k / 32) = none → memGet t.mem k = b ∧
        ∀ a, a ≠ k → memGet t.mem a = memGet s.mem a)) ∧
    (∀ w, w < 64 → ∃ t, exec (.switchLoss d w) s = .next t ∧ t.swLost w = true ∧
      (∀ n, n ∈ (t.dev d).lostSw ↔ n = w ∨ n ∈ v.lostSw) ∧
      (s.swLost w = true → t.mem = s.mem ∧ t.allocs = s.allocs) ∧
      (s.swLost w = false → s.mlog = [] → t.mem = s.mem ∧
        t.allocs = s.allocs.map fun a => if allocOn a w && !a.gone.contains w then { a with gone := w :: a.gone } else a)) ∧
    (∀ w rows, s.swLost w = true → ∃ t, exec (.switchReturn w rows) s = .next t ∧ t.swLost w = false ∧
      (∀ n, n ∈ (t.dev d).lostSw ↔ n ∈ v.lostSw ∧ n ≠ w) ∧ t.allocs = s.allocs ∧
      (∀ r x, rows = [(r, x)] → r < 16384 → kget t.quota (qkey w 0 0 + r) = some x) ∧
      ∀ k, memGet t.mem k = if gk 5 0 w 0 ≤ k ∧ k < gk 5 0 (w + 1) 0 then 0#8 else memGet s.mem k) ∧
    (v.fit = true → ∀ p tenant base len,
      ∃ t, exec (.dcAddExtent d p tenant base len) s = .next t ∧ { t with devs := s.devs } = s ∧
        { t.dev d with dc := v.dc } = v ∧
        (extentOk v p tenant base len = true → ∀ k, kget (t.dev d).dc k =
          if k = freeExtent v then some ⟨p, tenant, base, len, false⟩ else kget v.dc k) ∧
        (extentOk v p tenant base len = false → (t.dev d).dc = v.dc)) ∧
    (∀ n e, kget v.dc n = some e →
      (∃ t, exec (.dcReleaseRequest d n) s = .next t ∧ { t with devs := s.devs } = s ∧ { t.dev d with dc := v.dc } = v ∧
        ∀ k, kget (t.dev d).dc k = if k = n then some { e with releasing := true } else kget v.dc k) ∧
      (e.releasing = true → extentIdle s d e = true → ∃ t, exec (.dcReleaseResponse d n) s = .next t ∧
        { t.dev d with dc := v.dc } = v ∧ (∀ k, kget (t.dev d).dc k = if k = n then none else kget v.dc k) ∧
        ∀ k, memGet t.mem k =
          if gk 0 d e.p e.base ≤ k ∧ k < gk 0 d e.p (e.base + e.len) then 0#8 else memGet s.mem k))

/-- Host ports, clears, throttle steps, the layout and register writes (R342 to R345, R434, R435, R437, R460). The order
in which PREPARE judges its checks, and what a second indication or a jump of the step does to what follows, are the model's
(log entries 62 and 149). -/
def Obligations.HostAndLayoutEvents : Prop :=
  ∀ (s : State) (d : Nat), (kget s.devs d).isSome = true → Memory.wf s.mem = true →
    let v := s.dev d
    (∀ n, n < 4 →
      let port (i : Instr) (f : HostPort → HostPort) : Prop := ∃ t, exec i s = .next t ∧ { t with devs := s.devs } = s ∧
        { t.dev d with host := v.host } = v ∧ (t.dev d).port n = f (v.port n) ∧ ∀ m, m ≠ n → (t.dev d).port m = v.port m
      port (.viralIndication d n) (fun h => { h with viral := true, resetSeen := false }) ∧
      port (.cxlReset d n) (fun h => { h with resetSeen := h.viral }) ∧
      port (.viralClear d n) (fun h => if h.resetSeen then { h with viral := false, resetSeen := false } else h) ∧
      ∀ up, port (.hostLinkTrained d n up) (fun h => { h with up := up })) ∧
    (∀ p (x : BitVec 64), x.getLsbD 63 = true →
      let q := s.part d p
      let line := x &&& 0x00FFFFFFFFFFFF00#64
      (q.lgo = true → ∃ t, exec (.lineclrGo d p x) s = .next t ∧ { t with parts := s.parts } = s ∧
        t.part d p = { q with lline := line, lerr := true }) ∧
      (q.lgo = false → v.capacity p < line.toNat + 256 → ∃ t, exec (.lineclrGo d p x) s = .next t ∧
        { t with parts := s.parts } = s ∧ t.part d p = { q with lline := line, lerr := true }) ∧
      (q.lgo = false → line.toNat + 256 ≤ v.capacity p → ∃ t h, exec (.lineclrGo d p x) s = .next t ∧
        { t with parts := s.parts, home := s.home } = s ∧ (t.part d p).lgo = true ∧ (t.part d p).lline = line ∧
        kget t.home (gk 0 d p line.toNat / 256) = some h ∧
        (kget s.home (gk 0 d p line.toNat / 256) = none → h.kind = .clear ∧ h.waiting = []) ∧
        ∀ h0, kget s.home (gk 0 d p line.toNat / 256) = some h0 → h = { h0 with waiting := h0.waiting ++ [(.clear, d)] })) ∧
    (∀ p, clearReady s d p = true →
      ∃ t, exec (.lineClearDone d p) s = .next t ∧ (t.part d p).lgo = false ∧ (t.part d p).lline = (s.part d p).lline ∧
        (∀ k, memGet t.mem k = if k / 256 = clearLine s d p then 0#8 else memGet s.mem k) ∧
        ((∀ h, kget s.home (clearLine s d p) = some h → h.waiting = []) →
          rget t.tags (clearLine s d p) = 0#32 ∧ kget t.home (clearLine s d p) = none)) ∧
    (let step (i : Instr) (n : Nat) (cause : BitVec 3) (temp : BitVec 8) (last : Option Nat) : Prop :=
       ∃ t, exec i s = .next t ∧ { t with devs := s.devs } = s ∧
         t.dev d = { v with step := n, thCause := cause, thTemp := temp, thAt := last }
     let now := s.time.toNat
     let free : Prop := ∀ last, v.thAt = some last → last + 100000 ≤ now
     (∀ power hot temp, power = true ∨ hot = true → free ∨ 5 ≤ v.step → step (.throttleStepUp d power hot temp)
       (if v.step < 5 then v.step + 1 else 5) (if power then (if hot then 3 else 1) else 2) temp
       (if v.step < 5 then some now else v.thAt)) ∧
     (∀ power (temp : BitVec 8), 110 ≤ temp.toNat →
       step (.throttleToFloor d power temp) 5 (if power then 3 else 2) temp v.thAt) ∧
     (∀ temp : BitVec 8, temp.toNat ≤ 95 → v.step ≠ 0 → free →
       step (.throttleStepDown d temp) (v.step - 1) (if v.step = 1 then 0 else v.thCause) temp (some now)) ∧
     (∀ last temp, v.thAt = some last → now < last + 100000 → v.step < 5 →
       exec (.throttleStepUp d true true temp) s = .refused (.notEnabled "THROTTLE_STEP_UP") ∧
       exec (.throttleStepDown d temp) s = .refused (.notEnabled "THROTTLE_STEP_DOWN")) ∧
     (v.step ≤ 5 → ∃ t, exec (.clockChange d) s = .next t ∧ t = s)) ∧
    (v.bootDone = true →
      (∃ t, exec (.prepare d) s = .next t ∧ { t with devs := s.devs } = s ∧
        { t.dev d with phase := v.phase, layErr := v.layErr } = v ∧
        ((t.dev d).phase = true ↔ layFieldsOk v v.shadow = true ∧ overlapOk v.shadow = true ∧ sumsOk v.shadow = true ∧
          coresOk v v.shadow = true ∧ ∀ p, p < 16 → v.changing p = true → partIdle s d p = true) ∧
        ((t.dev d).phase = true ↔ (t.dev d).layErr = 0)) ∧
      (∃ t, exec (.commit d) s = .next t ∧ (v.applied = true → { t with devs := s.devs } = s) ∧
        (v.phase = false → (t.dev d).layErr = 6 ∧ (t.dev d).sel = v.sel ∧ (t.dev d).applied = true ∧ (t.dev d).lay = v.lay) ∧
        (v.phase = true → (t.dev d).sel = !v.sel ∧ (t.dev d).applied = false ∧ (t.dev d).phase = false ∧
          (t.dev d).layErr = 0 ∧ (t.dev d).lay = v.shadow ∧ (t.dev d).shadow = v.lay)) ∧
      (∃ t, exec (.abort d) s = .next t ∧ { t with devs := s.devs } = s ∧ t.dev d = { v with phase := false })) ∧
    (v.applied = false → ∃ t, exec (.layoutApplied d) s = .next t ∧ (t.dev d).applied = true ∧
      { t.dev d with applied := false } = v ∧ (v.shadow = v.lay → t.mem = s.mem)) ∧
    (∀ off (x : BitVec 64), off < 336 → ∃ t, exec (.shadowWrite d off x) s = .next t ∧
      (v.applied = true → { t with devs := s.devs } = s) ∧ (t.dev d).phase = false ∧ (t.dev d).lay = v.lay ∧
      (off < 208 → (t.dev d).shadow.core off = x.extractLsb' 0 16) ∧
      (208 ≤ off → (t.dev d).shadow.row ((off - 208) / 8) ((off - 208) % 8) = x)) ∧
    (∃ t, exec (.watchdogReset d) s = .next t ∧ (t.dev d).phase = false ∧ (t.dev d).sel = v.sel ∧
      (t.dev d).applied = true ∧ (t.dev d).lay = v.lay ∧ (t.dev d).shadow = v.lay) ∧
    (∀ p sp off (x : BitVec 64), sp ≤ 4 → regOwn s d p sp off x = false →
      ∃ t, exec (.registerWrite d p sp off x) s = .next t ∧ t.mem = s.mem ∧ t.groups = s.groups ∧
        (sp = 0 → v.partOk p = true → off % 8 = 0 → 0x2000 ≤ off → off < 0x4000 →
          t.part d p = { s.part d p with folio := kput (s.part d p).folio ((off - 0x2000) / 8) x }) ∧
        (sp = 2 → off < 2048 → rget (t.dev d).asid off = x ∧ ∀ i, i ≠ off → rget (t.dev d).asid i = rget v.asid i) ∧
        (sp = 4 → p < 64 → off < 16384 → t = { s with quota := kput s.quota (qkey p 0 0 + off) x }) ∧
        (∀ a, a < 512 → sp = 0 → v.partOk p = true → v.ownsAsid p a = true →
          (off = 0x10000 + 64 * a + 0x18 → ((t.dev d).ctxOf a).cap = x.extractLsb' 0 3) ∧
          (off = 0x10000 + 64 * a → ((t.dev d).ctxOf a).stat =
            (if x.getLsbD 63 then (v.ctxOf a).stat &&& ~~~(1#64 <<< 63) else (v.ctxOf a).stat) |||
              (if x.getLsbD 62 then 1#64 <<< 62 else 0#64))))

/-- Boot, SPDM and the alarm (R438 to R443). The order in which the requests of a session come is the model's (log
entry 65). -/
def Obligations.BootAndSpdmEvents : Prop :=
  ∀ (s : State) (d : Nat), (kget s.devs d).isSome = true → Memory.wf s.mem = true →
    let v := s.dev d
    (∃ t, exec (.powerOnReset d) s = .next t ∧
      (∀ p off, off < 2 ^ 52 → p < 16 → memGet t.mem (gk 0 d p off) = 0#8) ∧
      (t.dev d).fuse = v.fuse ∧ (t.dev d).keyHash = v.keyHash ∧ (t.dev d).minSvn = v.minSvn ∧
      (∀ p, (t.dev d).partOk p = false) ∧ (t.dev d).lockout = false ∧ (t.dev d).applied = true ∧
      (t.dev d).phase = false ∧ (t.dev d).alarmCfg = 0x85#64 ∧ (∀ k, 2 ≤ k → rget (t.dev d).meas k = 0#384) ∧
      (∀ k, k / 16 = d → kget t.parts k = none) ∧ (∀ k, k / 256 = d → kget t.cores k = none) ∧
      (t.dev d).t0 = s.time ∧ t.time = s.time ∧ (∀ j, j ≠ d → t.dev j = s.dev j) ∧ ∀ k c, kget t.cmds k = some c → c.d ≠ d) ∧
    (v.bootFail ≠ 0#4 → ∀ img, ∃ t, exec (.recoveryImage d img) s = .next t ∧ { t with devs := s.devs } = s ∧
      t.dev d = { v with recov := img }) ∧
    (let ask (i : Instr) (ok : Prop) (f : Dev → Prop) : Prop :=
       v.bootDone = true → ∃ t, exec i s = .next t ∧ { t with devs := s.devs } = s ∧
         (ok → v.lockout = false → f (t.dev d)) ∧
         (v.lockout = true ∨ ¬ok → t.dev d = { v with spdmOut := spdmError })
     let same (w : Dev) : Prop := { w with spdmOut := v.spdmOut } = v
     let up (n : Nat) : Prop := ∃ x, kget v.spdm n = some x ∧ x.ready = true
     ask (.getVersion d) True (fun w => w.spdmVer = 1 ∧ w.spdmAlg = false ∧ w.spdm = v.spdm) ∧
     ask (.getCapabilities d) (v.spdmVer = 1) (fun w => same { w with spdmVer := v.spdmVer } ∧ w.spdmVer = 2) ∧
     (∀ b, ask (.negotiateAlgorithms d b) (v.spdmVer = 2 ∧ b = true)
       (fun w => same { w with spdmAlg := v.spdmAlg } ∧ w.spdmAlg = true)) ∧
     ask (.getDigests d) (v.spdmAlg = true) same ∧
     (∀ slot, ask (.getCertificate d slot) (v.spdmAlg = true ∧ slot = 0) same) ∧
     (∀ nonce, ask (.challenge d nonce) (v.spdmAlg = true ∧ v.attKey = true) same) ∧
     (∀ (idx : BitVec 8) nonce,
       ask (.getMeasurements d idx nonce)
         (v.spdmAlg = true ∧ v.attKey = true ∧ (idx = 0xFF#8 ∨ (1 ≤ idx.toNat ∧ idx.toNat ≤ 16)))
         (fun w => same w ∧ (idx ≠ 0xFF#8 →
           ∃ rest, w.spdmOut = leBytes (rget v.meas (idx.toNat - 1)).toNat 48 ++ rest))) ∧
     (∀ pub, ask (.keyExchange d pub) (v.spdmAlg = true ∧ v.attKey = true ∧ v.spdm.length < 64)
       (fun w => ∃ n x, kget w.spdm n = some x ∧ x.ready = false ∧ ∀ m, m ≠ n → kget w.spdm m = kget v.spdm m)) ∧
     (∀ n, ask (.keyUpdate d n) (up n)
       (fun w => ∀ x, kget v.spdm n = some x → ∃ y, kget w.spdm n = some y ∧ y.updates = x.updates + 1)) ∧
     (∀ n, ask (.heartbeat d n) (up n)
       (fun w => ∀ x, kget v.spdm n = some x → kget w.spdm n = some { x with beats := x.beats + 1 })) ∧
     (∀ n, ask (.endSession d n) (up n)
       (fun w => kget w.spdm n = none ∧ ∀ m, m ≠ n → kget w.spdm m = kget v.spdm m)) ∧
     (∀ n stream key, ask (.ideKm d n stream key) (up n)
       (fun w => kget w.ide stream = some key ∧ ∀ m, m ≠ stream → kget w.ide m = kget v.ide m))) ∧
    (v.bootDone = true → ∀ n proof, ∃ t, exec (.finish d n proof) s = .next t ∧ t.mem = s.mem ∧
      ((t.dev d).spdm = v.spdm ∨ kget (t.dev d).spdm n = none ∨ ∃ x, kget (t.dev d).spdm n = some x ∧ x.ready = true) ∧
      (∀ m, m ≠ n → kget (t.dev d).spdm m = kget v.spdm m) ∧
      (kget v.spdm n = none → kget (t.dev d).spdm n = none ∧ (t.dev d).spdmOut = spdmError)) ∧
    (∀ k, k < 4 → ∃ t, exec (.sensorTrip d k) s = .next t ∧
      (t.dev d).alarmStat = v.alarmStat ||| (1#4 <<< k) ∧
      (t.dev d).irqs.take (v.irqs.length + 1) = v.irqs ++ [(0, 0)] ∧
      (∀ j, j ≠ 15 → rget (t.dev d).meas j = rget v.meas j) ∧
      (let pol := bf v.alarmCfg (2 * k + 1) (2 * k)
       (pol = 0 → (t.dev d).spdm = v.spdm ∧ (t.dev d).ide = v.ide ∧ (t.dev d).sess = v.sess) ∧
       (1 ≤ pol → (t.dev d).spdm = [] ∧ (t.dev d).ide = [] ∧ (t.dev d).sess = []) ∧
       (pol < 2 → (t.dev d).lockout = v.lockout ∧ (t.dev d).attKey = v.attKey ∧ t.conts = s.conts) ∧
       (2 ≤ pol → (t.dev d).lockout = true ∧ (t.dev d).attKey = false ∧ ∀ j x, kget t.conts j = some x → x.d ≠ d ∨ x.over = true)))

/-- Scalar registers (R165). -/
def Obligations.ScalarRegistersRule : Prop :=
  (∀ s : State, rs s 0 = 0#64) ∧
  (∀ (e : Pfx) (x : BitVec 14) (w : BitVec 1) (s : State), CanIssue s →
    ∃ t, exec (.smovi e x 0#7 w) s = .next t ∧ OnlyGroup s t ∧ LanesGo s.cur.mask s.nextPc s.g t.g ∧
      ∀ c, (∀ l, t.g.rdS l c 0 = 0#64) ∧
        (kget t.g.copies c = none ∨ ∀ r, rget (t.g.copyOf c).s r = rget (s.g.copyOf c).s r)) ∧
  (∀ (d p : Nat) (s t : State) (g : Nat) (G : Group), exec (.teamPlacement d p) s = .next t → kget s.groups g = none →
    kget t.groups g = some G → ∀ c, (G.copyOf c).cc = 0#4 ∧ ∀ l r, G.rdS l c r = 0#64) ∧
  ∀ (e : Pfx) (d : BitVec 6), Simple (.getid e 15#9 0#6 d) fun s => { sws := [(d.toNat, (s.launchOf s.cur.grp).args)] }

/-- GBAR outside a kernel with a grid barrier (R42). -/
def Obligations.GridBarrierNeedsDeclaration : Prop :=
  ∀ (e : Pfx) (s : State), CanIssue s → (s.launchOf s.cur.grp).desc.gs = false →
    ∃ t, exec (.gbar e) s = .next t ∧
      (s.g.thand ≠ 0#57 → s.g.frame = none → t.launches = s.launches ∧ t.mem = s.mem ∧
        ∃ f, t.g.frame = some f ∧ f.cause = 0x5B#8 ∧ f.treta = s.cur.pc) ∧
      (s.g.thand = 0#57 ∨ s.g.frame ≠ none →
        (∀ k L, kget t.launches k = some L → (k, L) ∈ s.launches) ∧
        t = endContext s (s.contOf s.cur.grp).d (s.contOf s.cur.grp).asid 0x5B (if s.g.frame.isSome then 1 else 2)
          ((s.dev (s.contOf s.cur.grp).d).logOf (s.coreOf s.cur.grp % 256)) (s.bankOf s.cur.grp) s.g.slot 0#64)

/-- Scalar arithmetic (R165 to R170). `low`, `sgn`: the low w bits of a register, unsigned and signed. -/
def Obligations.ScalarArithmeticResults : Prop :=
  ∀ (e : Pfx) (f : SForm) (i9 : BitVec 9) (i14 : BitVec 14) (a d : BitVec 6) (r : BitVec 7) (w : BitVec 1),
    let low (t x : Nat) : Nat := x % 2 ^ tyWidth t
    let sgn (t x : Nat) : Int := sextNat (tyWidth t) x
    let val (t x : Nat) : Int := if tySigned t then sgn t x else (low t x : Int)
    let out (t : Nat) (v : Int) : Bool := decide (v < -(2 ^ (tyWidth t - 1)) ∨ 2 ^ (tyWidth t - 1) - 1 < v)
    let flags (t : Nat) (v : Int) (c o : Bool) : BitVec 4 :=
      let x := wrapNat (tyWidth t) v
      ccOf (decide (x / 2 ^ (tyWidth t - 1) % 2 = 1)) (decide (x = 0)) c o
    let put (t d : Nat) (v : Int) (c o : Bool) : Res :=
      let x := wrapNat (tyWidth t) v
      { sws := [(d, BitVec.ofNat 64 (if tySigned t then wrapNat 64 (sgn t x) else x))], cc := some (flags t v c o) }
    let form (i : Instr) (g : Nat → Nat → Nat → Res) : Prop :=
      Simple i fun s => g (effTy i) (rs s f.a.toNat).toNat (rs s f.b.toNat).toNat
    let plain (i : Instr) (v : Nat → Nat → Nat → Int) : Prop := form i fun t x y => put t f.d.toNat (v t x y) false false
    form (.sadd e f) (fun t x y => put t f.d.toNat (val t x + val t y)
      (decide (2 ^ tyWidth t ≤ low t x + low t y)) (out t (sgn t x + sgn t y))) ∧
    form (.ssub e f) (fun t x y => put t f.d.toNat (val t x - val t y)
      (decide (low t y ≤ low t x)) (out t (sgn t x - sgn t y))) ∧
    form (.smul e f) (fun t x y => put t f.d.toNat (val t x * val t y) false
      (decide (val t x * val t y < minT t ∨ maxT t < val t x * val t y))) ∧
    plain (.sand e f) (fun _ x y => ((x &&& y : Nat) : Int)) ∧
    plain (.sor e f) (fun _ x y => ((x ||| y : Nat) : Int)) ∧
    plain (.sxor e f) (fun _ x y => ((x ^^^ y : Nat) : Int)) ∧
    plain (.sshl e f) (fun _ x y => ((x * 2 ^ (y % 256) : Nat) : Int)) ∧
    plain (.sshr e f) (fun t x y => ((low t x / 2 ^ (y % 256) : Nat) : Int)) ∧
    plain (.ssra e f) (fun t x y => sgn t x / (2 ^ (y % 256) : Int)) ∧
    plain (.smin e f) (fun t x y => min (val t x) (val t y)) ∧
    plain (.smax e f) (fun t x y => max (val t x) (val t y)) ∧
    Simple (.scmp e d a) (fun s =>
      let t := effTy (.scmp e d a)
      let x := (rs s a.toNat).toNat
      let y := (rs s d.toNat).toNat
      { cc := some (flags t (val t x - val t y) (decide (low t y ≤ low t x)) (out t (sgn t x - sgn t y))) }) ∧
    Simple (.saddi e i9 a d w) (fun s =>
      let t := effTy (.saddi e i9 a d w)
      let x := (rs s a.toNat).toNat
      let y := wrapNat 64 (match e.k1 with | some m => (m ++ i9).toInt | none => i9.toInt)
      put t d.toNat (val t x + val t y) (decide (2 ^ tyWidth t ≤ low t x + low t y)) (out t (sgn t x + sgn t y))) ∧
    Simple (.smovi e i14 r w) (fun s =>
      let x : Word := match e.k1 with | some m => m ++ i14.extractLsb' 0 9 | none => i14.signExtend 32
      { sws := [(r.toNat, if e.xo = 1 then x ++ (rs s r.toNat).extractLsb' 0 32 else x.signExtend 64)] })

/-- Predicate logic (R102) and ELECT (R180). -/
def Obligations.PredicateResults : Prop :=
  ∀ (e : Pfx) (b a d : BitVec 6) (b7 a7 d7 : BitVec 7),
    let form (i : Instr) (g : State → Dword) : Prop := Simple i fun s => { pws := [(d.toNat, g s &&& s.g.full)] }
    form (.pand e b a d) (fun s => predVal s a.toNat &&& predVal s b.toNat) ∧
    form (.por e b a d) (fun s => predVal s a.toNat ||| predVal s b.toNat) ∧
    form (.pxor e b a d) (fun s => predVal s a.toNat ^^^ predVal s b.toNat) ∧
    form (.pandn e b a d) (fun s => predVal s a.toNat &&& ~~~(predVal s b.toNat)) ∧
    form (.pnot e a d) (fun s => ~~~(predVal s a.toNat)) ∧
    form (.pset e a d) (fun s => rs s a.toNat) ∧
    Simple (.pget e a d) (fun s => { sws := [(d.toNat, predVal s a.toNat)] }) ∧
    Simple (.elect e b7 a7 d7) (fun s =>
      let j := lowBit (predVal s b7.toNat &&& s.cur.mask)
      { pws := [(d7.toNat, if j < 64 then 1#64 <<< j else 0#64)], sws := [(a7.toNat, BitVec.ofNat 64 j)] })

/-- Indexed registers (R103 to R105). -/
def Obligations.IndexedRegisterResults : Prop :=
  ∀ (e : Pfx) (f : NForm) (b : BitVec 7) (md k p : BitVec 2) (s : State),
    let lanes (u : State) (q : BitVec 2) : List Nat := lanesOf u.g.width (activeMask e q u)
    let sel (u : State) (l : Nat) : IxSel :=
      let x := rget u.g.ix (4 * l + f.a.toNat % 4)
      let j : Int := sextNat 16 (bf x 31 16) + f.b.toInt
      if j < 0 ∨ (bf x 7 0 : Int) ≤ j then .bad
      else if u.g.nregs ≤ bf x 14 8 + j.toNat then .far
      else .reg (bf x 14 8 + j.toNat)
    let rg (u : State) : List (Nat × Nat) :=
      (lanes u f.p).filterMap fun l => match sel u l with | .reg r => some (l, r) | _ => none
    let are (u : State) (x : IxSel) (tl : Dword) : Prop :=
      ∀ l, l < 64 → (tl.getLsbD l = true ↔ l ∈ lanes u f.p ∧ sel u l = x)
    let m : Instr := .movix e f
    let sm : State := landFor ((rg s).map fun x => ⟨x.2, 1, false, false⟩) s
    let x : Instr := .stix e f
    let sx : State := landFor (srcRegs x) s
    let i : Instr := .ixset e b md k p
    let si : State := landFor (srcRegs i) s
    let new (l : Nat) : Word :=
      let old := rget si.g.ix (4 * l + k.toNat)
      let x : Word := BitVec.ofNat 32 (opCount si.g (bOp e b) l)
      if md = 0#2 then x.extractLsb' 16 16 ++ 0#1 ++ x.extractLsb' 8 7 ++ BitVec.ofNat 8 (min (bf x 7 0) 128)
      else if md = 1#2 then x.extractLsb' 0 16 ++ old.extractLsb' 0 16
      else (old.extractLsb' 16 16 + x.extractLsb' 0 16) ++ old.extractLsb' 0 16
    ((∃ l ∈ lanes s f.p, sel s l = .bad) →
      ∃ tl : Dword, are s .bad tl ∧ exec m s = .next (trapNow m 0x40 tl 0 s)) ∧
    ((∀ l ∈ lanes s f.p, sel s l ≠ .bad) → (∃ l ∈ lanes s f.p, sel s l = .far) →
      ∃ tl : Dword, are s .far tl ∧ exec m s = .next (trapNow m 0x5A tl 0 s)) ∧
    ((∀ l ∈ lanes s f.p, ∃ r, sel s l = .reg r) → CanIssue sm → (∀ x ∈ rg s, sm.g.markOf x.1 x.2 = 0) →
      ∃ t, exec m s = .next t ∧
        Wrote m sm t { vws := (rg s).map fun x => (x.1, f.d.toNat, sm.g.rdV x.1 x.2) } sm.nextPc) ∧
    (consumed sx.g (lanes sx f.p) (srcRegs x) = none →
      ((∃ l ∈ lanes sx f.p, sel sx l = .bad) →
        ∃ tl : Dword, are sx .bad tl ∧ exec x s = .next (trapNow x 0x40 tl 0 sx)) ∧
      ((∀ l ∈ lanes sx f.p, sel sx l ≠ .bad) → (∃ l ∈ lanes sx f.p, sel sx l = .far) →
        ∃ tl : Dword, are sx .far tl ∧ exec x s = .next (trapNow x 0x5A tl 0 sx)) ∧
      ((∀ l ∈ lanes sx f.p, ∃ r, sel sx l = .reg r) → CanIssue sx →
        ∃ t, exec x s = .next t ∧ Flow sx t sx.g.copies sx.nextPc ∧
          ∀ n, kget t.g.v n = kget ((rg sx).foldl (fun v x => kput v (vk x.1 x.2) (sx.g.rdV x.1 f.d.toNat)) sx.g.v) n)) ∧
    (consumed si.g (lanes si p) (srcRegs i) = none → CanIssue si →
      ∃ t, exec i s = .next t ∧ OnlyGroup si t ∧ OnlyResults si.g { t.g with ix := si.g.ix } ∧
        t.g.count = si.g.count + 1 ∧
        (∀ l ∈ lanes si p, rget t.g.ix (4 * l + k.toNat) = new l) ∧
        (∀ n, (∀ l ∈ lanes si p, n ≠ 4 * l + k.toNat) → kget t.g.ix n = kget si.g.ix n) ∧
        LanesGo si.cur.mask si.nextPc si.g t.g ∧ t.g.v = si.g.v ∧ t.g.aflags = si.g.aflags)

/-- Control transfers (R172 to R175). -/
def Obligations.ControlTransferResults : Prop :=
  ∀ (e : Pfx) (i16 : BitVec 16) (c : BitVec 5) (sn : BitVec 1) (k : BitVec 4) (i21 : BitVec 21) (a : BitVec 7) (r : BitVec 5),
    let cond (c : Nat) (cc : BitVec 4) : Bool :=
      let n := cc.getLsbD 3; let z := cc.getLsbD 2; let cy := cc.getLsbD 1; let v := cc.getLsbD 0
      ([true, z, !z, n != v, n == v, !z && n == v, z || n != v, !cy, cy, cy && !z, !cy || z, n, !n, v, !v][c]?).getD false
    let at16 (s : State) : Nat :=
      wrapNat 57 ((s.cur.pc.toNat : Int) + 2 * (match e.k1 with | some m => (m ++ i16).toInt | none => i16.toInt))
    let at21 (s : State) : Nat :=
      wrapNat 57 ((s.cur.pc.toNat : Int) + 2 * (match e.k1 with | some m => (m ++ i21).toInt | none => i21.toInt))
    let bit (s : State) : Prop := predVal s k.toNat &&& s.cur.mask ≠ 0#64
    let stays (i : Instr) (when_ : State → Prop) : Prop :=
      ∀ s : State, CanIssue s → when_ s → ∃ t, exec i s = .next t ∧ Wrote i s t {} s.nextPc
    let leaves (i : Instr) (when_ : State → Prop) (tgt : State → Nat) (w : State → Res) : Prop :=
      Goes i when_ tgt w ∧
      ∀ s : State, CanIssue s → when_ s → inCode s s.cur.grp (tgt s) 2 = false →
        ∃ u, Wrote i s u (w s) (BitVec.ofNat 57 (tgt s)) ∧ exec i s = .next (takeTrap s.cur.grp
          { cause := 0x30, tlanes := s.cur.mask, tva := BitVec.ofNat 64 (tgt s), treta := BitVec.ofNat 57 (tgt s / 2 * 2),
            tdest := 0, sub := s.cur.mask, next := BitVec.ofNat 57 (tgt s / 2 * 2), decoded := false, retire := false } u)
    (c.toNat < 15 → leaves (.br e i16 c) (fun s => cond c.toNat s.sc.cc = true) at16 (fun _ => {}) ∧
      stays (.br e i16 c) (fun s => cond c.toNat s.sc.cc = false)) ∧
    leaves (.brp e i16 sn k) (fun s => bit s ↔ sn = 0#1) at16 (fun _ => {}) ∧
    stays (.brp e i16 sn k) (fun s => ¬(bit s ↔ sn = 0#1)) ∧
    leaves (.jmp e i21) (fun _ => True) at21 (fun _ => {}) ∧
    leaves (.call e i21) (fun _ => True) at21 (fun s => { sws := [(63, s.nextPc.zeroExtend 64)] }) ∧
    leaves (.ret e a) (fun _ => True) (fun s => (rs s a.toNat).toNat / 2 * 2) (fun _ => {}) ∧
    stays (.nop e) (fun _ => True) ∧ stays (.nop16 r) (fun _ => True) ∧ stays (.yield e) (fun _ => True)

/-- Divergence of lanes (R177 to R181). A lane that arrives at its meeting address may be held or released (R14, R19): its
program counter and meeting address are as stated all the same. -/
def Obligations.DivergenceResults : Prop :=
  ∀ (e : Pfx) (f : BitVec 6) (q : BitVec 4) (i11 : BitVec 11) (a : BitVec 7) (i21 : BitVec 21) (s : State), CanIssue s →
    let off (d : Int) : Nat := wrapNat 57 ((s.cur.pc.toNat : Int) + 2 * d)
    let lanes (G H : Group) (m : Nat → Dword) (p : Nat → BitVec 57) : Prop :=
      ∀ l, (kget H.lanes l).map (fun x => (x.meet, x.pc)) =
        (kget G.lanes l).map (fun x => if s.cur.mask.getLsbD l then (m l, p l) else (x.meet, x.pc))
    let rest (G H : Group) : Prop :=
      { H with lanes := G.lanes, copies := G.copies, win := G.win, past := G.past, count := G.count, v := G.v, pz := G.pz,
               pend := G.pend, xmask := G.xmask, blocks := G.blocks } = G ∧
      CopiesAre G.copies H ∧ H.count = G.count + 1
    (∃ t, exec (.split e f q i11) s = .next t ∧ OnlyGroup s t ∧ rest s.g t.g ∧
      lanes s.g t.g (fun _ => BitVec.ofNat 64 (off (match e.k1 with | some m => m.toInt | none => 0)))
        (fun l => if (predVal s q.toNat).getLsbD l then BitVec.ofNat 57 (off i11.toInt) else s.nextPc) ∧
      ∀ l r, l < s.g.width → r < 128 →
        rget t.g.v (vk l r) =
          if s.cur.mask.getLsbD l ∧ r = 2 * f.toNat then (s.g.lane l).meet.extractLsb' 0 32
          else if s.cur.mask.getLsbD l ∧ r = 2 * f.toNat + 1 then (s.g.lane l).meet.extractLsb' 32 32
          else rget s.g.v (vk l r)) ∧
    (let i : Instr := .join e a
     let u : State := landFor (srcRegs i) s
     consumed u.g (lanesOf u.g.width s.cur.mask) (srcRegs i) = none → CanIssue u →
      ∃ t, exec i s = .next t ∧ OnlyGroup u t ∧ rest u.g t.g ∧ t.g.v = u.g.v ∧
        lanes u.g t.g (fun l => BitVec.ofNat 64 (u.g.rdWords l a.toNat 2)) (fun _ => s.nextPc)) ∧
    (∃ t, exec (.meetset e i21) s = .next t ∧ OnlyGroup s t ∧ rest s.g t.g ∧ t.g.v = s.g.v ∧
      lanes s.g t.g
        (fun _ => BitVec.ofNat 64 (off (match e.k1 with | some m => (m ++ i21).toInt | none => i21.toInt)))
        (fun _ => s.nextPc)) ∧
    (∃ u, exec (.exit e) s = .next (gbarCheck (s.teamOf s.cur.grp).launch u) ∧ OnlyGroup s u ∧ rest s.g u.g ∧
      u.g.v = s.g.v ∧ u.g.xmask = s.cur.mask ∧
      (∀ l, (kget u.g.lanes l).map (fun x => (x.meet, x.pc)) = (kget s.g.lanes l).map (fun x => (x.meet, x.pc))) ∧
      ∀ l x, s.cur.mask.getLsbD l = true → kget u.g.lanes l = some x → x.st = .exited)

/-- The queue instructions (R286 to R295). Their field A is 0 or 1 (R289, R290): any other value is refused at decode. A
push that finds no room, or stands behind a blocked push, waits; its operations have entered their counter (R353). -/
def Obligations.QueueInstructionResults : Prop :=
  ∀ (e : Pfx) (f : NForm) (b d : BitVec 7), f.a = 0#7 ∨ f.a = 1#7 →
    let push : Instr := .qpush e f
    let pop : Instr := .qpop e f
    let try_ : Instr := .qtry e f
    let k : Nat := f.d.toNat
    let n : Nat := tyWords (effTy pop)
    let run (s : State) : List Dword :=
      if f.a = 0#7 then (lanesOf s.g.width (activeMask e f.p s)).map fun l =>
        BitVec.ofNat 64 (s.g.rdWords l f.b.toNat (tyWords (effTy push)))
      else if activeMask e f.p s = 0#64 then [] else [rs s f.b.toNat]
    let takers (s : State) : List Nat :=
      if f.a = 0#7 then lanesOf s.g.width (activeMask e f.p s) else (lanesOf s.g.width (activeMask e f.p s)).take 1
    let put (ls : List Nat) (es : List QEntry) (r : Res) : Res :=
      if f.a = 0#7 then { r with vws := (ls.zip es).flatMap fun x => wordsAt x.1 f.d.toNat x.2.val.toNat n }
      else { r with sws := (ls.zip es).map fun x => (f.d.toNat, x.2.val) }
    (∀ s : State, let u := landFor (srcRegs push) s
      waiting s = none → CanIssue u →
      consumed u.g (lanesOf u.g.width (activeMask e f.p s)) (srcRegs push) = none →
      (qCap k < (run u).length → exec push s =
        .next (trapNow push 0x46 (activeMask e f.p s) (BitVec.ofNat 64 (run u).length) u)) ∧
      (run u = [] → ∃ t, exec push s = .next t ∧ Wrote push u t {} u.nextPc) ∧
      (run u ≠ [] → (run u).length ≤ qCap k → qFree u u.cur.grp k < (run u).length →
        let r := pushEnter u.cur.grp k (run u).length 0 u
        exec push s = .next (stall push (r.1 :: (run u).map BitVec.toNat) r.2)) ∧
      (run u ≠ [] → (run u).length ≤ qCap k → (run u).length ≤ qFree u u.cur.grp k →
        let op := match qCounter k with | some c => (u.g.ocOf c).iss.toNat | none => 0
        let v := match qCounter k with | some c => u.modG fun G => G.enterOp c (run u).length | none => u
        let w := appendRun u.g.watch u.cur.grp k op (run u) v
        exec push s = .next (finish push {} w) ∧
        (k = 7 → w.g.q7.map QEntry.val = u.g.q7.map QEntry.val ++ run u) ∧
        (k = 2 → w.g.q2.map Push.val = u.g.q2.map Push.val ++ run u) ∧
        (k = 4 → w.g.q4.map Push.val = u.g.q4.map Push.val ++ run u) ∧
        (k = 6 → w.g.q6.map Push.val = u.g.q6.map Push.val ++ run u))) ∧
    (∀ s : State, let ls := takers s
      let es := (popQ s s.cur.grp f.b.toNat).take ls.length
      let u := putQ s.cur.grp f.b.toNat ((popQ s s.cur.grp f.b.toNat).drop ls.length) s
      CanIssue s →
      (qCap f.b.toNat < ls.length →
        exec pop s = .next (trapNow pop 0x46 (activeMask e f.p s) (BitVec.ofNat 64 ls.length) s)) ∧
      (ls.length ≤ qCap f.b.toNat → (popQ s s.cur.grp f.b.toNat).length < ls.length →
        exec pop s = .next (stall pop [(activeMask e f.p s).toNat] s)) ∧
      (ls.length ≤ qCap f.b.toNat → ls.length ≤ (popQ s s.cur.grp f.b.toNat).length → (∀ x ∈ es, x.mark = 0) →
        ∃ t, exec pop s = .next t ∧ Wrote pop u t (put ls es {}) s.nextPc)) ∧
    (∀ s : State, let ls := takers s
      let m := min ls.length (popQ s s.cur.grp f.b.toNat).length
      let es := (popQ s s.cur.grp f.b.toNat).take m
      let u := putQ s.cur.grp f.b.toNat ((popQ s s.cur.grp f.b.toNat).drop m) s
      CanIssue s → (∀ x ∈ es, x.mark = 0) →
        ∃ t, exec try_ s = .next t ∧
          Wrote try_ u t (put ls es { cc := some (ccOf false (decide (m = 0)) (decide (m = ls.length)) false) }) s.nextPc) ∧
    Simple (.qstat e b d) (fun s =>
      let g := s.cur.grp
      let q := b.toNat
      let own : Bool := q = 1 || q = 3 || q = 5
      { sws := [(d.toNat, BitVec.ofNat 64 (qCap q * 2 ^ 32 + (if own then qRsv s g q % 256 * 2 ^ 16 else 0) +
          (if own then 0 else qFree s g q % 256 * 2 ^ 8) + qCount s g q % 256))] })

/-- WAIT (R354, R355) and the barrier instructions (R356 to R361, R431). A WAIT delivers no report in handler mode (R386); one
that delivers none acquires at the widest scope of what it covers (R258). -/
def Obligations.WaitAndBarrierResults : Prop :=
  ∀ (e : Pfx) (nt nc ns nl : BitVec 5) (b a d : BitVec 7) (s : State), CanIssue s →
    let core := s.coreOf s.cur.grp
    let team := (s.grp s.cur.grp).team
    let bar (k : Nat) : Bar := (s.team team).bar k
    let wait : Instr := .wait e nt nc ns nl
    let thr : List (Nat × Nat) := [(0, nl.toNat), (1, ns.toNat), (2, nc.toNat), (3, nt.toNat)]
    let iss : List Nat := (List.range 4).map fun k => (s.g.ocOf k).iss.toNat
    let owns (i : Instr) (k : Nat) (now : Prop) : Prop :=
      (s.barCount team ≤ k → exec i s = .next (trapNow i 0x47 s.cur.mask (BitVec.ofNat 64 k) s)) ∧
      (k < s.barCount team → now)
    let spoils (i : Instr) (k : Nat) : Prop :=
      (bar k).err = true → exec i s = .next (trapNow i 0x11 s.cur.mask (BitVec.ofNat 64 k) s)
    let updates (i : Instr) (k : Nat) (f : Bar → Bar) : Prop :=
      ∃ t, Wrote i s t {} s.nextPc ∧ exec i s = .next (barUpdate team k f t)
    ((∀ x ∈ thr, (s.g.ocOf x.1).value ≤ x.2) → waitReport s.g iss thr = none ∨ s.g.frame ≠ none →
      ∃ t, exec wait s = .next t ∧ Wrote wait (acquire core (waitScope s.g iss thr) s) t {} s.nextPc) ∧
    ((∃ x ∈ thr, x.2 < (s.g.ocOf x.1).value ∧ (s.g.ocOf x.1).value < 2 ^ 31) → exec wait s = .next (stall wait iss s)) ∧
    owns (.barinit e b a d) d.toNat (updates (.barinit e b a d) d.toNat fun _ =>
      ⟨0, (rs s a.toNat).extractLsb' 0 16, (rs s b.toNat).extractLsb' 0 48, (rs s b.toNat).extractLsb' 0 48, 0, 0,
        false, false⟩) ∧
    owns (.bararr e d) d.toNat (spoils (.bararr e d) d.toNat ∧ ((bar d.toNat).err = false →
      updates (.bararr e d) d.toNat (·.arrive (popcount s.cur.mask)))) ∧
    owns (.bararrN e a d) d.toNat (spoils (.bararrN e a d) d.toNat ∧ ((bar d.toNat).err = false →
      updates (.bararrN e a d) d.toNat (·.arrive ((rs s a.toNat).toNat % 2 ^ 16)))) ∧
    owns (.barexp e a d) d.toNat (updates (.barexp e a d) d.toNat fun x =>
      { x with bt := x.bt + (rs s a.toNat).extractLsb' 0 48 }) ∧
    owns (.barwait e a d) d.toNat (spoils (.barwait e a d) d.toNat ∧ ((bar d.toNat).err = false →
      let n := (rs s a.toNat).toNat % 2 ^ 32
      ((bar d.toNat).done n = true →
        ∃ t, exec (.barwait e a d) s = .next t ∧ Wrote (.barwait e a d) (acquire core 3 s) t {} s.nextPc) ∧
      ((bar d.toNat).done n = false → exec (.barwait e a d) s = .next (stall (.barwait e a d) [n] s)))) ∧
    owns (.bartest e b a d) b.toNat (spoils (.bartest e b a d) b.toNat ∧ ((bar b.toNat).err = false →
      let ok := (bar b.toNat).done ((rs s a.toNat).toNat % 2 ^ 32)
      ∃ t, exec (.bartest e b a d) s = .next t ∧
        Wrote (.bartest e b a d) (if ok then acquire core 3 s else s) t
          { sws := [(d.toNat, (bar b.toNat).phase.zeroExtend 64)], cc := some (ccOf false ok false false) } s.nextPc))

/-- GBAR (R364, R247) and SLEEP (R195). A GBAR waits until the older accesses of its group have been made and the writes of
its core can perform; then its sub-group arrives, and waits with the generation of its arrival. -/
def Obligations.GridBarrierAndSleep : Prop :=
  ∀ (e : Pfx) (a : BitVec 7) (s : State), CanIssue s →
    let core := s.coreOf s.cur.grp
    let l := (s.teamOf s.cur.grp).launch
    let data : List Nat := [1, (s.launch l).gen]
    let w := stall (.gbar e) data (drainCore core s)
    let keep (y : Block) : Block := { y with data := data }
    let b := (w.g.lane (lowBit s.cur.mask)).blk
    let v := (w.modG fun G => { G with blocks := kmod G.blocks b keep }).modLaunch l
      fun L => { L with arrivals := L.arrivals + popcount s.cur.mask }
    let live := (launchGroups v l).foldl (fun n g => n + (v.grp g).live) 0
    ((s.launch l).desc.gs = false → exec (.gbar e) s = .next (trapNow (.gbar e) 0x5B s.cur.mask 0 s)) ∧
    ((s.launch l).desc.gs = true → gbarFree s = false → exec (.gbar e) s = .next (stall (.gbar e) [0] s)) ∧
    ((s.launch l).desc.gs = true → gbarFree s = true →
      exec (.gbar e) s = .next (gbarCheck l v) ∧
      ((v.launch l).arrivals < live → gbarCheck l v = v) ∧
      (live ≤ (v.launch l).arrivals → (v.launch l).arrivals ≠ 0 → (kget v.launches l).isSome = true →
        ((gbarCheck l v).launch l).gen = (v.launch l).gen + 1 ∧ ((gbarCheck l v).launch l).arrivals = 0 ∧
        ((∀ x ∈ v.groups, ∀ y ∈ x.2.pend, y.2.om = []) → (gbarCheck l v).mem = v.mem))) ∧
    ((rs s a.toNat).toNat % 2 ^ 32 = 0 → ∃ t, exec (.sleep e a) s = .next t ∧ Wrote (.sleep e a) s t {} s.nextPc) ∧
    ((rs s a.toNat).toNat % 2 ^ 32 ≠ 0 →
      exec (.sleep e a) s = .next (stall (.sleep e a) [s.time.toNat, (rs s a.toNat).toNat % 2 ^ 32] s))

/-- The completion loop of a barrier object (R359). -/
def Obligations.BarrierPhases : Prop :=
  ∀ b : Bar,
    b.upd.full = false ∧ b.upd.at_ = b.at_ ∧ b.upd.bt0 = b.bt0 ∧ b.upd.ca ≤ b.ca ∧ b.upd.cb ≤ b.cb ∧
    (b.sat = true ∨ b.err = true → b.upd = b) ∧
    (b.ca.toNat < b.at_.toNat → b.upd = b) ∧
    (b.sat = false → b.err = false → b.at_ ≠ 0#16 → b.bt = 0#48 → b.bt0 = 0#48 →
      b.upd.phase = b.phase + BitVec.ofNat 32 (b.ca.toNat / b.at_.toNat) ∧
      b.upd.ca.toNat = b.ca.toNat % b.at_.toNat)

/-- Loads (R220 to R230) and LDA (R236): the load enters its counter and the sub-group goes on; its accesses take their place
among those of the group (R229) and are made at once when nothing older is left and nothing holds them. -/
def Obligations.LoadInstructionResults : Prop :=
  ∀ (e : Pfx) (f : MForm) (q : AqForm) (s : State), waiting s = none →
    let addr (u : State) (x : BitVec 1) (o a n l : Nat) : Nat :=
      wrapNat 64 ((rs u a).toNat + (if x = 0#1 then (u.g.rdV l o).toNat else (o + l) * n) +
        (match e.k1 with | some m => m.toInt | none => 0))
    let goes (i : Instr) (p : BitVec 2) (sp perm : Nat) (al : Bool) (d : Nat) (x : BitVec 1) (o a : Nat)
        (after : State → State) : Prop :=
      let u := landFor (srcRegs i) s
      let g := u.cur.grp
      let n := tyWidth (effTy i) / 8
      let ls := lanesOf u.g.width (activeMask e p s)
      let acc := ls.map fun l => (⟨l, addr u x o a n l, 0, 0⟩ : LaneAcc)
      let chk := checked u sp n perm al acc
      let h : Held := ⟨u.uid, i, (u.g.ocOf 0).iss.toNat, u.uid, chk⟩
      CanIssue u → u.uid ≠ 0 → consumed u.g ls (srcRegs i) = none → Clear 0 sp n perm al acc u →
      loadReady chk u = true →
      ∃ t, exec i s = .next (settleGroup g t) ∧ Loading u t i n (effTy i) d chk ∧
        (ls ≠ [] → u.g.defer = [] →
          let w := t.modGrp g fun G => { G with defer := [] }
          let v := loadMake g (effTy i) d h w
          (heldFree g h t = false → settleGroup g t = t) ∧
          (heldFree g h t = true → settleGroup g t = after v ∧ Loaded w v g u.uid (effTy i) d chk))
    let ld (i : Instr) (sp : Nat) : Prop := goes i f.p sp 1 false f.d.toNat f.x f.o.toNat f.a.toNat fun v => v
    ld (.ldG e f) 0 ∧ ld (.ldSp e f) 1 ∧ ld (.ldCl e f) 2 ∧ ld (.ldCh e f) 3 ∧ ld (.ldLn e f) 4 ∧
    goes (.lda e q) q.p 0 5 true q.d.toNat 1#1 q.k.toNat q.a.toNat (acquire (s.coreOf s.cur.grp) q.s.toNat)

/-- Stores (R220 to R230) and STREL (R236): the store enters its counter and the sub-group goes on; its accesses take their
place among those of the group (R229) and are made at once when nothing older is left and nothing holds them. Before a
STREL's, everything older performs at its scope (R244). -/
def Obligations.StoreInstructionResults : Prop :=
  ∀ (e : Pfx) (f : MForm) (q : AqForm) (s : State), waiting s = none →
    let addr (u : State) (x : BitVec 1) (o a n l : Nat) : Nat :=
      wrapNat 64 ((rs u a).toNat + (if x = 0#1 then (u.g.rdV l o).toNat else (o + l) * n) +
        (match e.k1 with | some m => m.toInt | none => 0))
    let goes (i : Instr) (p : BitVec 2) (sp : Nat) (al : Bool) (d : Nat) (x : BitVec 1) (o a : Nat)
        (before : State → State) : Prop :=
      let u := landFor (srcRegs i) s
      let g := u.cur.grp
      let n := tyWidth (effTy i) / 8
      let ls := lanesOf u.g.width (activeMask e p s)
      let acc := ls.map fun l => (⟨l, addr u x o a n l, u.g.rdWords l d (tyWords (effTy i)), 0⟩ : LaneAcc)
      let chk := checked u sp n 2 al acc
      let h : Held := ⟨u.uid, i, (u.g.ocOf 1).iss.toNat, 0, chk⟩
      CanIssue u → consumed u.g ls (srcRegs i) = none → Clear 1 sp n 2 al acc u → storeReady chk u = true →
      ∃ t, exec i s = .next (settleGroup g t) ∧ Storing u t i chk ∧ t.g.scat = u.g.scat ∧
        (ls ≠ [] → u.g.defer = [] →
          let w := before (t.modGrp g fun G => { G with defer := [] })
          let v := storeMake g n 0 h w
          (heldFree g h t = false → settleGroup g t = t) ∧
          (heldFree g h t = true → settleGroup g t = v ∧ Stored w v g sp n chk))
    let st (i : Instr) (sp : Nat) : Prop := goes i f.p sp false f.d.toNat f.x f.o.toNat f.a.toNat fun w => w
    st (.stG e f) 0 ∧ st (.stSp e f) 1 ∧ st (.stCl e f) 2 ∧ st (.stCh e f) 3 ∧ st (.stLn e f) 4 ∧
    goes (.strel e q) q.p 0 true q.d.toNat 1#1 q.k.toNat q.a.toNat (performAt (s.coreOf s.cur.grp) q.s.toNat)

/-- GATHER and SCATTER (R231, R232): they do not issue while an older user of their completion bitmap is in flight; then they
clear it or, with .RS, skip the lanes that it shows done, enter their counter and go on. -/
def Obligations.GatherScatterResults : Prop :=
  ∀ (e : Pfx) (f : AForm) (s : State), waiting s = none →
    let k := f.f.toNat % 8
    let again : Bool := f.f.getLsbD 3
    let sp := f.s.toNat
    let accs (i : Instr) (x : State → Nat → Nat) : List LaneAcc :=
      let u := landFor (srcRegs i) s
      (lanesOf u.g.width (activeMask e f.p s)).map fun l => ⟨l, u.g.rdWords l (2 * f.g.toNat) 2, x u l, 0⟩
    let can (i : Instr) : Prop :=
      let u := landFor (srcRegs i) s
      CanIssue u ∧ consumed u.g (lanesOf u.g.width (activeMask e f.p s)) (srcRegs i) = none
    let start (i : Instr) (x : State → Nat → Nat) (acc : List LaneAcc) (w : State) : Prop :=
      let u := landFor (srcRegs i) s
      let all := accs i x
      can i ∧ cbBusy u u.cur.grp k = false ∧
      (if again then acc = all.filter (fun a => !(rget u.g.cb k).getLsbD a.lane) ∧ w = u
       else acc = all ∧ w = u.modG fun G => { G with cb := kput G.cb k (rget G.cb k &&& ~~~(maskOf (all.map LaneAcc.lane))) })
    let held (i : Instr) : Prop :=
      let u := landFor (srcRegs i) s
      can i → cbBusy u u.cur.grp k = true → exec i s = .next u
    held (.gather e f) ∧ held (.scatter e f) ∧
    (let i : Instr := .gather e f
     let n := tyWidth (effTy i) / 8
     ∀ acc w, start i (fun _ _ => 0) acc w → w.uid ≠ 0 → Clear 0 sp n 1 false acc w →
      let g := w.cur.grp
      let chk := checked w sp n 1 false acc
      let h : Held := ⟨w.uid, i, (w.g.ocOf 0).iss.toNat, w.uid, chk⟩
      loadReady chk w = true →
      ∃ t, exec i s = .next (settleGroup g t) ∧ Loading w t i n (effTy i) f.d.toNat chk ∧
        (∀ p, acc ≠ [] → kget t.g.pend w.uid = some p → p.cbk = k + 1) ∧
        (acc ≠ [] → w.g.defer = [] →
          let r := t.modGrp g fun G => { G with defer := [] }
          let v := loadMake g (effTy i) f.d.toNat h r
          (heldFree g h t = false → settleGroup g t = t) ∧
          (heldFree g h t = true → settleGroup g t = v ∧ Loaded r v g w.uid (effTy i) f.d.toNat chk))) ∧
    (let i : Instr := .scatter e f
     let n := tyWidth (effTy i) / 8
     ∀ acc w, start i (fun u l => u.g.rdWords l f.d.toNat (tyWords (effTy i))) acc w → Clear 1 sp n 2 false acc w →
      let g := w.cur.grp
      let c := w.contOf g
      let chk := checked w sp n 2 false acc
      let op := (w.g.ocOf 1).iss.toNat
      let h : Held := ⟨w.uid, i, op, 0, chk⟩
      storeReady chk w = true →
      ∃ t, exec i s = .next (settleGroup g t) ∧ Storing w t i chk ∧
        t.g.scat = (if sp = 0 ∧ acc ≠ [] then w.g.scat ++ [⟨op, k, scatSecs c.d c.p chk, 0⟩] else w.g.scat) ∧
        (acc ≠ [] → w.g.defer = [] →
          let r := t.modGrp g fun G => { G with defer := [] }
          let v := storeMake g n (k + 1) h r
          (heldFree g h t = false → settleGroup g t = t) ∧
          (heldFree g h t = true → settleGroup g t = v ∧ Stored r v g sp n chk)))

/-- Atomics (R233, R234): one enters its counter and the sub-group goes on; when nothing holds it, its lanes are applied one
after another, in lane order (R228), after the older stores to their lines. -/
def Obligations.AtomicInstructionResults : Prop :=
  (∀ (e : Pfx) (f : AForm) (sp3 : BitVec 3) (g6 : BitVec 6) (d : BitVec 7) (p : BitVec 2) (s : State), waiting s = none →
    let apply (i : Instr) (k : Nat) (g6 : BitVec 6) (p : BitVec 2) (sp : Nat) (x y : State → Nat → Nat) (d : Option Nat)
        (new : LaneAcc → Nat → Option Nat) : Prop :=
      let u := landFor (srcRegs i) s
      let g := u.cur.grp
      let n := tyWidth (effTy i) / 8
      let ls := lanesOf u.g.width (activeMask e p s)
      let acc := ls.map fun l => (⟨l, u.g.rdWords l (2 * g6.toNat) 2, x u l, y u l⟩ : LaneAcc)
      let chk := checked u sp n 3 true acc
      let h : Held := ⟨u.uid, i, (u.g.ocOf k).iss.toNat, if d.isSome then u.uid else 0, chk⟩
      let c := u.contOf g
      let core := u.coreOf g
      CanIssue u → u.uid ≠ 0 → consumed u.g ls (srcRegs i) = none → Clear k sp n 3 true acc u →
      atomReady d.isSome chk u = true →
      ∃ t, exec i s = .next (settleGroup g t) ∧
        (match d with | none => Storing u t i chk | some r => Loading u t i n (effTy i) r chk) ∧
        (ls ≠ [] → u.g.defer = [] →
          let w := drainLines core ((allPieces chk).map fun q => pkey c.d c.p q.pa / 256)
            (t.modGrp g fun G => { G with defer := [] })
          let v := settleGroup g t
          (heldFree g h t = false → v = t) ∧
          (heldFree g h t = true → v.mem = (chk.foldl (fun z r => (atomLane core c.d c.p n new z r).1) w).mem ∧
            v.g.v = t.g.v ∧ v.g.frame = t.g.frame ∧ v.g.defer = [] ∧
            ∀ r, d = some r → ∃ q, kget v.g.pend u.uid = some q ∧ q.made = true ∧
              q.words = (chk.foldl (fun z r => ((atomLane core c.d c.p n new z.1 r).1,
                  z.2 ++ [(r.1, (atomLane core c.d c.p n new z.1 r).2)])) (w, [])).2.flatMap fun z =>
                loadWords (effTy i) z.1.lane r ((leBytes z.2.1 n).map fun b => (b, z.2.2))))
    let t := effTy (.atom e f)
    let tr := effTy (.atomr e f)
    let tc := effTy (.cas e sp3 g6 d p)
    apply (.atom e f) 1 f.g f.p f.s.toNat (fun u l => u.g.rdWords l f.d.toNat (tyWords t)) (fun _ _ => 0) none
      (fun a o => some (atomNew f.f.toNat t o a.x)) ∧
    apply (.atomr e f) 0 f.g f.p f.s.toNat (fun u l => u.g.rdWords l (e.rc f.d).toNat (tyWords tr)) (fun _ _ => 0)
      (some f.d.toNat) (fun a o => some (atomNew f.f.toNat tr o a.x)) ∧
    apply (.cas e sp3 g6 d p) 0 g6 p sp3.toNat (fun u l => u.g.rdWords l d.toNat (tyWords tc))
      (fun u l => u.g.rdWords l (e.rc d).toNat (tyWords tc)) (some d.toNat)
      (fun a o => if o = a.y then some a.x else none)) ∧
  (∀ (s : State) (k n core d p : Nat) (a : LaneAcc) (new : LaneAcc → Nat → Option Nat), Safe s →
    (∀ j < n, kget s.psn ((k + j) / 32) = none ∧ gkSpace (k + j) ≠ 4) →
    let r := atomLane core d p n new s (a, .keys ((List.range n).map (k + ·)))
    r.2 = (memLe s.mem k n, 0) ∧
    (∀ x, new a (memLe s.mem k n) = some x → memLe r.1.mem k n = x % 256 ^ n) ∧
    (new a (memLe s.mem k n) = none → r.1 = s) ∧
    (∀ j, j < k ∨ k + n ≤ j → memGet r.1.mem j = memGet s.mem j) ∧ { r.1 with mem := s.mem } = s)

/-- Fences, prefetch and flush (R237 to R240, R253). A FENCE takes its place among the accesses of its group and the sub-group
goes on; a PREF never waits and never traps; ACQ.PROMOTE waits for what is older. -/
def Obligations.FenceAndCacheResults : Prop :=
  ∀ (e : Pfx) (b a : BitVec 7) (x : BitVec 1) (o : BitVec 7) (a6 : BitVec 6) (lv : BitVec 1) (lv2 p : BitVec 2) (s : State),
    let g := s.cur.grp
    let core := s.coreOf g
    let c := s.contOf g
    (CanIssue s →
      let i : Instr := .fence e b a
      let h : Held := ⟨s.uid, i, 0, 0, []⟩
      ∃ t, exec i s = .next (settleGroup g t) ∧
        Wrote i ((s.modG fun G => { G with defer := addHeld h G.defer }).fresh) t {} s.nextPc ∧
        (s.g.defer = [] →
          (heldFree g h t = true →
            settleGroup g t = fenceAt core b.toNat a.toNat (t.modGrp g fun G => { G with defer := [] })) ∧
          (heldFree g h t = false → settleGroup g t = t))) ∧
    (∀ (k z : Nat) (u : State), let t := fenceAt core k z u
      (2 ≤ z → (t.core core).wp = []) ∧ (4 ≤ z → t.mlog = []) ∧
      (t.core core).ed = (if k ≠ 2 ∧ 2 ≤ z then (u.core core).ed + 1 else (u.core core).ed)) ∧
    (CanIssue s →
      let i : Instr := .acqPromote e a
      let n := (rs s a.toNat).toNat
      let victim := coreKey c.d (((s.dev c.d).physOf c.p n).getD 0)
      let held := (∃ h ∈ s.g.defer, h.seq < s.uid) ∨ olderMem s.g s.uid = true ∨ wpReady s victim = false ∨
        wpReady s core = false
      ((s.dev c.d).ncores c.p ≤ n →
       exec i s = .next (trapNow i 0x42 s.cur.mask (BitVec.ofNat 64 (n % 2 ^ 57)) s)) ∧
      (n < (s.dev c.d).ncores c.p → held → exec i s = .next (stall i [n] s)) ∧
      (n < (s.dev c.d).ncores c.p → ¬held → ∃ t, exec i s = .next (settleGroup g t) ∧
        Wrote i (fenceAt core 0 3 (bumpDev victim (drainCore victim s))) t {} s.nextPc)) ∧
    (let i : Instr := .pref e x o a6 lv p
     let u := landFor (srcRegs i) s
     CanIssue u →
      (u.g.defer ≠ [] → ∃ t, exec i s = .next t ∧ Wrote i u t {} u.nextPc) ∧
      ∃ t, exec i s = .next t ∧ t.mem = u.mem ∧ t.psn = u.psn ∧ OnlyResults u.g t.g ∧ t.g.v = u.g.v ∧
        (∀ h, h ≠ u.cur.grp → kget t.groups h = kget u.groups h) ∧ LanesGo u.cur.mask u.nextPc u.g t.g) ∧
    (waiting s = none →
     let i : Instr := .cflush e x o a6 lv2 p
     let u := landFor (srcRegs i) s
     let n := tyWidth (effTy i) / 8
     let ls := lanesOf u.g.width (activeMask e p s)
     let acc := ls.map fun l => (⟨l, wrapNat 64 ((rs u a6.toNat).toNat +
      (if x = 0#1 then (u.g.rdV l o.toNat).toNat else (o.toNat + l) * n) +
      (match e.k1 with | some m => m.toInt | none => 0)), 0, 0⟩ : LaneAcc)
     let chk := checked u 0 n 5 false acc
     let h : Held := ⟨u.uid, i, (u.g.ocOf 1).iss.toNat, 0, chk⟩
     CanIssue u → consumed u.g ls (srcRegs i) = none → Clear 1 0 n 5 false acc u →
      ∃ t, exec i s = .next (settleGroup g t) ∧ Storing u t i chk ∧
        (ls ≠ [] → u.g.defer = [] →
          let w := t.modGrp g fun G => { G with defer := [] }
          let v := flushMake g lv2.toNat h w
          (heldFree g h t = false → settleGroup g t = t) ∧
          (heldFree g h t = true → settleGroup g t = v ∧
            ∀ y ∈ chk, ∀ q ∈ piecesOf y.2, ∀ z ∈ (v.core core).l1, z.line ≠ pkey c.d c.p q.pa / 256)))

/-- Configuration and claims of operand storage (R265 to R270). A TREL that must wait for operations or fills of its slots does
not issue. -/
def Obligations.ClaimInstructionResults : Prop :=
  ∀ (e : Pfx) (a d n sl : BitVec 7),
    let slots (m : Nat) : List Nat := (List.range 16).filter fun k => m.testBit k
    let inSlots (m cid key : Nat) : Prop :=
      ∃ k ∈ slots m, operandKey cid (16384 * k) ≤ key ∧ key < operandKey cid (16384 * (k + 1))
    let claims (i : Instr) (want : State → Nat) : Prop :=
      ∀ s : State, CanIssue s →
        let m := want s
        ∃ u t, exec i s = .next t ∧
          Wrote i u t { sws := [(d.toNat, BitVec.ofNat 64 m)], cc := some (ccOf false (decide (m = 0)) false false) } s.nextPc ∧
          { u with mem := s.mem, psn := s.psn, conts := s.conts } = s ∧
          ((kget s.conts s.ccId).isSome = true → u.cc = { s.cc with claims := s.cc.claims ||| BitVec.ofNat 16 m }) ∧
          (∀ k, k ≠ s.ccId → kget u.conts k = kget s.conts k) ∧
          (Safe s → ∀ key, (inSlots m s.ccId key → memGet u.mem key = 0 ∧ kget u.psn (key / 32) = none) ∧
            (¬inSlots m s.ccId key → memGet u.mem key = memGet s.mem key))
    (∀ s : State, CanIssue s →
      let x := rs s a.toNat
      let busy : Bool := s.cc.claims ≠ 0#16 || (List.range 4).any s.cc.regionBusy
      (busy = true → exec (.tcfg e a) s = .next (trapNow (.tcfg e a) 0x44 s.cur.mask 0 s)) ∧
      (busy = false → ∃ t, exec (.tcfg e a) s = .next t ∧ Wrote (.tcfg e a)
        (s.modCont s.ccId fun c => { c with mcfg := BitVec.ofNat 64 (x.toNat / 2 ^ 16 % 2 ^ 10 * 2 ^ 16 + x.toNat % 2 ^ 4) })
        t {} s.nextPc)) ∧
    claims (.tclaim e a d) (fun s =>
      let w := (rs s a.toNat).toNat % 2 ^ 16
      if (slots w).any s.cc.claimed then 0 else w) ∧
    claims (.tclaimAny e n d) (fun s =>
      let free := ((List.range 16).filter fun k => !s.cc.claimed k).take n.toNat
      if free.length < n.toNat then 0 else (free.map fun k => 2 ^ k).sum) ∧
    (∀ s : State, CanIssue s →
      let i : Instr := .trel e a
      let m := (rs s a.toNat).toNat % 2 ^ 16
      let u := (slots m).foldl (fun u k => landFills s.ccId (16384 * k) (16384 * (k + 1)) u) s
      ((∃ k ∈ slots m, s.cc.claimed k = false) → exec i s = .next (trapNow i 0x45 s.cur.mask 0 s)) ∧
      ((∀ k ∈ slots m, s.cc.claimed k = true) → (∃ k ∈ slots m, relBusy s k = true) → exec i s = .next s) ∧
      ((∀ k ∈ slots m, s.cc.claimed k = true ∧ relBusy s k = false) →
        ∃ t, exec i s = .next t ∧ Wrote i
          (u.modCont u.ccId fun c => { c with claims := c.claims &&& ~~~(BitVec.ofNat 16 m) }) t {} s.nextPc)) ∧
    Simple (.tstatr e sl d) (fun s => { sws := [(d.toNat,
      if sl = 0#7 then s.cc.mcfg else if sl = 1#7 then s.cc.tstat else s.cc.mqstat (otherRuns s))] })

/-- Parking rows, the saved window and tile rows (R114 to R117, R270 to R273). A TFILL or TROW.OM whose operand bytes cannot be
written yet does not issue (R270). -/
def Obligations.StorageInstructionResults : Prop :=
  ∀ (e : Pfx) (c4 : BitVec 4) (a d b : BitVec 7) (k3 : BitVec 3) (x : BitVec 1) (o : BitVec 7) (a6 d6 : BitVec 6)
    (p : BitVec 2) (f : NForm) (s : State), waiting s = none →
    let ready (i : Instr) (m : Dword) : Prop :=
      let u := landFor (srcRegs i) s
      CanIssue u ∧ consumed u.g (lanesOf u.g.width m) (srcRegs i) = none
    let rows (i : Instr) (m : Dword) (good : State → List (Nat × Nat × Nat × Nat) → State → Prop) : Prop :=
      let u := landFor (srcRegs i) s
      let r := rs u a.toNat
      let row := r.toNat % 2 ^ 10
      let acc := r.getLsbD 10
      let unit := if acc then 256 else 64
      let v := landFills u.ccId (256 * row) (256 * (row + c4.toNat + 1)) u
      let busy : Bool := if acc then u.cc.regionBusy (row / 256) else u.cc.claimed (row / 64) || u.cc.slotBusy (row / 64)
      let cells := (List.range (c4.toNat + 1)).flatMap fun j => (lanesOf v.g.width m).map fun l =>
        (j, l, d.toNat + j, (if acc then accKey v.ccId else operandKey v.ccId) (256 * (row + j) + 4 * l))
      ready i m →
      (r.toNat / 2 ^ 11 ≠ 0 ∨ row / unit ≠ (row + c4.toNat) / unit →
        exec i s = .next (trapNow i 0x41 s.cur.mask 0 u)) ∧
      (r.toNat / 2 ^ 11 = 0 → row / unit = (row + c4.toNat) / unit → busy = true →
        exec i s = .next (trapNow i 0x44 s.cur.mask 0 u)) ∧
      (r.toNat / 2 ^ 11 = 0 → row / unit = (row + c4.toNat) / unit → busy = false →
        ∃ t, exec i s = .next t ∧ good v cells t)
    let offBad (u : State) (n : Nat) (off : Dword) : Prop := 2 ^ 18 ≤ off.toNat ∨ 2 ^ 18 < off.toNat + u.g.width * n
    rows (.park e c4 a d p) (activeMask e p s) (fun v cells t =>
      { t with groups := v.groups, mem := v.mem } = v ∧ t.g.v = v.g.v ∧
      t.mem = cells.foldl (fun m y => memPut32 m y.2.2.2 (v.g.rdV y.2.1 y.2.2.1)) v.mem) ∧
    rows (.unpark e c4 a d p) (activeMask e p s) (fun v cells t =>
      { t with groups := v.groups } = v ∧
      (d.toNat + c4.toNat < 128 → ∀ y ∈ cells,
        t.g.rdV y.2.1 y.2.2.1 =
          (if secBad v y.2.2.2 = 0 then BitVec.ofNat 32 (memLe v.mem y.2.2.2 4) else 0#32) ∧
        (kget t.g.pz (vk y.2.1 y.2.2.1)).getD 0 = secBad v y.2.2.2)) ∧
    (let i : Instr := .winrd e b k3 d p
      let u := landFor (srcRegs i) (match savedEntry s.g k3.toNat with
        | some w => if w.late = 0 then s else landLoad s.cur.grp w.late s
        | none => s)
      let ls := lanesOf u.g.width (activeMask e p s)
      CanIssue u → consumed u.g ls (srcRegs i) = none → d.toNat < 128 →
      ∃ t, exec i s = .next t ∧ Flow u t u.g.copies u.nextPc ∧ ∀ l ∈ ls, t.g.rdV l d.toNat =
        (match savedEntry u.g k3.toNat with
         | none => 0#32
         | some w =>
           if w.wr = false then 0#32
           else if b = 4#7 then (if w.lanes.getLsbD l then 1#32 else 0#32)
           else if 2 ^ w.wd ≤ b.toNat then 0#32
           else if w.sc then (kget w.vals (sk w.reg b.toNat)).getD 0#32
           else (((w.vals.filter fun x => x.1 / 128 = l)[b.toNat]?).map Prod.snd).getD 0#32)) ∧
    (let i : Instr := .tfill e x o a6 d6 p
     let u := landFor (srcRegs i) s
     let n := tyWidth (effTy i) / 8
     let off := (rs s d6.toNat).toNat
     let ls := lanesOf u.g.width (activeMask e p s)
     let offs := ls.map fun l => off + l * n
     let g := u.cur.grp
     let acc := ls.map fun l => (⟨l, addrM u e x o.toNat a6.toNat n l, off, off⟩ : LaneAcc)
     ready i (activeMask e p s) →
     (offBad u n (rs s d6.toNat) → exec i s =
      .next (trapNow i 0x42 (activeMask e p s) (BitVec.ofNat 64 (off % 2 ^ 57)) u)) ∧
     (¬offBad u n (rs s d6.toNat) → off % n ≠ 0 → exec i s = .next (trapNow i 0x43 (activeMask e p s) 0 u)) ∧
     (¬offBad u n (rs s d6.toNat) → off % n = 0 → (∃ b ∈ offs, u.cc.claimed (b / 2 ^ 14) = false) →
      exec i s = .next (trapNow i 0x45 (activeMask e p s) 0 u)) ∧
     (¬offBad u n (rs s d6.toNat) → off % n = 0 → (∀ b ∈ offs, u.cc.claimed (b / 2 ^ 14) = true) →
      (rowBusy u n offs = true → exec i s = .next u) ∧
      (rowBusy u n offs = false →
       let v := landRows n offs u
       let chk := checked v e.xo n 5 false acc
       let h : Held := ⟨v.uid, i, (v.g.ocOf 0).iss.toNat, v.uid, chk⟩
       Clear 0 e.xo n 5 false acc v → loadReady chk v = true → ls ≠ [] →
       ∃ t, exec i s = .next (settleGroup g t) ∧ Accessed 0 v t ∧ t.g.scat = v.g.scat ∧
        t.g.defer = addHeld h v.g.defer ∧
        (∃ q, kget t.g.pend v.uid = some q ∧ q.made = false ∧ q.words = [] ∧
          q.om = chk.flatMap fun y => (List.range n).map fun j => (off + y.1.lane * n + j, 0#8, 0)) ∧
        (v.g.defer = [] →
         let w := t.modGrp g fun G => { G with defer := [] }
         let z := loadMake g (effTy i) 0 h w
         let c := w.contOf g
         let K := w.core (w.coreOf g)
         (heldFree g h t = false → settleGroup g t = t) ∧
         (heldFree g h t = true → settleGroup g t = z ∧ z.mem = w.mem ∧
          ∃ q, kget z.g.pend v.uid = some q ∧ q.made = true ∧ q.words = [] ∧
          q.om = chk.flatMap fun y =>
            let bs := laneBytes w K c.d c.p (rehit K c.asid y).2
            ((List.range n).zip bs).map fun x =>
              (off + y.1.lane * n + x.1, if lowReason bs = 0 then x.2.1 else 0#8, lowReason bs)))))) ∧
    (let i : Instr := .trow e f
     let u := landFor (srcRegs i) s
     let m := activeMask e f.p s
     let n := tyWidth (effTy i) / 8
     let off := rs u f.a.toNat
     let ls := lanesOf u.g.width m
     let offs := ls.map fun l => off.toNat + l * n
     ready i m →
     (offBad u n off → exec i s = .next (trapNow i 0x42 m (BitVec.ofNat 64 (off.toNat % 2 ^ 57)) u)) ∧
     (¬offBad u n off → off.toNat % n ≠ 0 → exec i s = .next (trapNow i 0x43 m 0 u)) ∧
     (e.xo ≠ 0 → ¬offBad u n off → off.toNat % n = 0 →
      ((∃ b ∈ offs, u.cc.regionBusy (b / 2 ^ 16) = true) → exec i s = .next (trapNow i 0x44 m 0 u)) ∧
      ((∀ b ∈ offs, u.cc.regionBusy (b / 2 ^ 16) = false) → ∃ t, exec i s = .next t ∧ Wrote i u t
        { vws := ls.flatMap fun l => wordsAt l f.d.toNat (memLe u.mem (accKey u.ccId (off.toNat + l * n)) n) (n / 4) }
        u.nextPc)) ∧
     (e.xo = 0 → ¬offBad u n off → off.toNat % n = 0 →
      ((∃ b ∈ offs, u.cc.claimed (b / 2 ^ 14) = false) → exec i s = .next (trapNow i 0x45 m 0 u)) ∧
      ((∀ b ∈ offs, u.cc.claimed (b / 2 ^ 14) = true) →
       (rowBusy u n offs = true → exec i s = .next u) ∧
       (rowBusy u n offs = false →
        let v := landRows n offs u
        ∃ t, exec i s = .next t ∧ t.g.v = v.g.v ∧ { t with groups := v.groups, mem := v.mem, psn := v.psn } = v ∧
        t.mem = ls.foldl (fun m l => (List.range n).foldl (fun m j => memSet m (operandKey u.ccId (off.toNat + l * n + j))
          (byteOf (u.g.rdWords l f.b.toNat (tyWords (effTy i))) j)) m) v.mem))))

/-- Trap entry (R191, R388, R389). -/
def Obligations.TrapEntrySavesAndStarts : Prop :=
  ∀ (g : Nat) (t : TrapInfo) (r : State), (kget r.groups g).isSome = true →
    let s : State := if t.cause = 0x12#8 then viralIrq (r.contOf g).d (r.contOf g).asid r else r
    let G := r.grp g
    let u := takeTrap g t r
    let H := u.grp g
    (G.thand ≠ 0#57 → G.frame = none →
      { u with groups := s.groups } = s ∧ (∀ h, h ≠ g → kget u.groups h = kget s.groups h) ∧
      { H with frame := G.frame, win := G.win, past := G.past, recs := G.recs, blocks := G.blocks, lanes := G.lanes } = G ∧
      (∃ f, H.frame = some f ∧ f.cause = t.cause ∧ f.tlanes = t.tlanes &&& BitVec.ofNat 64 (2 ^ G.width - 1) ∧
        f.tva = t.tva &&& 0x01FFFFFFFFFFFFFF#64 ∧ f.treta = t.treta ∧ f.tdest = t.tdest ∧ f.sub = t.sub ∧
        f.win = G.win ∧ f.past = G.past ∧ f.count = G.count) ∧
      H.win = [] ∧ H.past = [] ∧
      (∀ l, t.sub.getLsbD l = true → (kget H.lanes l).map (fun x => (x.pc, x.st, x.meet, x.copy)) =
        (kget G.lanes l).map (fun x => (G.thand, LaneSt.running, x.meet, x.copy))) ∧
      (∀ l, t.sub.getLsbD l = false → kget H.lanes l = kget G.lanes l)) ∧
    ((G.thand = 0#57 ∨ G.frame ≠ none) →
      u = endContext s (s.contOf g).d (s.contOf g).asid t.cause.toNat (if G.frame.isSome then 1 else 2)
        ((s.dev (s.contOf g).d).logOf (s.coreOf g % 256)) (s.bankOf g) G.slot t.tva)

/-- Traps by instruction, and the return (R189 to R193). REPLACE reads va in the lanes whose words it writes. -/
def Obligations.TrapInstructionResults : Prop :=
  ∀ (e : Pfx) (n : BitVec 8) (b a : BitVec 7) (s : State), CanIssue s →
    let traps (i : Instr) (cause : BitVec 8) (tva : Dword) : Prop :=
      exec i s = .next (takeTrap s.cur.grp ⟨cause, s.cur.mask, tva, s.nextPc, 0, s.cur.mask, s.nextPc, true, false⟩ s)
    let aside (i : Instr) : Prop :=
      s.g.frame = none → exec i s = .next (takeTrap s.cur.grp
        ⟨0x5C, s.cur.mask, 0, s.cur.pc, 0, s.cur.mask, s.nextPc, true, false⟩ s)
    traps (.trap e n) 0x80 (n.zeroExtend 64) ∧
    (let x := s.g.aflags &&& s.g.aen.extractLsb' 0 6
     (x ≠ 0#6 → traps (.tfence e) 0x70 (x.zeroExtend 64)) ∧
     (x = 0#6 → ∃ t, exec (.tfence e) s = .next t ∧ Wrote (.tfence e) s t {} s.nextPc)) ∧
    aside (.rett e) ∧ aside (.replace e b a) ∧
    (∀ f, s.g.frame = some f →
      ∃ u, exec (.rett e) s = .next (gbarCheck (s.teamOf s.cur.grp).launch u) ∧ OnlyGroup s u ∧ u.g.frame = none ∧
        u.g.win = f.win ∧ u.g.past = f.past ∧ u.g.count = f.count ∧ u.g.v = s.g.v ∧ u.g.aflags = s.g.aflags ∧ CopiesAre s.g.copies u.g ∧
        ∀ l, (kget u.g.lanes l).map (fun x => (x.meet, x.pc)) =
          (kget s.g.lanes l).map (fun x => (x.meet, if f.sub.getLsbD l then f.treta else x.pc))) ∧
    (∀ f, s.g.frame = some f →
      let i : Instr := .replace e b a
      let w := landFor (srcRegs i) s
      let ls := lanesOf w.g.width f.tlanes
      let reg := f.tdest.toNat % 128
      let puts : Bool := f.tdest.getLsbD 15 && decide (b.toNat < 2 ^ (f.tdest.toNat / 2 ^ 12 % 4)) && !f.retire
      let rd : List Nat := if !puts then [] else if f.tdest.getLsbD 14 then ls.take 1 else ls
      CanIssue w → consumed w.g (lanesOf w.g.width (maskOf rd)) (srcRegs i) = none → reg + b.toNat < 128 →
      ∃ t, exec i s = .next t ∧ OnlyGroup w t ∧ LanesGo w.cur.mask w.nextPc w.g t.g ∧
        (f.retire = false → f.decoded = true →
          ∃ h, t.g.frame = some h ∧ h.treta = f.next ∧ h.cause = f.cause ∧ h.tlanes = f.tlanes ∧ h.tdest = f.tdest) ∧
        (f.retire = false → f.tdest.getLsbD 15 = true → f.tdest.getLsbD 14 = false →
          b.toNat < 2 ^ (f.tdest.toNat / 2 ^ 12 % 4) →
          (∀ l ∈ ls, rget t.g.v (vk l (reg + b.toNat)) = w.g.rdV l a.toNat) ∧
          ∀ l r, r < 128 → l ∉ ls ∨ r ≠ reg + b.toNat → rget t.g.v (vk l r) = rget w.g.v (vk l r)) ∧
        (f.retire = false → f.tdest.getLsbD 15 = true → f.tdest.getLsbD 14 = true →
          b.toNat < 2 ^ (f.tdest.toNat / 2 ^ 12 % 4) → reg ≠ 0 →
          ∀ j tl C, ls = j :: tl → kget t.g.copies w.cid = some C →
            let old := rget w.sc.s reg
            rget C.s reg = if b = 0#7 then old.extractLsb' 32 32 ++ w.g.rdV j a.toNat
              else w.g.rdV j a.toNat ++ old.extractLsb' 0 32) ∧
        (f.retire = true ∨ f.tdest.getLsbD 15 = false ∨ 2 ^ (f.tdest.toNat / 2 ^ 12 % 4) ≤ b.toNat → t.g.v = w.g.v))

/-- Special registers and identities (R182 to R188). -/
def Obligations.SpecialRegisterResults : Prop :=
  ∀ (e : Pfx) (n : BitVec 9) (a d : BitVec 6),
    let even (x : Dword) : BitVec 57 := x.extractLsb' 1 56 ++ 0#1
    let watch (x : Dword) : Dword := x.extractLsb' 5 59 ++ 0#5
    Simple (.sprr e n d) (fun s =>
      let fr (f : Frame → Dword) : Dword := (s.g.frame.map f).getD 0#64
      { sws := [(d.toNat,
        if n = 0x000 then fr (fun f => f.cause.zeroExtend 64) else if n = 0x001 then fr Frame.tlanes
        else if n = 0x002 then fr Frame.tva else if n = 0x003 then fr (fun f => f.treta.zeroExtend 64)
        else if n = 0x004 then fr (fun f => f.tdest.zeroExtend 64) else if n = 0x005 then s.g.thand.zeroExtend 64
        else if n = 0x006 then s.g.tsa else if n = 0x007 then s.g.tsb
        else if n = 0x010 then s.g.aflags.zeroExtend 64 else if n = 0x011 then s.g.aen.zeroExtend 64
        else if n = 0x012 then s.sc.cc.zeroExtend 64 else if n = 0x018 then s.cc.tstat
        else if n = 0x019 then winmap s.g 0 else if n = 0x01A then winmap s.g 4
        else if 0x020 ≤ n.toNat ∧ n.toNat ≤ 0x023 then rget s.g.watch (n.toNat - 0x020)
        else if n = 0x030 then s.time - (s.dev (s.contOf s.cur.grp).d).t0 else 0#64)] }) ∧
    (∀ s : State, CanIssue s →
      let x := rs s a.toNat
      ∃ t, exec (.sprw e n a) s = .next t ∧ OnlyGroup s t ∧ t.g.v = s.g.v ∧ LanesGo s.cur.mask s.nextPc s.g t.g ∧
        t.g.frame = (if n = 0x003 then s.g.frame.map fun f => if f.retire then f else { f with treta := even x }
          else s.g.frame) ∧
        t.g.thand = (if n = 0x005 then even x else s.g.thand) ∧
        t.g.tsa = (if n = 0x006 then x else s.g.tsa) ∧ t.g.tsb = (if n = 0x007 then x else s.g.tsb) ∧
        t.g.aflags = (if n = 0x010 then x.extractLsb' 0 6 else s.g.aflags) ∧
        (∀ j, t.g.aen.getLsbD j = if n = 0x011 then (x.getLsbD j && decide (j ≤ 5 ∨ j = 8)) else s.g.aen.getLsbD j) ∧
        (∀ k < 4, rget t.g.watch k = if n.toNat = 0x020 + k then watch x else rget s.g.watch k) ∧
        (∀ c, c ≠ s.cid → kget t.g.copies c = kget s.g.copies c ∨ kget t.g.copies c = none) ∧
        ∀ C, kget t.g.copies s.cid = some C →
          C.s = s.sc.s ∧ C.p = s.sc.p ∧ C.cc = if n = 0x012 then x.extractLsb' 0 4 else s.sc.cc) ∧
    (a = 0#6 → Simple (.getid e n a d) (fun s =>
      let T := s.teamOf s.cur.grp
      let L := s.launchOf s.cur.grp
      let c := s.contOf s.cur.grp
      let size := (L.desc.clw + 1) * (L.desc.clh + 1)
      let ids : List Nat := [0, 0, s.g.idx, T.idx, T.idx % size, T.idx / size, L.nteams,
        (s.dev c.d).logOf (s.coreOf s.cur.grp % 256), s.bankOf s.cur.grp, s.g.slot, c.p, (s.dev c.d).asidVif c.asid, c.d,
        if (s.dev c.d).fit then 1 else 0, L.naddr.toNat, L.args.toNat]
      { sws := [(d.toNat, BitVec.ofNat 64 ((ids[n.toNat]?).getD 0))] })) ∧
    (a ≠ 0#6 → Simple (.getid e n a d) (fun s =>
      { vws := (lanesOf s.g.width s.cur.mask).map fun l =>
          (l, d.toNat, BitVec.ofNat 32 (if n = 0#9 then l else s.g.idx * s.g.width + l)) }))

/-- Consumption of poison (R224, R431, R292): a marked source word traps before any effect; a marked word of the scalar file
does so with reason POISON; marked entries that a QPOP takes trap after the others are written. -/
def Obligations.MarkedSourceTraps : Prop :=
  ∀ (e : Pfx) (f : GForm) (m : MForm) (u : UForm) (a b : BitVec 7) (q : NForm) (md k p : BitVec 2) (s : State)
    (why : Nat) (tl : Dword), waiting s = none →
    let traps (i : Instr) (act : Dword) : Prop :=
      let u := landFor (srcRegs i) s
      consumed u.g (lanesOf u.g.width act) (srcRegs i) = some (why, tl) →
      exec i s = .next (takeTrap s.cur.grp
        { cause := BitVec.ofNat 8 (0x0F + why), tlanes := tl, tva := rget u.g.kept why, treta := s.cur.pc,
          tdest := destDesc i, sub := s.cur.mask, next := s.nextPc, decoded := true, retire := false }
        (u.modG fun G => { G with kept := kdel G.kept why }))
    let g := activeMask e f.p s
    traps (.vadd e f) g ∧ traps (.vmad e f) g ∧ traps (.vand e f) g ∧ traps (.vshl e f) g ∧ traps (.vsel e f) g ∧
    traps (.fadd e f) g ∧ traps (.ffma e f) g ∧ traps (.fscale e f) g ∧ traps (.vabs e u) (activeMask e u.p s) ∧
    traps (.frcp e u) (activeMask e u.p s) ∧ traps (.stG e m) (activeMask e m.p s) ∧ traps (.stSp e m) (activeMask e m.p s) ∧
    traps (.join e a) s.cur.mask ∧ traps (.ixset e b md k p) (activeMask e p s) ∧ traps (.qpush e q) (activeMask e q.p s) ∧
    (∀ (i : Instr) (x : State → Out), (∃ z ∈ smReads s i, (kget s.g.smk z).isSome = true) →
      withMarks i x s = .next (poisonTrap i 1 (activeMask (pfxOf i) (BitVec.ofNat 2 (prOf i)) s) s)) ∧
    (let pop : Instr := .qpop e q
     let c := q.b.toNat
     let ls := popLanes s.g.width (q.a ≠ 0#7) (activeMask e q.p s)
     let xs := ls.zip (popQ s s.cur.grp c)
     let bad := xs.filter fun x => x.2.mark ≠ 0
     CanIssue s → q.d.toNat + tyWords (effTy pop) ≤ 128 → ls.length ≤ qCap c → ls.length ≤ (popQ s s.cur.grp c).length →
     ∀ r va, (∃ x ∈ bad, x.2.mark = r) → (∀ x ∈ bad, r ≤ x.2.mark) →
       (bad.find? fun x => x.2.mark = r).map (fun x => x.2.va) = some va →
      ∃ t, exec pop s = .next (trapNext (0x0F + r) (maskOf (bad.map Prod.fst)) va (destDesc pop) t) ∧
        popQ t s.cur.grp c = (popQ s s.cur.grp c).drop ls.length ∧ t.mem = s.mem ∧ t.cur = s.cur ∧
        t.g.count = s.g.count ∧
        (q.a = 0#7 → ∀ x ∈ xs, x.2.mark = 0 → ∀ y ∈ wordsAt x.1 q.d.toNat x.2.val.toNat (tyWords (effTy pop)),
          rget t.g.v (vk y.1 y.2.1) = y.2.2))

/-- A step runs the decoded instruction (R18, R20, R404), unless it reads a word of the scalar file that is marked for an
error (R431). -/
def Obligations.StepRunsDecodedInstruction : Prop :=
  ∀ (s : State) (g l : Nat) (i : Instr) (k : Nat),
    let r := tick s
    let u := beginIssue g l k r
    inputStep r = none → (s.turn % 2 = 0 ∨ firstCand r (cands r) = none) → pick r = some (g, l, .ok i k) →
      step s = withMarks i (exec i) u ∧ ((s.grp g).smk = [] → step s = exec i u) ∧
      fetchAt r g ((r.grp g).lane l).pc = .ok i k ∧
      ((r.grp g).lane l).st = .running ∧ ((r.grp g).lane l).blk = 0 ∧
      u.cur = ⟨g, (r.grp g).subOf l, ((r.grp g).lane l).pc, k⟩ ∧
      { u with cur := s.cur, groups := s.groups, cores := s.cores, time := s.time, free := s.free, turn := s.turn } = s ∧
      (∀ h, (kget u.groups h).map (fun G => { G with rr := 0, age := 0 }) =
        (kget s.groups h).map (fun G => { G with rr := 0, age := 0 })) ∧
      (∀ c, { u.core c with pmctl := [], pmcnt := [], ts := [] } =
        { s.core c with pmctl := [], pmcnt := [], ts := [] })

/-- Fetching the halfwords of an instruction (R70 to R73). -/
def Obligations.FetchReadsInstruction : Prop :=
  ∀ (s : State) (g : Nat) (pc : BitVec 57) (hs : List Half),
    (∀ j x, hs[j]? = some x → fetchHalf s g (pc.toNat + 2 * j) = .half x) →
    (∀ j, 0 < j → j < hs.length → decode (kctxOf s g) (hs.take j) = .more) →
    (∀ i n, hs ≠ [] → decode (kctxOf s g) hs = .ok i n → fetchAt s g pc = .ok i (2 * n)) ∧
    (∀ c n, hs ≠ [] → decode (kctxOf s g) hs = .bad c n → fetchAt s g pc = .bad c (2 * n)) ∧
    (∀ c v b t, (hs = [] ∨ decode (kctxOf s g) hs = .more) →
      fetchHalf s g (pc.toNat + 2 * hs.length) = .fail c v b t → fetchAt s g pc = .fail c v b t) ∧
    ((hs = [] ∨ decode (kctxOf s g) hs = .more) → fetchHalf s g (pc.toNat + 2 * hs.length) = .wait → fetchAt s g pc = .wait) ∧
    (∀ a, inCode s g a 2 = false → fetchHalf s g a = .fail 0x30 a false false)

/-- The order of issue in a quadrant (R20, R404). -/
def Obligations.IssueOrder : Prop :=
  ∀ (s : State) (gs : List Nat),
    (∀ x, pickGroup s gs = some x →
      x.1 ∈ gs ∧ nextOffer s x.1 = some x ∧ ((s.grp x.1).lane x.2.1).st = .running ∧
      lowBit ((s.grp x.1).subOf x.2.1) = x.2.1 ∧
      ∀ h ∈ gs, (nextOffer s h).isSome = true →
        (s.grp h).age < (s.grp x.1).age ∨ ((s.grp h).age = (s.grp x.1).age ∧ (s.grp x.1).slot ≤ (s.grp h).slot)) ∧
    (pickGroup s gs = none → ∀ h ∈ gs, nextOffer s h = none)

/-- Fetch events (R72, R73, R90, R385, R391). -/
def Obligations.IllegalAndFetchFaultResults : Prop :=
  ∀ (s : State), (kget s.groups s.cur.grp).isSome = true →
    (∀ c, ∃ t, exec (.illegalInstruction c) s = .next (takeTrap s.cur.grp t s) ∧ t.cause = c ∧
      t.tlanes = s.cur.mask ∧ t.sub = s.cur.mask ∧ t.tva = 0#64 ∧ t.treta = s.cur.pc ∧ t.tdest = illegalDest s ∧
      t.retire = false) ∧
    (∀ (c : BitVec 8) va b w, (b = false ∨ (c ≠ 0x20#8 ∧ c ≠ 0x30#8)) →
      exec (.instructionFetchFault c va b w) s = .next (takeTrap s.cur.grp
        ⟨c, s.cur.mask, va, s.cur.pc, 0#16, s.cur.mask, s.nextPc, false, false⟩ s)) ∧
    (∀ (c : BitVec 8) va w, c = 0x20#8 ∨ c = 0x30#8 →
      ∃ t, exec (.instructionFetchFault c va true w) s = .next t ∧
        { t with groups := s.groups, mem := s.mem, psn := s.psn, parts := s.parts, devs := s.devs, uid := s.uid } = s ∧
        (∀ l, s.cur.mask.getLsbD l = true → (kget t.g.lanes l).map (fun x => (x.pc, x.st, x.meet)) =
          (kget s.g.lanes l).map (fun x => (s.cur.pc, LaneSt.parked, x.meet))) ∧
        (∀ l, s.cur.mask.getLsbD l = false → (kget t.g.lanes l).map (fun x => (x.pc, x.meet)) =
          (kget s.g.lanes l).map (fun x => (x.pc, x.meet))) ∧
        (∃ r, kget t.g.recs s.g.nrec = some r ∧ r.lanes = s.cur.mask ∧ r.clanes = s.cur.mask ∧ r.pc = s.cur.pc ∧ r.va = va ∧
          r.perm = decide (c = 0x30#8) ∧ r.woken = false) ∧
        t.g.nrec = s.g.nrec + 1 ∧ t.g.v = s.g.v)

/-- Inputs and events (R18): an input that can happen goes first; then issues and events take turns, and when nothing can
happen time passes and an input that cannot happen is dropped. -/
def Obligations.InputAndEventStep : Prop :=
  ∀ (s u : State) (i : Instr) (rest : List Instr),
    let r := tick s
    (s.agenda = i :: rest → isEvent i = true → exec i { r with agenda := rest } = .next u → step s = .next u) ∧
    (s.agenda = i :: rest → isEvent i = true → (∀ t, exec i { r with agenda := rest } ≠ .next t) → inputStep r = none) ∧
    (s.agenda = i :: rest → isEvent i = false → inputStep r = none) ∧
    (s.agenda = [] → inputStep r = none) ∧
    (inputStep r = none → s.turn % 2 = 1 ∨ pick r = none → firstCand r (cands r) = some u → step s = .next u) ∧
    (inputStep r = none → pick r = none → firstCand r (cands r) = none →
      step s = .next { r with agenda := s.agenda.drop 1 })

/-- Decoding of written-out words. -/
def Obligations.DecodeExamples : Prop :=
  -- VMOV v5, v9: B = 9, D = 5, OP4 = 0 (R80, R81)
  decode anyKernel [0b0100100010100000#16] = .ok (.vmov 9#5 5#6) 1 ∧
  -- VADD v2, v4, v8: opcode 0x01, D = 2, A = 4, B = 8 (R77, R87)
  decode anyKernel [0b0001000000000011#16, 0b0001000000010000#16] =
    .ok (.vadd ⟨none, none⟩ ⟨8#7, 4#7, 2#7, 0#1, 0#2⟩) 2 ∧
  -- SADD s3, s1, s2: opcode 0x34, function 0, B = 2, A = 1, D = 3
  decode anyKernel [0b0001100001101001#16, 0b0000000100000010#16] = .ok (.sadd ⟨none, none⟩ ⟨2#6, 1#6, 3#6, 0#1⟩) 2 ∧
  -- BR on condition 1 (EQ) by 3 halfwords: opcode 0x40, offset in bits 31 to 16, condition in bits 15 to 11
  decode anyKernel [0b0000100010000001#16, 3#16] = .ok (.br ⟨none, none⟩ 3#16 1#5) 2 ∧
  -- LD.G v4, [s2, #16]: opcode 0x50, X = 0, offset 16, A = 2, D = 4
  decode anyKernel [0b0010000010100001#16, 0b0001000000001000#16] = .ok (.ldG ⟨none, none⟩ ⟨0#1, 16#7, 2#6, 4#7, 0#2⟩) 2 ∧
  -- FENCE.DEV: opcode 0x61
  decode anyKernel [0x00C3#16, 0x000C#16] = .ok (.fence ⟨none, none⟩ 0#7 3#7) 2 ∧
  -- a kind-0 prefix with RC = 2 (the neutral value, R84) and TY = 0x11 before the VADD
  decode anyKernel [0b1000000011111111#16, 0b0000010000001000#16, 0b0001000000000011#16, 0b0001000000010000#16] =
    .ok (.vadd ⟨some ⟨2, 0, 0, 0x11, 0, 0, 0⟩, none⟩ ⟨8#7, 4#7, 2#7, 0#1, 0#2⟩) 4 ∧
  -- RET s63: opcode 0x44
  decode anyKernel [0x0089#16, 0x00FC#16] = .ok (.ret ⟨none, none⟩ 63#7) 2

/-- Unassigned opcodes and functions (R89), with the refusals of R83, R86 and R90 that come before them. -/
def Obligations.IllegalEncodings : Prop :=
  (∀ (k : KCtx) (w : Word) (t : List Half), w.getLsbD 0 = true →
    let op := w.extractLsb' 1 7
    (op ∈ [0x1D#7, 0x1E#7, 0x1F#7, 0x32#7, 0x33#7, 0x4A#7, 0x4B#7, 0x7B#7, 0x7C#7, 0x7D#7, 0x7E#7] →
      decode k (halves w ++ t) = .bad .undefOp 2) ∧
    ((op = 0x08#7 ∧ 6 ≤ (w.extractLsb' 25 7).toNat) ∨ (op = 0x28#7 ∧ 9 ≤ (w.extractLsb' 25 7).toNat) ∨
      (op = 0x35#7 ∧ 4 ≤ (w.extractLsb' 29 3).toNat) ∨ (op = 0x38#7 ∧ w.extractLsb' 29 3 = 7#3) →
      decode k (halves w ++ t) = .bad .undefFn 2)) ∧
  (∀ n, (Fetched.bad .undefOp n).instr = .illegalInstruction 0x53#8 ∧
    (Fetched.bad .undefFn n).instr = .illegalInstruction 0x54#8) ∧
  (∀ (c : BitVec 8) (s : State), CanIssue s →
    ∃ u, exec (.illegalInstruction c) s = .next (takeTrap s.cur.grp u s) ∧ u.cause = c) ∧
  ∀ (k : KCtx) (h : Half) (w : Word) (x y : Ext0) (m n : BitVec 23) (t : List Half), m ≠ 0x7FFFFF#23 → n ≠ 0x7FFFFF#23 →
    let twice (p q : Word) : Prop :=
      (h.getLsbD 0 = false → h ≠ 0#16 → decode k (halves p ++ halves q ++ h :: t) = .bad .badExt 5) ∧
      (w.getLsbD 0 = true → isExt w = false → w ≠ 0xFFFFFFFF#32 →
        decode k (halves p ++ halves q ++ halves w ++ t) = .bad .badExt 6)
    decode k (0x0000#16 :: t) = .bad .zeroWord 1 ∧
    decode k (halves 0xFFFFFFFF#32 ++ t) = .bad .onesWord 2 ∧
    decode k (halves (encodeExt0 x) ++ halves 0xFFFFFFFF#32 ++ t) = .bad .onesWord 4 ∧
    twice (encodeExt0 x) (encodeExt0 y) ∧ twice (encodeExt1 m) (encodeExt1 n) ∧ twice (encodeExt1 m) (encodeExt0 y) ∧
    (h.getLsbD 0 = false → h ≠ 0#16 → decode k (halves (encodeExt0 x) ++ h :: t) = .bad .badExt 3)

/-- Decode and encode agree. -/
def Obligations.DecodeEncodeRoundTrip : Prop :=
  ∀ (k : KCtx) (i : Instr), WellFormed k i → decode k (encode i) = .ok i (encode i).length

/-- Instructions answer a next state. -/
def Obligations.InstructionsGoOn : Prop :=
  ∀ (i : Instr) (s : State), isEvent i = false → ∃ t, exec i s = .next t

/-- Reset (R345, R438 to R442, and the reset columns of the register tables; one device: log entry 4). -/
def Obligations.ResetState : Prop :=
  let s := State.reset
  let v := s.dev 0
  Safe s ∧ s.time = 0#64 ∧ s.mem = [] ∧ s.devs.map Prod.fst = [0] ∧ s.parts = [] ∧ s.groups = [] ∧ s.cmds = [] ∧
  layCtl v = 2 ∧ auditCtl v = 2 ^ 63 + 16 ∧ v.audMis = 0 ∧ throtStat v = 0 ∧ bootStat v = 0 ∧ v.host = [] ∧
  v.alarmStat = 0#4 ∧ v.alarmCfg = 0x85#64 ∧ (∀ k, rget v.meas k = 0#384) ∧
  (∀ a, readCtx (v.ctxOf a) 0x18 = 6#64 ∧ readCtx (v.ctxOf a) 0x00 = 0#64) ∧
  (∀ n, vifCtl (v.vifOf n) = 6 ∧ (v.vifOf n).arm = 0#64) ∧
  ∀ (r : State) (d p : Nat), kget r.parts (d * 16 + p) = none →
    ctlRead r d p 0x08 = 12#64 ∧ ctlRead r d p 0x20 = 1000000#64 ∧
    ∀ off < 0x200, off ≠ 0x08 → off ≠ 0x20 → off ≠ 0x40 → ctlRead r d p off = 0#64

/-- The invariant of memory. -/
def Obligations.MemoryCanonicalStep : Prop :=
  ∀ s t : State, Safe s → step s = .next t → Safe t

/-- The fault ring (R312, R326), poisoned sectors (R226) and errors that stores find (R431, R366). -/
def Obligations.FaultRingAndPoisonRules : Prop :=
  (∀ (s : State) (d p : Nat) (f : FEnt),
    let q := s.part d p
    let n := (s.dev d).fqn p
    let cov (e : FEnt) : Prop := e.asid = f.asid ∧ e.va.toNat / 4096 = f.va.toNat / 4096 ∧ e.perm = f.perm ∧
      (e.kind = f.kind ∨ (e.kind = 1 ∧ f.kind = 0) ∨ (e.kind = 2 ∧ (f.kind = 0 ∨ f.kind = 1)))
    let r := postFault s d p f
    ({ r.1 with mem := s.mem, psn := s.psn, parts := s.parts } = s) ∧
    ((∃ e ∈ q.fents, cov e) → ∃ e ∈ q.fents, cov e ∧ r.2 = some e.seq ∧ (r.1.part d p).fseq = q.fseq ∧
      (r.1.part d p).fents = q.fents.map fun x =>
        if x.seq = e.seq then { e with merged := true, tpoi := e.tpoi || f.tpoi } else x) ∧
    ((∀ e ∈ q.fents, ¬cov e) → q.fents.length < n → (∀ e ∈ q.fents, e.seq % n ≠ q.fseq % n) →
      r.2 = some q.fseq ∧ (r.1.part d p).fseq = q.fseq + 1 ∧
      (r.1.part d p).fents = q.fents ++ [{ f with seq := q.fseq, merged := false }]) ∧
    ((∀ e ∈ q.fents, ¬cov e) → n ≤ q.fents.length → r = (s, none))) ∧
  (∀ (s : State) (k : Nat) (cs : List (Nat × Byte)),
    let r := putSector s (k, cs)
    { r.1 with mem := s.mem, psn := s.psn } = s ∧
    (kget s.psn k ≠ none → cs.length ≠ 32 → r = (s, false)) ∧
    (kget s.psn k = none ∨ cs.length = 32 → Safe s → r.2 = true ∧ kget r.1.psn k = none ∧
      (∀ j, j ≠ k → kget r.1.psn j = kget s.psn j) ∧
      ∀ a, memGet r.1.mem a = ((cs.reverse.find? fun c => c.1 = a).map Prod.snd).getD (memGet s.mem a))) ∧
  (∀ (s : State) (d sec : Nat) (x : BitVec 64),
    (∃ t, exec (.registerWrite d 0 6 sec x) s = .next t ∧ kget t.psn sec = some 1 ∧ t.mem = s.mem ∧ t.groups = s.groups ∧
      (∀ j, j ≠ sec → kget t.psn j = kget s.psn j)) ∧
    (∀ g l r, (kget s.groups g).isSome = true → r < 128 → l < (s.grp g).width → r < (s.grp g).nregs →
      x = BitVec.ofNat 64 (vk l r) → vk l r < 2 ^ 64 →
      ∃ t, exec (.registerWrite d 4 6 g x) s = .next t ∧ kget (t.grp g).pz (vk l r) = some 1 ∧
        (t.grp g).kept = (s.grp g).kept ∧ t.mem = s.mem) ∧
    (∀ g, (kget s.groups g).isSome = true →
      ∃ t, exec (.registerWrite d 13 6 g x) s = .next t ∧ kget (t.grp g).smk x.toNat = some 1 ∧
        (t.grp g).copies = (s.grp g).copies ∧ t.mem = s.mem) ∧
    (∀ off, (kget s.devs d).isSome = true → off / 16 < 34 →
      ∃ t, exec (.registerWrite d 12 6 off x) s = .next t ∧
        kget (t.dev d).ilost off = some ((kget (s.dev d).ilost off).getD 0 + 1) ∧ t.groups = s.groups ∧ t.mem = s.mem))

/-- Events of the memory path (R99, R209, R210, R230, R252). -/
def Obligations.ReturnsStoresAndSweeps : Prop :=
  (∀ (s : State) (g n : Nat) (p : Pend), kget (s.grp g).pend n = some p → p.made = true →
    (kget s.groups g).isSome = true →
    ∃ t, exec (.loadDataReturn g n) s = .next t ∧ kget (t.grp g).pend n = none ∧
      (∀ w ∈ p.words, w.dead = false → w.reg < 128 →
        (∀ x ∈ p.words, x.lane = w.lane → x.reg = w.reg → x = w) →
        (∀ x ∈ p.words, x.reg < 128) →
        rget (t.grp g).v (vk w.lane w.reg) = w.val ∧ (kget (t.grp g).pz (vk w.lane w.reg)).getD 0 = w.mark) ∧
      (∀ l r, r < 128 → (∀ x ∈ p.words, x.reg < 128) → (∀ x ∈ p.words, x.lane = l → x.reg ≠ r) →
        rget (t.grp g).v (vk l r) = rget (s.grp g).v (vk l r) ∧ kget (t.grp g).pz (vk l r) = kget (s.grp g).pz (vk l r)) ∧
      (t.grp g).oc = ((s.grp g).doneOp 0 p.op).oc ∧ (t.grp g).lanes = (s.grp g).lanes ∧
      (∀ h, h ≠ g → kget t.groups h = kget s.groups h) ∧ (p.om = [] → t.mem = s.mem)) ∧
  (∀ (s : State) (core n : Nat) (w : WLine),
    (s.core core).wp.find? (fun x => x.seq = n) = some w → lineReady s core w = true →
    ∃ t, exec (.storePerformed core n) s = .next t ∧
      (t.core core).wp = (s.core core).wp.filter (fun x => x.seq ≠ n) ∧
      (∀ c, c ≠ core → t.core c = s.core c) ∧
      ∀ r x, w.recs = [r] → bySector r.cells = [x] →
        let pl := place s (core / 256) (s.partOfCore core) w.kind 2 (gkOff (32 * x.1))
        let at_ (c : Nat × Byte) : Nat := pl.key + c.1 % 32
        (pl.bad = 0 → pl.key % 32 = 0 → kget s.psn (pl.key / 32) = none → Safe s →
          ∀ a, memGet t.mem a = ((x.2.reverse.find? fun c => at_ c = a).map Prod.snd).getD (memGet s.mem a)) ∧
        (pl.bad ≠ 0 → t.mem = s.mem ∧ ((kget s.groups r.grp).isSome = true →
          ∃ f, (t.grp r.grp).fails = (s.grp r.grp).fails ++ [f] ∧ f.op = r.op ∧
            f.cause = BitVec.ofNat 8 (poisonCause pl.bad)))) ∧
  (∀ (s : State) (core : Nat), (s.core core).swp = true →
    ∃ t, exec (.editionSweepEnd 0 core) s = .next t ∧ { t with cores := s.cores } = s ∧ (t.core core).swp = false ∧
      (t.core core).l1 = (s.core core).l1.filter fun x =>
        x.ed.all fun e => decide (e < 8) = decide ((s.core core).ed.toNat < 8)) ∧
  (∀ (s : State) (k : Nat), (s.part (k / 16) (k % 16)).dswp = true →
    ∃ t, exec (.editionSweepEnd 1 k) s = .next t ∧ { t with parts := s.parts } = s ∧
      (t.part (k / 16) (k % 16)).dswp = false ∧
      (t.part (k / 16) (k % 16)).l2 = (s.part (k / 16) (k % 16)).l2.filter fun x =>
        decide (gkOff (x.line * 256) / 2 ^ 52 = 2) ||
          decide ((x.dom < 8) = ((s.part (k / 16) (k % 16)).edom.toNat < 8))) ∧
  (∀ (s : State) (k : Nat), (s.part (k / 16) (k % 16)).sswp = true →
    ∃ t, exec (.editionSweepEnd 2 k) s = .next t ∧ { t with parts := s.parts } = s ∧
      (t.part (k / 16) (k % 16)).sswp = false ∧
      (t.part (k / 16) (k % 16)).l2 = (s.part (k / 16) (k % 16)).l2.filter fun x =>
        decide (gkOff (x.line * 256) / 2 ^ 52 ≠ 2) ||
          decide ((x.sys < 8) = ((s.part (k / 16) (k % 16)).esys.toNat < 8))) ∧
  (∀ (s : State) (d p line : Nat) (want : BitVec 8),
    let u := fetchDone d p line s
    want ≠ 0#8 → want = (u.part d p).mscLack line (pendingWant s d p line) →
    ∃ t, exec (.mscMissFetch d p line want) s = .next t ∧ { t with parts := s.parts } = s ∧
      (∃ b, kget (t.part d p).fetch line = some b ∧ b &&& want = want) ∧
      (t.part d p).msc = (u.part d p).msc ∧ (t.part d p).l2d = (s.part d p).l2d ∧
      ∀ j, j ≠ line → kget (t.part d p).fetch j = kget (s.part d p).fetch j)

/-- Requests at a home (R213 to R215). -/
def Obligations.HomeRequests : Prop :=
  ∀ (s : State) (q line ln : Nat), reqLine s line = some ln →
    let t := rget s.tags ln
    let st := tagST t
    let own := tagOWN t
    let sec := tagSEC t
    let goes (i : Instr) (x : Word) : Prop :=
      ∃ u, exec i s = .next u ∧ { u with tags := s.tags, edirty := s.edirty } = s ∧ rget u.tags ln = x ∧
        ∀ j, j ≠ ln → rget u.tags j = rget s.tags j
    let waits (i : Instr) (k : HKind) (n : Nat) (bi : Bool) (acks : List Nat) : Prop :=
      exec i s = .next { s with home := kput s.home ln ⟨k, n, acks, acks.filter fun m => (kget s.devs m).isSome, bi, []⟩ }
    let others : List Nat := (tagCopies s ln t).filter fun n => n ≠ q
    let hh : Word := t &&& (1#32 <<< 25)
    let wrong (i : Instr) : Prop := exec i s = .next (protoError q ln s)
    (∀ h k i, kget s.home ln = some h →
      (i, k) ∈ [(Instr.rdsh q line, HKind.rdsh), (.rdown q line, .rdown), (.upgrade q line, .upgrade),
        (.wback q line, .wback), (.evict q line, .evict)] →
      exec i s = .next { s with home := kput s.home ln { h with waiting := h.waiting ++ [(k, q)] } }) ∧
    (kget s.home ln = none → tagPoison t = true →
      ∀ i ∈ [Instr.rdsh q line, .rdown q line, .upgrade q line, .wback q line, .evict q line,
        .hostOwnershipRequest line], exec i s = .next s) ∧
    (kget s.home ln = none → reqOk s .rdsh q ln = false →
      ∀ i ∈ [Instr.rdsh q line, .rdown q line, .upgrade q line, .wback q line, .evict q line], exec i s = .next s) ∧
    (kget s.home ln = none → tagPoison t = false → reqOk s .rdsh q ln = true →
      (st = 0 → tagHH t = false → goes (.rdsh q line) (mkTag 2 q 0)) ∧
      (st = 0 → tagHH t = true → waits (.rdsh q line) .rdsh q true []) ∧
      (st = 1 → own = sec → q ≠ own → goes (.rdsh q line) (mkTag 1 own q ||| hh)) ∧
      (st = 1 → own ≠ sec → q ≠ own → q ≠ sec → goes (.rdsh q line) (mkTag 5 0 0 ||| hh)) ∧
      (st = 2 → q ≠ own → (kget s.edirty ln).getD false = true → goes (.rdsh q line) (mkTag 4 own q ||| hh)) ∧
      (st = 2 → q ≠ own → (kget s.edirty ln).getD false = false → goes (.rdsh q line) (mkTag 1 own q ||| hh)) ∧
      (st = 3 → q ≠ own → goes (.rdsh q line) (mkTag 4 own q ||| hh)) ∧
      (st = 4 → q ≠ own → goes (.rdsh q line) (mkTag 5 0 0 ||| hh)) ∧
      ((st = 1 ∧ (q = own ∨ q = sec)) ∨ (st = 2 ∧ q = own) ∨ st = 5 → goes (.rdsh q line) t) ∧
      (st = 3 ∨ st = 4 → q = own → wrong (.rdsh q line)) ∧
      (∀ i k, (i, k) ∈ [(Instr.rdown q line, HKind.rdown), (.upgrade q line, .upgrade)] →
        (st = 2 → own = q → exec i s = .next s) ∧
        (st = 3 ∨ (st = 4 ∧ k = HKind.rdown) → own = q → wrong i) ∧
        (¬((st = 2 ∨ st = 3 ∨ (st = 4 ∧ k = HKind.rdown)) ∧ own = q) →
          (others = [] → tagHH t = false → goes i (mkTag 3 q 0)) ∧
          (others ≠ [] ∨ tagHH t = true → waits i k q (tagHH t) others))) ∧
      ((st = 2 ∨ st = 3) → own = q → goes (.wback q line) hh) ∧
      (st = 4 → own = q → goes (.wback q line) (mkTag 1 sec sec ||| hh)) ∧
      ((st = 0 ∨ st = 1 ∨ st = 5 ∨ own ≠ q) → wrong (.wback q line)) ∧
      (st = 2 → own = q → goes (.evict q line) hh) ∧
      (st = 1 → own = q → sec = q → goes (.evict q line) hh) ∧
      (st = 1 → own = q → sec ≠ q → goes (.evict q line) (mkTag 1 sec sec ||| hh)) ∧
      (st = 1 → own ≠ q → sec = q → goes (.evict q line) (mkTag 1 own own ||| hh)) ∧
      (st = 4 → own ≠ q → sec = q → goes (.evict q line) (mkTag 4 own own ||| hh)) ∧
      (st = 0 ∨ st = 5 ∨ ((st = 2 ∨ st = 3) ∧ own ≠ q) ∨ ((st = 1 ∨ st = 4) ∧ own ≠ q ∧ sec ≠ q) →
        goes (.evict q line) t) ∧
      ((st = 3 ∨ st = 4) → own = q → wrong (.evict q line))) ∧
    (∀ w : State,
      { protoError q ln w with groups := w.groups } = w ∧
      ∀ g, ((protoError q ln w).grp g).v = (w.grp g).v ∧ ((protoError q ln w).grp g).lanes = (w.grp g).lanes) ∧
    (kget s.home ln = none → tagPoison t = false → reqOk s .host 0 ln = true →
      (tagCopies s ln t = [] → goes (.hostOwnershipRequest line) (1#32 <<< 25)) ∧
      (tagCopies s ln t ≠ [] → waits (.hostOwnershipRequest line) .host 0 false (tagCopies s ln t)))

/-- Answers at a home (R213 to R215), host accesses (R415), a general core's reads and fence (R455, R260), loads from a
control space or PF0 (R460), and measurements by firmware (R440). Port codes 4 to 9 are the model's (log entry 138). -/
def Obligations.HomeAnswersAndHostAccess : Prop :=
  (∀ (s : State) (d line : Nat) (h : HReq), kget s.home line = some h →
    (d ∉ h.inv → exec (.invalidateRequest d line) s = .next s) ∧
    (d ∈ h.inv → ∃ t, exec (.invalidateRequest d line) s = .next t ∧
      kget t.home line = some { h with inv := h.inv.filter fun n => n ≠ d } ∧ t.tags = s.tags ∧ t.mem = s.mem ∧
      (∀ c, c / 256 ≠ d → t.core c = s.core c) ∧ (∀ c, (t.core c).wp = (s.core c).wp)) ∧
    (d ∉ h.acks ∨ d ∈ h.inv → exec (.invalidationAcknowledgement d line) s = .next s) ∧
    (d ∈ h.acks → d ∉ h.inv →
      (h.acks.filter (fun n => n ≠ d) ≠ [] ∨ h.bi = true →
        exec (.invalidationAcknowledgement d line) s =
          .next { s with home := kput s.home line { h with acks := h.acks.filter fun n => n ≠ d } }) ∧
      (h.acks.filter (fun n => n ≠ d) = [] → h.bi = false → h.waiting = [] → h.kind = .rdown ∨ h.kind = .upgrade →
        ∃ t, exec (.invalidationAcknowledgement d line) s = .next t ∧
          { t with tags := s.tags, edirty := s.edirty, home := s.home } = s ∧ kget t.home line = none ∧
          rget t.tags line = mkTag 3 h.q 0 ∧ ∀ j, j ≠ line → rget t.tags j = rget s.tags j)) ∧
    (h.bi = true → h.acks = [] → h.waiting = [] → h.kind = .rdsh →
      ∃ t, exec (.backInvalidationCompletion line) s = .next t ∧
        { t with tags := s.tags, edirty := s.edirty, home := s.home } = s ∧ kget t.home line = none ∧
        rget t.tags line = mkTag 2 h.q 0) ∧
    (h.bi = true → h.acks ≠ [] →
      ∃ t, exec (.backInvalidationCompletion line) s = .next t ∧
        kget t.home line = some { h with bi := false } ∧ rget t.tags line = rget s.tags line &&& ~~~(1#32 <<< 25))) ∧
  (∀ (s : State) (d p port off len : Nat), port ∉ [4, 5, 6, 7, 8, 9] → hostFree s d p off len = true →
    let at_ (perm j : Nat) : Place := placeLocal s d p 4 perm s.migFuel d p (off + j)
    let bytes : List (Byte × Nat) := (List.range len).map fun j => homeByte s (at_ 1 j)
    (hostReaches s d p off len = false ∨ (s.dev d).lockout = true →
      exec (.cxlMemAccess d p port off len []) s = .next { s with outData := [] }) ∧
    (hostReaches s d p off len = true → (s.dev d).lockout = false → (∀ b ∈ bytes, b.2 = 0) →
      exec (.cxlMemAccess d p port off len []) s = .next { s with outData := bytes.map Prod.fst }) ∧
    (hostReaches s d p off len = true → (∃ b ∈ bytes, b.2 ≠ 0) →
      exec (.cxlMemAccess d p port off len []) s = .next { s with outData := [] }) ∧
    (∀ data : List Byte, data ≠ [] → data.length = len →
      (hostReaches s d p off len = false →
        exec (.cxlMemAccess d p port off len data) s = .next { s with outData := [] }) ∧
      (hostReaches s d p off len = true → (∀ j < len, (at_ 2 j).bad = 0 ∧ kget s.psn ((at_ 2 j).key / 32) = none) →
        (∀ i j, i < len → j < len → (at_ 2 i).key = (at_ 2 j).key → i = j) → Safe s →
        ∃ t, exec (.cxlMemAccess d p port off len data) s = .next t ∧
          (∀ j b, data[j]? = some b → memGet t.mem (at_ 2 j).key = b) ∧
          ∀ a, (∀ j < len, (at_ 2 j).key ≠ a) → memGet t.mem a = memGet s.mem a))) ∧
  (∀ (s : State) (d p off len : Nat),
    let ctl : List Byte := (List.range len).map fun j => byteOf (ctlRead s d p ((off + j) / 8 * 8)).toNat ((off + j) % 8)
    (∃ t, exec (.cxlMemAccess d p 5 off len []) s = .next t ∧
      (t.part d p).edom = (s.part d p).edom + 1 ∧ (t.part d p).esys = (s.part d p).esys + 1) ∧
    exec (.cxlMemAccess d p 6 off len []) s = .next { s with outData := ctl } ∧
    exec (.cxlMemAccess d p 7 off len []) s = .next { s with outData := barLoad s d p off len } ∧
    exec (.cxlMemAccess d p 8 off len []) s = .next { s with outData := leBytes (readPf0 (s.dev d) off).toNat 8 } ∧
    (∀ data : List Byte, (s.dev d).bootDone = true → measureOk off data = true → data.length = len →
      exec (.cxlMemAccess d p 9 off len data) s = .next (s.modDev d fun v => v.extend off (BitVec.ofNat 384 (leNat data)))) ∧
    ∀ x, generalFree s d p off len false = false → generalWant s d p off len false = some x →
      exec (.cxlMemAccess d p 4 off len []) s =
        .next (homeRequest x.1 x.2.1 x.2.2 { s with agenda := .cxlMemAccess d p 4 off len [] :: s.agenda })) ∧
  (∀ (s : State) (d p off len : Nat), generalFree s d p off len false = true →
    let at_ (j : Nat) : Place := place s d p ((s.part d p).folKind (off + j)).1 1 (off + j)
    let bytes : List (Byte × Nat) := (List.range len).map fun j => homeByte s (at_ j)
    ((s.dev d).capacity p < off + len → exec (.cxlMemAccess d p 4 off len []) s = .next { s with outData := [] }) ∧
    (off + len ≤ (s.dev d).capacity p → (∀ b ∈ bytes, b.2 = 0) →
      ∃ t, exec (.cxlMemAccess d p 4 off len []) s = .next t ∧ t.outData = bytes.map Prod.fst ∧
        { t with tags := s.tags, edirty := s.edirty, outData := s.outData } = s))
end

