-- ==== Sys2Proof/Laws/Maps.lean ====
section
/-! SUPPORT. Sys2Proof/Laws/Maps.lean: what the finite maps and the byte memory can do, said once. -/

namespace Sys2Proof.Machine
open Sys2Proof

theorem kget_kput_same {α : Type} (m : KV α) (i : Nat) (v : α) : kget (kput m i v) i = some v := by
  induction m with
  | nil => simp [kput, kget]
  | cons e t ih =>
    obtain ⟨k, w⟩ := e
    simp only [kput]
    split
    · simp [kget]
    · split
      · simp [kget]
      · next h1 h2 => simp [kget, Ne.symm h2, ih]

theorem kget_kput_ne {α : Type} (m : KV α) (i j : Nat) (v : α) (h : i ≠ j) : kget (kput m i v) j = kget m j := by
  induction m with
  | nil => simp [kput, kget, h]
  | cons e t ih =>
    obtain ⟨k, w⟩ := e
    simp only [kput]
    split
    · simp [kget, h]
    · split
      · next h2 => subst h2; simp [kget, h]
      · simp only [kget, ih]

theorem kget_kput {α : Type} (m : KV α) (i j : Nat) (v : α) :
    kget (kput m i v) j = if i = j then some v else kget m j := by
  split
  · next h => subst h; exact kget_kput_same m i v
  · next h => exact kget_kput_ne m i j v h

theorem rget_kput {n : Nat} (m : KV (BitVec n)) (i j : Nat) (v : BitVec n) :
    rget (kput m i v) j = if i = j then v else rget m j := by
  simp only [rget, kget_kput]; split <;> rfl

theorem kget_filter {α : Type} (m : KV α) (p : Nat → Bool) (i : Nat) :
    kget (m.filter fun e => p e.1) i = if p i then kget m i else none := by
  induction m with
  | nil => simp [kget]
  | cons e t ih =>
    obtain ⟨k, w⟩ := e
    by_cases hk : k = i
    · subst hk
      cases hp : p k <;> simp [hp, kget, ih]
    · cases hp : p k <;> simp [hp, kget, hk, ih]

theorem kget_kdel {α : Type} (m : KV α) (i j : Nat) : kget (kdel m i) j = if i = j then none else kget m j := by
  have h := kget_filter m (fun k => decide (k ≠ i)) j
  simp only [kdel]
  rw [show (fun e : Nat × α => decide (e.1 ≠ i)) = fun e => (fun k => decide (k ≠ i)) e.1 from rfl, h]
  by_cases hij : i = j
  · simp [hij]
  · simp [hij, Ne.symm hij]

theorem kget_kmod {α : Type} (m : KV α) (i j : Nat) (f : α → α) :
    kget (kmod m i f) j = if i = j then (kget m i).map f else kget m j := by
  simp only [kmod]
  split
  · next v hv => simp only [kget_kput]; split <;> simp_all
  · next hv => split <;> simp_all

/-- A map applied to every value under a number-preserving function. -/
theorem kget_map {α : Type} (m : KV α) (f : Nat → α → α) (i : Nat) :
    kget (m.map fun e => (e.1, f e.1 e.2)) i = (kget m i).map (f i) := by
  induction m with
  | nil => simp [kget]
  | cons e t ih =>
    obtain ⟨k, w⟩ := e
    by_cases hk : k = i
    · subst hk; simp [kget]
    · simp [kget, hk, ih]

/-! ### Memory -/

theorem memWfFrom_mono {a b : Nat} (h : a ≤ b) : ∀ {m : Mem}, memWfFrom b m = true → memWfFrom a m = true
  | [], _ => rfl
  | (k, v) :: t, hm => by
    simp only [memWfFrom, Bool.and_eq_true, decide_eq_true_eq] at hm ⊢
    exact ⟨⟨Nat.le_trans h hm.1.1, hm.1.2⟩, hm.2⟩

theorem memDel_wfFrom (a : Nat) : ∀ (m : Mem) (lo : Nat), memWfFrom lo m = true → memWfFrom lo (memDel m a) = true
  | [], _, _ => rfl
  | (k, v) :: t, lo, h => by
    simp only [memDel]
    split
    · exact h
    · simp only [memWfFrom, Bool.and_eq_true, decide_eq_true_eq] at h
      split
      · exact memWfFrom_mono (by omega) h.2
      · simp only [memWfFrom, Bool.and_eq_true, decide_eq_true_eq]
        exact ⟨h.1, memDel_wfFrom a t _ h.2⟩

theorem memIns_wfFrom (a : Nat) (b : Byte) (hb : b ≠ 0#8) :
    ∀ (m : Mem) (lo : Nat), lo ≤ a → memWfFrom lo m = true → memWfFrom lo (memIns m a b) = true
  | [], lo, hl, _ => by simp [memIns, memWfFrom, hb, hl]
  | (k, v) :: t, lo, hl, h => by
    simp only [memIns]
    simp only [memWfFrom, Bool.and_eq_true, decide_eq_true_eq] at h
    split
    · next h1 =>
      simp only [memWfFrom, Bool.and_eq_true, decide_eq_true_eq]
      exact ⟨⟨hl, hb⟩, ⟨by omega, h.1.2⟩, h.2⟩
    · split
      · next h2 =>
        simp only [memWfFrom, Bool.and_eq_true, decide_eq_true_eq]
        exact ⟨⟨hl, hb⟩, by subst h2; exact h.2⟩
      · simp only [memWfFrom, Bool.and_eq_true, decide_eq_true_eq]
        exact ⟨h.1, memIns_wfFrom a b hb t _ (by omega) h.2⟩

/-- Writing a byte keeps the canonical form. -/
theorem memSet_wf (m : Mem) (a : Nat) (b : Byte) (h : Memory.wf m = true) : Memory.wf (memSet m a b) = true := by
  simp only [memSet]
  split
  · exact memDel_wfFrom a m 0 h
  · next hb => exact memIns_wfFrom a b hb m 0 (Nat.zero_le _) h

theorem memFilter_wfFrom (p : Nat × BitVec 8 → Bool) :
    ∀ (m : Mem) (lo : Nat), memWfFrom lo m = true → memWfFrom lo (m.filter p) = true
  | [], _, _ => rfl
  | (k, v) :: t, lo, h => by
    simp only [memWfFrom, Bool.and_eq_true, decide_eq_true_eq] at h
    cases hp : p (k, v)
    · simp only [List.filter_cons, hp, Bool.false_eq_true, ↓reduceIte]
      exact memWfFrom_mono (by omega) (memFilter_wfFrom p t _ h.2)
    · simp only [List.filter_cons, hp, ↓reduceIte, memWfFrom, Bool.and_eq_true, decide_eq_true_eq]
      exact ⟨h.1, memFilter_wfFrom p t _ h.2⟩

/-- Clearing a range keeps the canonical form. -/
theorem memClear_wf (m : Mem) (lo hi : Nat) (h : Memory.wf m = true) : Memory.wf (memClear m lo hi) = true :=
  memFilter_wfFrom _ m 0 h

/-- Writing bytes one after another keeps the canonical form. -/
theorem memFold_wf {α : Type} (f : Mem → α → Mem) (hf : ∀ m x, Memory.wf m = true → Memory.wf (f m x) = true) :
    ∀ (l : List α) (m : Mem), Memory.wf m = true → Memory.wf (l.foldl f m) = true
  | [], _, h => h
  | x :: t, m, h => memFold_wf f hf t (f m x) (hf m x h)

theorem memGet_below {m : Mem} {lo a : Nat} (h : memWfFrom lo m = true) (ha : a < lo) : memGet m a = 0#8 := by
  cases m with
  | nil => rfl
  | cons e t =>
    obtain ⟨k, v⟩ := e
    simp only [memWfFrom, Bool.and_eq_true, decide_eq_true_eq] at h
    simp [memGet, show ¬ k = a by omega, show a < k by omega]

theorem memGet_memDel : ∀ (m : Mem) (a x lo : Nat), memWfFrom lo m = true →
    memGet (memDel m a) x = if a = x then 0#8 else memGet m x
  | [], a, x, _, _ => by simp [memDel, memGet]
  | (k, v) :: t, a, x, lo, h => by
    simp only [memWfFrom, Bool.and_eq_true, decide_eq_true_eq] at h
    simp only [memDel]
    split
    · next h1 =>
      split
      · next h2 => subst h2; simp [memGet, show ¬ k = a by omega, h1]
      · rfl
    · split
      · next h1 h2 =>
        subst h2
        split
        · next h3 => subst h3; exact memGet_below h.2 (by omega)
        · next h3 =>
          simp only [memGet, h3, ↓reduceIte]
          split
          · next h4 => exact memGet_below h.2 (by omega)
          · rfl
      · next h1 h2 =>
        simp only [memGet, memGet_memDel t a x _ h.2]
        by_cases h3 : k = x
        · simp [h3, show ¬ a = x by omega]
        · by_cases h4 : x < k
          · simp [h3, h4]
          · simp [h3, h4]

theorem memGet_memIns : ∀ (m : Mem) (a x : Nat) (b : Byte),
    memWfFrom 0 m = true → memGet (memIns m a b) x = if a = x then b else memGet m x
  | m, a, x, b, h => go m a x b 0 h
where
  go : ∀ (m : Mem) (a x : Nat) (b : Byte) (lo : Nat),
      memWfFrom lo m = true → memGet (memIns m a b) x = if a = x then b else memGet m x
  | [], a, x, b, _, _ => by simp [memIns, memGet]
  | (k, v) :: t, a, x, b, lo, h => by
    simp only [memWfFrom, Bool.and_eq_true, decide_eq_true_eq] at h
    simp only [memIns]
    split
    · next h1 =>
      simp only [memGet]
      by_cases h2 : a = x
      · simp [h2]
      · by_cases h3 : x < a
        · simp [h2, h3, show ¬ k = x by omega, show x < k by omega]
        · simp [h2, h3]
    · split
      · next h1 h2 =>
        subst h2
        simp only [memGet]
        by_cases h3 : a = x <;> simp [h3]
      · next h1 h2 =>
        simp only [memGet, go t a x b _ h.2]
        by_cases h3 : k = x
        · simp [h3, show ¬ a = x by omega]
        · by_cases h4 : x < k
          · simp [h3, h4, show ¬ a = x by omega]
          · simp [h3, h4]

/-- Read after write, and every other byte left alone. -/
theorem memGet_memSet (m : Mem) (a x : Nat) (b : Byte) (h : Memory.wf m = true) :
    memGet (memSet m a b) x = if a = x then b else memGet m x := by
  simp only [memSet]
  split
  · next hb => rw [memGet_memDel m a x 0 h]; split <;> simp_all
  · exact memGet_memIns m a x b h

end Sys2Proof.Machine
end

