-- ==== Sys2Proof/Laws/State.lean ====
section
/-! SUPPORT. Sys2Proof/Laws/State.lean: what each update of the state leaves alone, one lemma per field and update. -/

namespace Sys2Proof.Machine
open Sys2Proof

@[simp] theorem State.modDev_time (s : State) (d : Nat) (f : Dev → Dev) : (s.modDev d f).time = s.time := rfl
@[simp] theorem State.modDev_free (s : State) (d : Nat) (f : Dev → Dev) : (s.modDev d f).free = s.free := rfl
@[simp] theorem State.modDev_uid (s : State) (d : Nat) (f : Dev → Dev) : (s.modDev d f).uid = s.uid := rfl
@[simp] theorem State.modDev_agenda (s : State) (d : Nat) (f : Dev → Dev) : (s.modDev d f).agenda = s.agenda := rfl
@[simp] theorem State.modDev_cur (s : State) (d : Nat) (f : Dev → Dev) : (s.modDev d f).cur = s.cur := rfl
@[simp] theorem State.modDev_turn (s : State) (d : Nat) (f : Dev → Dev) : (s.modDev d f).turn = s.turn := rfl
@[simp] theorem State.modDev_mem (s : State) (d : Nat) (f : Dev → Dev) : (s.modDev d f).mem = s.mem := rfl
@[simp] theorem State.modDev_psn (s : State) (d : Nat) (f : Dev → Dev) : (s.modDev d f).psn = s.psn := rfl
@[simp] theorem State.modDev_tags (s : State) (d : Nat) (f : Dev → Dev) : (s.modDev d f).tags = s.tags := rfl
@[simp] theorem State.modDev_edirty (s : State) (d : Nat) (f : Dev → Dev) : (s.modDev d f).edirty = s.edirty := rfl
@[simp] theorem State.modDev_parts (s : State) (d : Nat) (f : Dev → Dev) : (s.modDev d f).parts = s.parts := rfl
@[simp] theorem State.modDev_cores (s : State) (d : Nat) (f : Dev → Dev) : (s.modDev d f).cores = s.cores := rfl
@[simp] theorem State.modDev_conts (s : State) (d : Nat) (f : Dev → Dev) : (s.modDev d f).conts = s.conts := rfl
@[simp] theorem State.modDev_teams (s : State) (d : Nat) (f : Dev → Dev) : (s.modDev d f).teams = s.teams := rfl
@[simp] theorem State.modDev_groups (s : State) (d : Nat) (f : Dev → Dev) : (s.modDev d f).groups = s.groups := rfl
@[simp] theorem State.modDev_launches (s : State) (d : Nat) (f : Dev → Dev) : (s.modDev d f).launches = s.launches := rfl
@[simp] theorem State.modDev_nodes (s : State) (d : Nat) (f : Dev → Dev) : (s.modDev d f).nodes = s.nodes := rfl
@[simp] theorem State.modDev_cmds (s : State) (d : Nat) (f : Dev → Dev) : (s.modDev d f).cmds = s.cmds := rfl
@[simp] theorem State.modDev_credits (s : State) (d : Nat) (f : Dev → Dev) : (s.modDev d f).credits = s.credits := rfl
@[simp] theorem State.modDev_home (s : State) (d : Nat) (f : Dev → Dev) : (s.modDev d f).home = s.home := rfl
@[simp] theorem State.modDev_sw (s : State) (d : Nat) (f : Dev → Dev) : (s.modDev d f).sw = s.sw := rfl
@[simp] theorem State.modDev_quota (s : State) (d : Nat) (f : Dev → Dev) : (s.modDev d f).quota = s.quota := rfl
@[simp] theorem State.modDev_allocs (s : State) (d : Nat) (f : Dev → Dev) : (s.modDev d f).allocs = s.allocs := rfl
@[simp] theorem State.modDev_mlog (s : State) (d : Nat) (f : Dev → Dev) : (s.modDev d f).mlog = s.mlog := rfl
@[simp] theorem State.modDev_outData (s : State) (d : Nat) (f : Dev → Dev) : (s.modDev d f).outData = s.outData := rfl

@[simp] theorem State.modPart_time (s : State) (d p : Nat) (f : Part → Part) : (s.modPart d p f).time = s.time := rfl
@[simp] theorem State.modPart_free (s : State) (d p : Nat) (f : Part → Part) : (s.modPart d p f).free = s.free := rfl
@[simp] theorem State.modPart_uid (s : State) (d p : Nat) (f : Part → Part) : (s.modPart d p f).uid = s.uid := rfl
@[simp] theorem State.modPart_agenda (s : State) (d p : Nat) (f : Part → Part) : (s.modPart d p f).agenda = s.agenda := rfl
@[simp] theorem State.modPart_cur (s : State) (d p : Nat) (f : Part → Part) : (s.modPart d p f).cur = s.cur := rfl
@[simp] theorem State.modPart_turn (s : State) (d p : Nat) (f : Part → Part) : (s.modPart d p f).turn = s.turn := rfl
@[simp] theorem State.modPart_mem (s : State) (d p : Nat) (f : Part → Part) : (s.modPart d p f).mem = s.mem := rfl
@[simp] theorem State.modPart_psn (s : State) (d p : Nat) (f : Part → Part) : (s.modPart d p f).psn = s.psn := rfl
@[simp] theorem State.modPart_tags (s : State) (d p : Nat) (f : Part → Part) : (s.modPart d p f).tags = s.tags := rfl
@[simp] theorem State.modPart_edirty (s : State) (d p : Nat) (f : Part → Part) : (s.modPart d p f).edirty = s.edirty := rfl
@[simp] theorem State.modPart_devs (s : State) (d p : Nat) (f : Part → Part) : (s.modPart d p f).devs = s.devs := rfl
@[simp] theorem State.modPart_cores (s : State) (d p : Nat) (f : Part → Part) : (s.modPart d p f).cores = s.cores := rfl
@[simp] theorem State.modPart_conts (s : State) (d p : Nat) (f : Part → Part) : (s.modPart d p f).conts = s.conts := rfl
@[simp] theorem State.modPart_teams (s : State) (d p : Nat) (f : Part → Part) : (s.modPart d p f).teams = s.teams := rfl
@[simp] theorem State.modPart_groups (s : State) (d p : Nat) (f : Part → Part) : (s.modPart d p f).groups = s.groups := rfl
@[simp] theorem State.modPart_launches (s : State) (d p : Nat) (f : Part → Part) : (s.modPart d p f).launches = s.launches := rfl
@[simp] theorem State.modPart_nodes (s : State) (d p : Nat) (f : Part → Part) : (s.modPart d p f).nodes = s.nodes := rfl
@[simp] theorem State.modPart_cmds (s : State) (d p : Nat) (f : Part → Part) : (s.modPart d p f).cmds = s.cmds := rfl
@[simp] theorem State.modPart_credits (s : State) (d p : Nat) (f : Part → Part) : (s.modPart d p f).credits = s.credits := rfl
@[simp] theorem State.modPart_home (s : State) (d p : Nat) (f : Part → Part) : (s.modPart d p f).home = s.home := rfl
@[simp] theorem State.modPart_sw (s : State) (d p : Nat) (f : Part → Part) : (s.modPart d p f).sw = s.sw := rfl
@[simp] theorem State.modPart_quota (s : State) (d p : Nat) (f : Part → Part) : (s.modPart d p f).quota = s.quota := rfl
@[simp] theorem State.modPart_allocs (s : State) (d p : Nat) (f : Part → Part) : (s.modPart d p f).allocs = s.allocs := rfl
@[simp] theorem State.modPart_mlog (s : State) (d p : Nat) (f : Part → Part) : (s.modPart d p f).mlog = s.mlog := rfl
@[simp] theorem State.modPart_outData (s : State) (d p : Nat) (f : Part → Part) : (s.modPart d p f).outData = s.outData := rfl

@[simp] theorem State.modCore_time (s : State) (c : Nat) (f : Core → Core) : (s.modCore c f).time = s.time := rfl
@[simp] theorem State.modCore_free (s : State) (c : Nat) (f : Core → Core) : (s.modCore c f).free = s.free := rfl
@[simp] theorem State.modCore_uid (s : State) (c : Nat) (f : Core → Core) : (s.modCore c f).uid = s.uid := rfl
@[simp] theorem State.modCore_agenda (s : State) (c : Nat) (f : Core → Core) : (s.modCore c f).agenda = s.agenda := rfl
@[simp] theorem State.modCore_cur (s : State) (c : Nat) (f : Core → Core) : (s.modCore c f).cur = s.cur := rfl
@[simp] theorem State.modCore_turn (s : State) (c : Nat) (f : Core → Core) : (s.modCore c f).turn = s.turn := rfl
@[simp] theorem State.modCore_mem (s : State) (c : Nat) (f : Core → Core) : (s.modCore c f).mem = s.mem := rfl
@[simp] theorem State.modCore_psn (s : State) (c : Nat) (f : Core → Core) : (s.modCore c f).psn = s.psn := rfl
@[simp] theorem State.modCore_tags (s : State) (c : Nat) (f : Core → Core) : (s.modCore c f).tags = s.tags := rfl
@[simp] theorem State.modCore_edirty (s : State) (c : Nat) (f : Core → Core) : (s.modCore c f).edirty = s.edirty := rfl
@[simp] theorem State.modCore_devs (s : State) (c : Nat) (f : Core → Core) : (s.modCore c f).devs = s.devs := rfl
@[simp] theorem State.modCore_parts (s : State) (c : Nat) (f : Core → Core) : (s.modCore c f).parts = s.parts := rfl
@[simp] theorem State.modCore_conts (s : State) (c : Nat) (f : Core → Core) : (s.modCore c f).conts = s.conts := rfl
@[simp] theorem State.modCore_teams (s : State) (c : Nat) (f : Core → Core) : (s.modCore c f).teams = s.teams := rfl
@[simp] theorem State.modCore_groups (s : State) (c : Nat) (f : Core → Core) : (s.modCore c f).groups = s.groups := rfl
@[simp] theorem State.modCore_launches (s : State) (c : Nat) (f : Core → Core) : (s.modCore c f).launches = s.launches := rfl
@[simp] theorem State.modCore_nodes (s : State) (c : Nat) (f : Core → Core) : (s.modCore c f).nodes = s.nodes := rfl
@[simp] theorem State.modCore_cmds (s : State) (c : Nat) (f : Core → Core) : (s.modCore c f).cmds = s.cmds := rfl
@[simp] theorem State.modCore_credits (s : State) (c : Nat) (f : Core → Core) : (s.modCore c f).credits = s.credits := rfl
@[simp] theorem State.modCore_home (s : State) (c : Nat) (f : Core → Core) : (s.modCore c f).home = s.home := rfl
@[simp] theorem State.modCore_sw (s : State) (c : Nat) (f : Core → Core) : (s.modCore c f).sw = s.sw := rfl
@[simp] theorem State.modCore_quota (s : State) (c : Nat) (f : Core → Core) : (s.modCore c f).quota = s.quota := rfl
@[simp] theorem State.modCore_allocs (s : State) (c : Nat) (f : Core → Core) : (s.modCore c f).allocs = s.allocs := rfl
@[simp] theorem State.modCore_mlog (s : State) (c : Nat) (f : Core → Core) : (s.modCore c f).mlog = s.mlog := rfl
@[simp] theorem State.modCore_outData (s : State) (c : Nat) (f : Core → Core) : (s.modCore c f).outData = s.outData := rfl

@[simp] theorem State.modGrp_time (s : State) (g : Nat) (f : Group → Group) : (s.modGrp g f).time = s.time := rfl
@[simp] theorem State.modGrp_free (s : State) (g : Nat) (f : Group → Group) : (s.modGrp g f).free = s.free := rfl
@[simp] theorem State.modGrp_uid (s : State) (g : Nat) (f : Group → Group) : (s.modGrp g f).uid = s.uid := rfl
@[simp] theorem State.modGrp_agenda (s : State) (g : Nat) (f : Group → Group) : (s.modGrp g f).agenda = s.agenda := rfl
@[simp] theorem State.modGrp_cur (s : State) (g : Nat) (f : Group → Group) : (s.modGrp g f).cur = s.cur := rfl
@[simp] theorem State.modGrp_turn (s : State) (g : Nat) (f : Group → Group) : (s.modGrp g f).turn = s.turn := rfl
@[simp] theorem State.modGrp_mem (s : State) (g : Nat) (f : Group → Group) : (s.modGrp g f).mem = s.mem := rfl
@[simp] theorem State.modGrp_psn (s : State) (g : Nat) (f : Group → Group) : (s.modGrp g f).psn = s.psn := rfl
@[simp] theorem State.modGrp_tags (s : State) (g : Nat) (f : Group → Group) : (s.modGrp g f).tags = s.tags := rfl
@[simp] theorem State.modGrp_edirty (s : State) (g : Nat) (f : Group → Group) : (s.modGrp g f).edirty = s.edirty := rfl
@[simp] theorem State.modGrp_devs (s : State) (g : Nat) (f : Group → Group) : (s.modGrp g f).devs = s.devs := rfl
@[simp] theorem State.modGrp_parts (s : State) (g : Nat) (f : Group → Group) : (s.modGrp g f).parts = s.parts := rfl
@[simp] theorem State.modGrp_cores (s : State) (g : Nat) (f : Group → Group) : (s.modGrp g f).cores = s.cores := rfl
@[simp] theorem State.modGrp_conts (s : State) (g : Nat) (f : Group → Group) : (s.modGrp g f).conts = s.conts := rfl
@[simp] theorem State.modGrp_teams (s : State) (g : Nat) (f : Group → Group) : (s.modGrp g f).teams = s.teams := rfl
@[simp] theorem State.modGrp_launches (s : State) (g : Nat) (f : Group → Group) : (s.modGrp g f).launches = s.launches := rfl
@[simp] theorem State.modGrp_nodes (s : State) (g : Nat) (f : Group → Group) : (s.modGrp g f).nodes = s.nodes := rfl
@[simp] theorem State.modGrp_cmds (s : State) (g : Nat) (f : Group → Group) : (s.modGrp g f).cmds = s.cmds := rfl
@[simp] theorem State.modGrp_credits (s : State) (g : Nat) (f : Group → Group) : (s.modGrp g f).credits = s.credits := rfl
@[simp] theorem State.modGrp_home (s : State) (g : Nat) (f : Group → Group) : (s.modGrp g f).home = s.home := rfl
@[simp] theorem State.modGrp_sw (s : State) (g : Nat) (f : Group → Group) : (s.modGrp g f).sw = s.sw := rfl
@[simp] theorem State.modGrp_quota (s : State) (g : Nat) (f : Group → Group) : (s.modGrp g f).quota = s.quota := rfl
@[simp] theorem State.modGrp_allocs (s : State) (g : Nat) (f : Group → Group) : (s.modGrp g f).allocs = s.allocs := rfl
@[simp] theorem State.modGrp_mlog (s : State) (g : Nat) (f : Group → Group) : (s.modGrp g f).mlog = s.mlog := rfl
@[simp] theorem State.modGrp_outData (s : State) (g : Nat) (f : Group → Group) : (s.modGrp g f).outData = s.outData := rfl

@[simp] theorem State.modTeam_time (s : State) (t : Nat) (f : Team → Team) : (s.modTeam t f).time = s.time := rfl
@[simp] theorem State.modTeam_free (s : State) (t : Nat) (f : Team → Team) : (s.modTeam t f).free = s.free := rfl
@[simp] theorem State.modTeam_uid (s : State) (t : Nat) (f : Team → Team) : (s.modTeam t f).uid = s.uid := rfl
@[simp] theorem State.modTeam_agenda (s : State) (t : Nat) (f : Team → Team) : (s.modTeam t f).agenda = s.agenda := rfl
@[simp] theorem State.modTeam_cur (s : State) (t : Nat) (f : Team → Team) : (s.modTeam t f).cur = s.cur := rfl
@[simp] theorem State.modTeam_turn (s : State) (t : Nat) (f : Team → Team) : (s.modTeam t f).turn = s.turn := rfl
@[simp] theorem State.modTeam_mem (s : State) (t : Nat) (f : Team → Team) : (s.modTeam t f).mem = s.mem := rfl
@[simp] theorem State.modTeam_psn (s : State) (t : Nat) (f : Team → Team) : (s.modTeam t f).psn = s.psn := rfl
@[simp] theorem State.modTeam_tags (s : State) (t : Nat) (f : Team → Team) : (s.modTeam t f).tags = s.tags := rfl
@[simp] theorem State.modTeam_edirty (s : State) (t : Nat) (f : Team → Team) : (s.modTeam t f).edirty = s.edirty := rfl
@[simp] theorem State.modTeam_devs (s : State) (t : Nat) (f : Team → Team) : (s.modTeam t f).devs = s.devs := rfl
@[simp] theorem State.modTeam_parts (s : State) (t : Nat) (f : Team → Team) : (s.modTeam t f).parts = s.parts := rfl
@[simp] theorem State.modTeam_cores (s : State) (t : Nat) (f : Team → Team) : (s.modTeam t f).cores = s.cores := rfl
@[simp] theorem State.modTeam_conts (s : State) (t : Nat) (f : Team → Team) : (s.modTeam t f).conts = s.conts := rfl
@[simp] theorem State.modTeam_groups (s : State) (t : Nat) (f : Team → Team) : (s.modTeam t f).groups = s.groups := rfl
@[simp] theorem State.modTeam_launches (s : State) (t : Nat) (f : Team → Team) : (s.modTeam t f).launches = s.launches := rfl
@[simp] theorem State.modTeam_nodes (s : State) (t : Nat) (f : Team → Team) : (s.modTeam t f).nodes = s.nodes := rfl
@[simp] theorem State.modTeam_cmds (s : State) (t : Nat) (f : Team → Team) : (s.modTeam t f).cmds = s.cmds := rfl
@[simp] theorem State.modTeam_credits (s : State) (t : Nat) (f : Team → Team) : (s.modTeam t f).credits = s.credits := rfl
@[simp] theorem State.modTeam_home (s : State) (t : Nat) (f : Team → Team) : (s.modTeam t f).home = s.home := rfl
@[simp] theorem State.modTeam_sw (s : State) (t : Nat) (f : Team → Team) : (s.modTeam t f).sw = s.sw := rfl
@[simp] theorem State.modTeam_quota (s : State) (t : Nat) (f : Team → Team) : (s.modTeam t f).quota = s.quota := rfl
@[simp] theorem State.modTeam_allocs (s : State) (t : Nat) (f : Team → Team) : (s.modTeam t f).allocs = s.allocs := rfl
@[simp] theorem State.modTeam_mlog (s : State) (t : Nat) (f : Team → Team) : (s.modTeam t f).mlog = s.mlog := rfl
@[simp] theorem State.modTeam_outData (s : State) (t : Nat) (f : Team → Team) : (s.modTeam t f).outData = s.outData := rfl

@[simp] theorem State.modCont_time (s : State) (c : Nat) (f : Cont → Cont) : (s.modCont c f).time = s.time := rfl
@[simp] theorem State.modCont_free (s : State) (c : Nat) (f : Cont → Cont) : (s.modCont c f).free = s.free := rfl
@[simp] theorem State.modCont_uid (s : State) (c : Nat) (f : Cont → Cont) : (s.modCont c f).uid = s.uid := rfl
@[simp] theorem State.modCont_agenda (s : State) (c : Nat) (f : Cont → Cont) : (s.modCont c f).agenda = s.agenda := rfl
@[simp] theorem State.modCont_cur (s : State) (c : Nat) (f : Cont → Cont) : (s.modCont c f).cur = s.cur := rfl
@[simp] theorem State.modCont_turn (s : State) (c : Nat) (f : Cont → Cont) : (s.modCont c f).turn = s.turn := rfl
@[simp] theorem State.modCont_mem (s : State) (c : Nat) (f : Cont → Cont) : (s.modCont c f).mem = s.mem := rfl
@[simp] theorem State.modCont_psn (s : State) (c : Nat) (f : Cont → Cont) : (s.modCont c f).psn = s.psn := rfl
@[simp] theorem State.modCont_tags (s : State) (c : Nat) (f : Cont → Cont) : (s.modCont c f).tags = s.tags := rfl
@[simp] theorem State.modCont_edirty (s : State) (c : Nat) (f : Cont → Cont) : (s.modCont c f).edirty = s.edirty := rfl
@[simp] theorem State.modCont_devs (s : State) (c : Nat) (f : Cont → Cont) : (s.modCont c f).devs = s.devs := rfl
@[simp] theorem State.modCont_parts (s : State) (c : Nat) (f : Cont → Cont) : (s.modCont c f).parts = s.parts := rfl
@[simp] theorem State.modCont_cores (s : State) (c : Nat) (f : Cont → Cont) : (s.modCont c f).cores = s.cores := rfl
@[simp] theorem State.modCont_teams (s : State) (c : Nat) (f : Cont → Cont) : (s.modCont c f).teams = s.teams := rfl
@[simp] theorem State.modCont_groups (s : State) (c : Nat) (f : Cont → Cont) : (s.modCont c f).groups = s.groups := rfl
@[simp] theorem State.modCont_launches (s : State) (c : Nat) (f : Cont → Cont) : (s.modCont c f).launches = s.launches := rfl
@[simp] theorem State.modCont_nodes (s : State) (c : Nat) (f : Cont → Cont) : (s.modCont c f).nodes = s.nodes := rfl
@[simp] theorem State.modCont_cmds (s : State) (c : Nat) (f : Cont → Cont) : (s.modCont c f).cmds = s.cmds := rfl
@[simp] theorem State.modCont_credits (s : State) (c : Nat) (f : Cont → Cont) : (s.modCont c f).credits = s.credits := rfl
@[simp] theorem State.modCont_home (s : State) (c : Nat) (f : Cont → Cont) : (s.modCont c f).home = s.home := rfl
@[simp] theorem State.modCont_sw (s : State) (c : Nat) (f : Cont → Cont) : (s.modCont c f).sw = s.sw := rfl
@[simp] theorem State.modCont_quota (s : State) (c : Nat) (f : Cont → Cont) : (s.modCont c f).quota = s.quota := rfl
@[simp] theorem State.modCont_allocs (s : State) (c : Nat) (f : Cont → Cont) : (s.modCont c f).allocs = s.allocs := rfl
@[simp] theorem State.modCont_mlog (s : State) (c : Nat) (f : Cont → Cont) : (s.modCont c f).mlog = s.mlog := rfl
@[simp] theorem State.modCont_outData (s : State) (c : Nat) (f : Cont → Cont) : (s.modCont c f).outData = s.outData := rfl

@[simp] theorem State.modLaunch_time (s : State) (l : Nat) (f : Launch → Launch) : (s.modLaunch l f).time = s.time := rfl
@[simp] theorem State.modLaunch_free (s : State) (l : Nat) (f : Launch → Launch) : (s.modLaunch l f).free = s.free := rfl
@[simp] theorem State.modLaunch_uid (s : State) (l : Nat) (f : Launch → Launch) : (s.modLaunch l f).uid = s.uid := rfl
@[simp] theorem State.modLaunch_agenda (s : State) (l : Nat) (f : Launch → Launch) : (s.modLaunch l f).agenda = s.agenda := rfl
@[simp] theorem State.modLaunch_cur (s : State) (l : Nat) (f : Launch → Launch) : (s.modLaunch l f).cur = s.cur := rfl
@[simp] theorem State.modLaunch_turn (s : State) (l : Nat) (f : Launch → Launch) : (s.modLaunch l f).turn = s.turn := rfl
@[simp] theorem State.modLaunch_mem (s : State) (l : Nat) (f : Launch → Launch) : (s.modLaunch l f).mem = s.mem := rfl
@[simp] theorem State.modLaunch_psn (s : State) (l : Nat) (f : Launch → Launch) : (s.modLaunch l f).psn = s.psn := rfl
@[simp] theorem State.modLaunch_tags (s : State) (l : Nat) (f : Launch → Launch) : (s.modLaunch l f).tags = s.tags := rfl
@[simp] theorem State.modLaunch_edirty (s : State) (l : Nat) (f : Launch → Launch) : (s.modLaunch l f).edirty = s.edirty := rfl
@[simp] theorem State.modLaunch_devs (s : State) (l : Nat) (f : Launch → Launch) : (s.modLaunch l f).devs = s.devs := rfl
@[simp] theorem State.modLaunch_parts (s : State) (l : Nat) (f : Launch → Launch) : (s.modLaunch l f).parts = s.parts := rfl
@[simp] theorem State.modLaunch_cores (s : State) (l : Nat) (f : Launch → Launch) : (s.modLaunch l f).cores = s.cores := rfl
@[simp] theorem State.modLaunch_conts (s : State) (l : Nat) (f : Launch → Launch) : (s.modLaunch l f).conts = s.conts := rfl
@[simp] theorem State.modLaunch_teams (s : State) (l : Nat) (f : Launch → Launch) : (s.modLaunch l f).teams = s.teams := rfl
@[simp] theorem State.modLaunch_groups (s : State) (l : Nat) (f : Launch → Launch) : (s.modLaunch l f).groups = s.groups := rfl
@[simp] theorem State.modLaunch_nodes (s : State) (l : Nat) (f : Launch → Launch) : (s.modLaunch l f).nodes = s.nodes := rfl
@[simp] theorem State.modLaunch_cmds (s : State) (l : Nat) (f : Launch → Launch) : (s.modLaunch l f).cmds = s.cmds := rfl
@[simp] theorem State.modLaunch_credits (s : State) (l : Nat) (f : Launch → Launch) : (s.modLaunch l f).credits = s.credits := rfl
@[simp] theorem State.modLaunch_home (s : State) (l : Nat) (f : Launch → Launch) : (s.modLaunch l f).home = s.home := rfl
@[simp] theorem State.modLaunch_sw (s : State) (l : Nat) (f : Launch → Launch) : (s.modLaunch l f).sw = s.sw := rfl
@[simp] theorem State.modLaunch_quota (s : State) (l : Nat) (f : Launch → Launch) : (s.modLaunch l f).quota = s.quota := rfl
@[simp] theorem State.modLaunch_allocs (s : State) (l : Nat) (f : Launch → Launch) : (s.modLaunch l f).allocs = s.allocs := rfl
@[simp] theorem State.modLaunch_mlog (s : State) (l : Nat) (f : Launch → Launch) : (s.modLaunch l f).mlog = s.mlog := rfl
@[simp] theorem State.modLaunch_outData (s : State) (l : Nat) (f : Launch → Launch) : (s.modLaunch l f).outData = s.outData := rfl

@[simp] theorem State.modCmd_time (s : State) (u : Nat) (f : Cmd → Cmd) : (s.modCmd u f).time = s.time := rfl
@[simp] theorem State.modCmd_free (s : State) (u : Nat) (f : Cmd → Cmd) : (s.modCmd u f).free = s.free := rfl
@[simp] theorem State.modCmd_uid (s : State) (u : Nat) (f : Cmd → Cmd) : (s.modCmd u f).uid = s.uid := rfl
@[simp] theorem State.modCmd_agenda (s : State) (u : Nat) (f : Cmd → Cmd) : (s.modCmd u f).agenda = s.agenda := rfl
@[simp] theorem State.modCmd_cur (s : State) (u : Nat) (f : Cmd → Cmd) : (s.modCmd u f).cur = s.cur := rfl
@[simp] theorem State.modCmd_turn (s : State) (u : Nat) (f : Cmd → Cmd) : (s.modCmd u f).turn = s.turn := rfl
@[simp] theorem State.modCmd_mem (s : State) (u : Nat) (f : Cmd → Cmd) : (s.modCmd u f).mem = s.mem := rfl
@[simp] theorem State.modCmd_psn (s : State) (u : Nat) (f : Cmd → Cmd) : (s.modCmd u f).psn = s.psn := rfl
@[simp] theorem State.modCmd_tags (s : State) (u : Nat) (f : Cmd → Cmd) : (s.modCmd u f).tags = s.tags := rfl
@[simp] theorem State.modCmd_edirty (s : State) (u : Nat) (f : Cmd → Cmd) : (s.modCmd u f).edirty = s.edirty := rfl
@[simp] theorem State.modCmd_devs (s : State) (u : Nat) (f : Cmd → Cmd) : (s.modCmd u f).devs = s.devs := rfl
@[simp] theorem State.modCmd_parts (s : State) (u : Nat) (f : Cmd → Cmd) : (s.modCmd u f).parts = s.parts := rfl
@[simp] theorem State.modCmd_cores (s : State) (u : Nat) (f : Cmd → Cmd) : (s.modCmd u f).cores = s.cores := rfl
@[simp] theorem State.modCmd_conts (s : State) (u : Nat) (f : Cmd → Cmd) : (s.modCmd u f).conts = s.conts := rfl
@[simp] theorem State.modCmd_teams (s : State) (u : Nat) (f : Cmd → Cmd) : (s.modCmd u f).teams = s.teams := rfl
@[simp] theorem State.modCmd_groups (s : State) (u : Nat) (f : Cmd → Cmd) : (s.modCmd u f).groups = s.groups := rfl
@[simp] theorem State.modCmd_launches (s : State) (u : Nat) (f : Cmd → Cmd) : (s.modCmd u f).launches = s.launches := rfl
@[simp] theorem State.modCmd_nodes (s : State) (u : Nat) (f : Cmd → Cmd) : (s.modCmd u f).nodes = s.nodes := rfl
@[simp] theorem State.modCmd_credits (s : State) (u : Nat) (f : Cmd → Cmd) : (s.modCmd u f).credits = s.credits := rfl
@[simp] theorem State.modCmd_home (s : State) (u : Nat) (f : Cmd → Cmd) : (s.modCmd u f).home = s.home := rfl
@[simp] theorem State.modCmd_sw (s : State) (u : Nat) (f : Cmd → Cmd) : (s.modCmd u f).sw = s.sw := rfl
@[simp] theorem State.modCmd_quota (s : State) (u : Nat) (f : Cmd → Cmd) : (s.modCmd u f).quota = s.quota := rfl
@[simp] theorem State.modCmd_allocs (s : State) (u : Nat) (f : Cmd → Cmd) : (s.modCmd u f).allocs = s.allocs := rfl
@[simp] theorem State.modCmd_mlog (s : State) (u : Nat) (f : Cmd → Cmd) : (s.modCmd u f).mlog = s.mlog := rfl
@[simp] theorem State.modCmd_outData (s : State) (u : Nat) (f : Cmd → Cmd) : (s.modCmd u f).outData = s.outData := rfl

@[simp] theorem State.modNode_time (s : State) (u : Nat) (f : GNode → GNode) : (s.modNode u f).time = s.time := rfl
@[simp] theorem State.modNode_free (s : State) (u : Nat) (f : GNode → GNode) : (s.modNode u f).free = s.free := rfl
@[simp] theorem State.modNode_uid (s : State) (u : Nat) (f : GNode → GNode) : (s.modNode u f).uid = s.uid := rfl
@[simp] theorem State.modNode_agenda (s : State) (u : Nat) (f : GNode → GNode) : (s.modNode u f).agenda = s.agenda := rfl
@[simp] theorem State.modNode_cur (s : State) (u : Nat) (f : GNode → GNode) : (s.modNode u f).cur = s.cur := rfl
@[simp] theorem State.modNode_turn (s : State) (u : Nat) (f : GNode → GNode) : (s.modNode u f).turn = s.turn := rfl
@[simp] theorem State.modNode_mem (s : State) (u : Nat) (f : GNode → GNode) : (s.modNode u f).mem = s.mem := rfl
@[simp] theorem State.modNode_psn (s : State) (u : Nat) (f : GNode → GNode) : (s.modNode u f).psn = s.psn := rfl
@[simp] theorem State.modNode_tags (s : State) (u : Nat) (f : GNode → GNode) : (s.modNode u f).tags = s.tags := rfl
@[simp] theorem State.modNode_edirty (s : State) (u : Nat) (f : GNode → GNode) : (s.modNode u f).edirty = s.edirty := rfl
@[simp] theorem State.modNode_devs (s : State) (u : Nat) (f : GNode → GNode) : (s.modNode u f).devs = s.devs := rfl
@[simp] theorem State.modNode_parts (s : State) (u : Nat) (f : GNode → GNode) : (s.modNode u f).parts = s.parts := rfl
@[simp] theorem State.modNode_cores (s : State) (u : Nat) (f : GNode → GNode) : (s.modNode u f).cores = s.cores := rfl
@[simp] theorem State.modNode_conts (s : State) (u : Nat) (f : GNode → GNode) : (s.modNode u f).conts = s.conts := rfl
@[simp] theorem State.modNode_teams (s : State) (u : Nat) (f : GNode → GNode) : (s.modNode u f).teams = s.teams := rfl
@[simp] theorem State.modNode_groups (s : State) (u : Nat) (f : GNode → GNode) : (s.modNode u f).groups = s.groups := rfl
@[simp] theorem State.modNode_launches (s : State) (u : Nat) (f : GNode → GNode) : (s.modNode u f).launches = s.launches := rfl
@[simp] theorem State.modNode_cmds (s : State) (u : Nat) (f : GNode → GNode) : (s.modNode u f).cmds = s.cmds := rfl
@[simp] theorem State.modNode_credits (s : State) (u : Nat) (f : GNode → GNode) : (s.modNode u f).credits = s.credits := rfl
@[simp] theorem State.modNode_home (s : State) (u : Nat) (f : GNode → GNode) : (s.modNode u f).home = s.home := rfl
@[simp] theorem State.modNode_sw (s : State) (u : Nat) (f : GNode → GNode) : (s.modNode u f).sw = s.sw := rfl
@[simp] theorem State.modNode_quota (s : State) (u : Nat) (f : GNode → GNode) : (s.modNode u f).quota = s.quota := rfl
@[simp] theorem State.modNode_allocs (s : State) (u : Nat) (f : GNode → GNode) : (s.modNode u f).allocs = s.allocs := rfl
@[simp] theorem State.modNode_mlog (s : State) (u : Nat) (f : GNode → GNode) : (s.modNode u f).mlog = s.mlog := rfl
@[simp] theorem State.modNode_outData (s : State) (u : Nat) (f : GNode → GNode) : (s.modNode u f).outData = s.outData := rfl

@[simp] theorem State.modG_time (s : State) (f : Group → Group) : (s.modG f).time = s.time := rfl
@[simp] theorem State.modG_free (s : State) (f : Group → Group) : (s.modG f).free = s.free := rfl
@[simp] theorem State.modG_uid (s : State) (f : Group → Group) : (s.modG f).uid = s.uid := rfl
@[simp] theorem State.modG_agenda (s : State) (f : Group → Group) : (s.modG f).agenda = s.agenda := rfl
@[simp] theorem State.modG_cur (s : State) (f : Group → Group) : (s.modG f).cur = s.cur := rfl
@[simp] theorem State.modG_turn (s : State) (f : Group → Group) : (s.modG f).turn = s.turn := rfl
@[simp] theorem State.modG_mem (s : State) (f : Group → Group) : (s.modG f).mem = s.mem := rfl
@[simp] theorem State.modG_psn (s : State) (f : Group → Group) : (s.modG f).psn = s.psn := rfl
@[simp] theorem State.modG_tags (s : State) (f : Group → Group) : (s.modG f).tags = s.tags := rfl
@[simp] theorem State.modG_edirty (s : State) (f : Group → Group) : (s.modG f).edirty = s.edirty := rfl
@[simp] theorem State.modG_devs (s : State) (f : Group → Group) : (s.modG f).devs = s.devs := rfl
@[simp] theorem State.modG_parts (s : State) (f : Group → Group) : (s.modG f).parts = s.parts := rfl
@[simp] theorem State.modG_cores (s : State) (f : Group → Group) : (s.modG f).cores = s.cores := rfl
@[simp] theorem State.modG_conts (s : State) (f : Group → Group) : (s.modG f).conts = s.conts := rfl
@[simp] theorem State.modG_teams (s : State) (f : Group → Group) : (s.modG f).teams = s.teams := rfl
@[simp] theorem State.modG_launches (s : State) (f : Group → Group) : (s.modG f).launches = s.launches := rfl
@[simp] theorem State.modG_nodes (s : State) (f : Group → Group) : (s.modG f).nodes = s.nodes := rfl
@[simp] theorem State.modG_cmds (s : State) (f : Group → Group) : (s.modG f).cmds = s.cmds := rfl
@[simp] theorem State.modG_credits (s : State) (f : Group → Group) : (s.modG f).credits = s.credits := rfl
@[simp] theorem State.modG_home (s : State) (f : Group → Group) : (s.modG f).home = s.home := rfl
@[simp] theorem State.modG_sw (s : State) (f : Group → Group) : (s.modG f).sw = s.sw := rfl
@[simp] theorem State.modG_quota (s : State) (f : Group → Group) : (s.modG f).quota = s.quota := rfl
@[simp] theorem State.modG_allocs (s : State) (f : Group → Group) : (s.modG f).allocs = s.allocs := rfl
@[simp] theorem State.modG_mlog (s : State) (f : Group → Group) : (s.modG f).mlog = s.mlog := rfl
@[simp] theorem State.modG_outData (s : State) (f : Group → Group) : (s.modG f).outData = s.outData := rfl

@[simp] theorem State.modCtx_time (s : State) (d a : Nat) (f : Ctx → Ctx) : (s.modCtx d a f).time = s.time := rfl
@[simp] theorem State.modCtx_free (s : State) (d a : Nat) (f : Ctx → Ctx) : (s.modCtx d a f).free = s.free := rfl
@[simp] theorem State.modCtx_uid (s : State) (d a : Nat) (f : Ctx → Ctx) : (s.modCtx d a f).uid = s.uid := rfl
@[simp] theorem State.modCtx_agenda (s : State) (d a : Nat) (f : Ctx → Ctx) : (s.modCtx d a f).agenda = s.agenda := rfl
@[simp] theorem State.modCtx_cur (s : State) (d a : Nat) (f : Ctx → Ctx) : (s.modCtx d a f).cur = s.cur := rfl
@[simp] theorem State.modCtx_turn (s : State) (d a : Nat) (f : Ctx → Ctx) : (s.modCtx d a f).turn = s.turn := rfl
@[simp] theorem State.modCtx_mem (s : State) (d a : Nat) (f : Ctx → Ctx) : (s.modCtx d a f).mem = s.mem := rfl
@[simp] theorem State.modCtx_psn (s : State) (d a : Nat) (f : Ctx → Ctx) : (s.modCtx d a f).psn = s.psn := rfl
@[simp] theorem State.modCtx_tags (s : State) (d a : Nat) (f : Ctx → Ctx) : (s.modCtx d a f).tags = s.tags := rfl
@[simp] theorem State.modCtx_edirty (s : State) (d a : Nat) (f : Ctx → Ctx) : (s.modCtx d a f).edirty = s.edirty := rfl
@[simp] theorem State.modCtx_parts (s : State) (d a : Nat) (f : Ctx → Ctx) : (s.modCtx d a f).parts = s.parts := rfl
@[simp] theorem State.modCtx_cores (s : State) (d a : Nat) (f : Ctx → Ctx) : (s.modCtx d a f).cores = s.cores := rfl
@[simp] theorem State.modCtx_conts (s : State) (d a : Nat) (f : Ctx → Ctx) : (s.modCtx d a f).conts = s.conts := rfl
@[simp] theorem State.modCtx_teams (s : State) (d a : Nat) (f : Ctx → Ctx) : (s.modCtx d a f).teams = s.teams := rfl
@[simp] theorem State.modCtx_groups (s : State) (d a : Nat) (f : Ctx → Ctx) : (s.modCtx d a f).groups = s.groups := rfl
@[simp] theorem State.modCtx_launches (s : State) (d a : Nat) (f : Ctx → Ctx) : (s.modCtx d a f).launches = s.launches := rfl
@[simp] theorem State.modCtx_nodes (s : State) (d a : Nat) (f : Ctx → Ctx) : (s.modCtx d a f).nodes = s.nodes := rfl
@[simp] theorem State.modCtx_cmds (s : State) (d a : Nat) (f : Ctx → Ctx) : (s.modCtx d a f).cmds = s.cmds := rfl
@[simp] theorem State.modCtx_credits (s : State) (d a : Nat) (f : Ctx → Ctx) : (s.modCtx d a f).credits = s.credits := rfl
@[simp] theorem State.modCtx_home (s : State) (d a : Nat) (f : Ctx → Ctx) : (s.modCtx d a f).home = s.home := rfl
@[simp] theorem State.modCtx_sw (s : State) (d a : Nat) (f : Ctx → Ctx) : (s.modCtx d a f).sw = s.sw := rfl
@[simp] theorem State.modCtx_quota (s : State) (d a : Nat) (f : Ctx → Ctx) : (s.modCtx d a f).quota = s.quota := rfl
@[simp] theorem State.modCtx_allocs (s : State) (d a : Nat) (f : Ctx → Ctx) : (s.modCtx d a f).allocs = s.allocs := rfl
@[simp] theorem State.modCtx_mlog (s : State) (d a : Nat) (f : Ctx → Ctx) : (s.modCtx d a f).mlog = s.mlog := rfl
@[simp] theorem State.modCtx_outData (s : State) (d a : Nat) (f : Ctx → Ctx) : (s.modCtx d a f).outData = s.outData := rfl

@[simp] theorem State.fresh_time (s : State) : (s.fresh).time = s.time := rfl
@[simp] theorem State.fresh_free (s : State) : (s.fresh).free = s.free := rfl
@[simp] theorem State.fresh_agenda (s : State) : (s.fresh).agenda = s.agenda := rfl
@[simp] theorem State.fresh_cur (s : State) : (s.fresh).cur = s.cur := rfl
@[simp] theorem State.fresh_turn (s : State) : (s.fresh).turn = s.turn := rfl
@[simp] theorem State.fresh_mem (s : State) : (s.fresh).mem = s.mem := rfl
@[simp] theorem State.fresh_psn (s : State) : (s.fresh).psn = s.psn := rfl
@[simp] theorem State.fresh_tags (s : State) : (s.fresh).tags = s.tags := rfl
@[simp] theorem State.fresh_edirty (s : State) : (s.fresh).edirty = s.edirty := rfl
@[simp] theorem State.fresh_devs (s : State) : (s.fresh).devs = s.devs := rfl
@[simp] theorem State.fresh_parts (s : State) : (s.fresh).parts = s.parts := rfl
@[simp] theorem State.fresh_cores (s : State) : (s.fresh).cores = s.cores := rfl
@[simp] theorem State.fresh_conts (s : State) : (s.fresh).conts = s.conts := rfl
@[simp] theorem State.fresh_teams (s : State) : (s.fresh).teams = s.teams := rfl
@[simp] theorem State.fresh_groups (s : State) : (s.fresh).groups = s.groups := rfl
@[simp] theorem State.fresh_launches (s : State) : (s.fresh).launches = s.launches := rfl
@[simp] theorem State.fresh_nodes (s : State) : (s.fresh).nodes = s.nodes := rfl
@[simp] theorem State.fresh_cmds (s : State) : (s.fresh).cmds = s.cmds := rfl
@[simp] theorem State.fresh_credits (s : State) : (s.fresh).credits = s.credits := rfl
@[simp] theorem State.fresh_home (s : State) : (s.fresh).home = s.home := rfl
@[simp] theorem State.fresh_sw (s : State) : (s.fresh).sw = s.sw := rfl
@[simp] theorem State.fresh_quota (s : State) : (s.fresh).quota = s.quota := rfl
@[simp] theorem State.fresh_allocs (s : State) : (s.fresh).allocs = s.allocs := rfl
@[simp] theorem State.fresh_mlog (s : State) : (s.fresh).mlog = s.mlog := rfl
@[simp] theorem State.fresh_outData (s : State) : (s.fresh).outData = s.outData := rfl

theorem State.grp_modGrp (s : State) (g h : Nat) (f : Group → Group) :
    (s.modGrp g f).grp h = if g = h ∧ (kget s.groups g).isSome then f (s.grp g) else s.grp h := by
  simp only [State.grp, State.modGrp, kget_kmod]
  by_cases hg : g = h
  · subst hg; cases kget s.groups g <;> simp
  · simp [hg]
theorem State.dev_modDev (s : State) (d e : Nat) (f : Dev → Dev) :
    (s.modDev d f).dev e = if d = e ∧ (kget s.devs d).isSome then f (s.dev d) else s.dev e := by
  simp only [State.dev, State.modDev, kget_kmod]
  by_cases hg : d = e
  · subst hg; cases kget s.devs d <;> simp
  · simp [hg]
theorem State.core_modCore (s : State) (c e : Nat) (f : Core → Core) :
    (s.modCore c f).core e = if c = e then f (s.core c) else s.core e := by
  simp only [State.core, State.modCore, kget_kput]
  by_cases hg : c = e <;> simp [hg]
theorem State.part_modPart (s : State) (d p e q : Nat) (f : Part → Part) :
    (s.modPart d p f).part e q = if d * 16 + p = e * 16 + q then f (s.part d p) else s.part e q := by
  simp only [State.part, State.modPart, kget_kput]
  split <;> simp_all
theorem State.team_modTeam (s : State) (g h : Nat) (f : Team → Team) :
    (s.modTeam g f).team h = if g = h ∧ (kget s.teams g).isSome then f (s.team g) else s.team h := by
  simp only [State.team, State.modTeam, kget_kmod]
  by_cases hg : g = h
  · subst hg; cases kget s.teams g <;> simp
  · simp [hg]
theorem State.cont_modCont (s : State) (g h : Nat) (f : Cont → Cont) :
    (s.modCont g f).cont h = if g = h ∧ (kget s.conts g).isSome then f (s.cont g) else s.cont h := by
  simp only [State.cont, State.modCont, kget_kmod]
  by_cases hg : g = h
  · subst hg; cases kget s.conts g <;> simp
  · simp [hg]

/-! Fields of the issuing sub-group, which no update changes. -/

@[simp] theorem State.modDev_nextPc (s : State) (d : Nat) (f : Dev → Dev) : (s.modDev d f).nextPc = s.nextPc := rfl
@[simp] theorem State.modPart_nextPc (s : State) (d p : Nat) (f : Part → Part) : (s.modPart d p f).nextPc = s.nextPc := rfl
@[simp] theorem State.modCore_nextPc (s : State) (c : Nat) (f : Core → Core) : (s.modCore c f).nextPc = s.nextPc := rfl
@[simp] theorem State.modGrp_nextPc (s : State) (g : Nat) (f : Group → Group) : (s.modGrp g f).nextPc = s.nextPc := rfl
@[simp] theorem State.modTeam_nextPc (s : State) (t : Nat) (f : Team → Team) : (s.modTeam t f).nextPc = s.nextPc := rfl
@[simp] theorem State.modCont_nextPc (s : State) (c : Nat) (f : Cont → Cont) : (s.modCont c f).nextPc = s.nextPc := rfl
@[simp] theorem State.modLaunch_nextPc (s : State) (l : Nat) (f : Launch → Launch) : (s.modLaunch l f).nextPc = s.nextPc := rfl
@[simp] theorem State.modCmd_nextPc (s : State) (u : Nat) (f : Cmd → Cmd) : (s.modCmd u f).nextPc = s.nextPc := rfl
@[simp] theorem State.modNode_nextPc (s : State) (u : Nat) (f : GNode → GNode) : (s.modNode u f).nextPc = s.nextPc := rfl
@[simp] theorem State.modG_nextPc (s : State) (f : Group → Group) : (s.modG f).nextPc = s.nextPc := rfl
@[simp] theorem State.modCtx_nextPc (s : State) (d a : Nat) (f : Ctx → Ctx) : (s.modCtx d a f).nextPc = s.nextPc := rfl
@[simp] theorem State.fresh_nextPc (s : State) : (s.fresh).nextPc = s.nextPc := rfl

end Sys2Proof.Machine
end

