-- ==== Sys2Proof/Laws/Flow.lean ====
section
/-! SUPPORT. Sys2Proof/Laws/Flow.lean: what the shared operations of an issue can do: bank writes, the window, the movement of
lanes with arrivals and releases, and the completion of an instruction. -/

namespace Sys2Proof.Machine
open Sys2Proof

/-! ### Groups of a state -/

theorem State.g_modG (s : State) (f : Group → Group) (h : (kget s.groups s.cur.grp).isSome = true) :
    (s.modG f).g = f s.g := by
  simp only [State.g, State.modG, State.modGrp_cur, State.grp_modGrp, h, and_self, ↓reduceIte]

theorem State.isSome_modG (s : State) (f : Group → Group) (g : Nat) :
    (kget (s.modG f).groups g).isSome = (kget s.groups g).isSome := by
  simp only [State.modG, State.modGrp, kget_kmod]
  split
  · next h => subst h; simp
  · rfl

theorem onlyGroup_modG (s : State) (f : Group → Group) : OnlyGroup s (s.modG f) := by
  refine ⟨rfl, fun g hg => ?_⟩
  simp only [State.modG, State.modGrp, kget_kmod, Ne.symm hg, ↓reduceIte]

theorem onlyGroup_cur {s t : State} (h : OnlyGroup s t) : t.cur = s.cur := by
  have := congrArg State.cur h.1; exact this
theorem onlyGroup_mem {s t : State} (h : OnlyGroup s t) : t.mem = s.mem := by
  have := congrArg State.mem h.1; exact this

theorem onlyGroup_trans {s t u : State} (h : OnlyGroup s t) (k : OnlyGroup t u) : OnlyGroup s u := by
  refine ⟨?_, fun g hg => ?_⟩
  · have k1 := congrArg (fun x : State => { x with groups := s.groups }) k.1
    exact k1.trans h.1
  · have hc := onlyGroup_cur h
    rw [k.2 g (by rw [hc]; exact hg), h.2 g hg]

/-! ### Bank writes -/

/-- The keys of a list of words. -/
def wordKeys (ws : List (Nat × Nat × Word)) : List Nat := ws.map fun w => vk w.1 w.2.1

theorem revive_overtaken (p : Pend) (f : LateWord → Bool) :
    revive { p with words := p.words.map fun w => if f w then { w with dead := true } else w } = revive p := by
  simp only [revive, List.map_map]
  congr 1
  apply List.map_congr_left
  intro w _
  simp only [Function.comp]
  split <;> rfl

theorem overtake_pend (hi l r : Nat) (G : Group) :
    (overtake hi l r G).pend.map (fun e => (e.1, revive e.2)) = G.pend.map fun e => (e.1, revive e.2) := by
  simp only [overtake, List.map_map]
  apply List.map_congr_left
  intro e _
  simp only [Function.comp]
  split
  · exact congrArg _ (revive_overtaken e.2 fun w => w.lane = l && w.reg = r)
  · rfl

theorem bankWr_eq (G : Group) (l r : Nat) (x : Word) :
    { G.bankWr l r x with v := G.v, pz := G.pz, pend := G.pend } = G := by
  simp only [Group.bankWr]; split <;> rfl
theorem bankWr_pend (G : Group) (l r : Nat) (x : Word) :
    (G.bankWr l r x).pend.map (fun e => (e.1, revive e.2)) = G.pend.map fun e => (e.1, revive e.2) := by
  simp only [Group.bankWr]
  split
  · rfl
  · exact overtake_pend _ l r G
theorem bankWr_v (G : Group) (l r : Nat) (x : Word) : (G.bankWr l r x).v = kput G.v (vk l r) x := by
  simp only [Group.bankWr]; split <;> rfl
theorem bankWr_pz (G : Group) (l r : Nat) (x : Word) (k : Nat) :
    kget (G.bankWr l r x).pz k = if vk l r = k then none else kget G.pz k := by
  have h : ∀ m : KV Nat, kget (if m.isEmpty then m else kdel m (vk l r)) k = if vk l r = k then none else kget m k := by
    intro m
    split
    · next h => cases m <;> simp_all [kget]
    · rw [kget_kdel]
  simp only [Group.bankWr]
  split <;> exact h _

/-- Bank writes one after another. -/
def bankAll (ws : List (Nat × Nat × Word)) (G : Group) : Group := ws.foldl (fun G x => G.bankWr x.1 x.2.1 x.2.2) G

theorem bankAll_eq : ∀ (ws : List (Nat × Nat × Word)) (G : Group),
    { bankAll ws G with v := G.v, pz := G.pz, pend := G.pend } = G
  | [], _ => rfl
  | w :: t, G => by
    have h := bankAll_eq t (G.bankWr w.1 w.2.1 w.2.2)
    have k := bankWr_eq G w.1 w.2.1 w.2.2
    exact (congrArg (fun K : Group => { K with v := G.v, pz := G.pz, pend := G.pend }) h).trans k
theorem bankAll_pend : ∀ (ws : List (Nat × Nat × Word)) (G : Group),
    (bankAll ws G).pend.map (fun e => (e.1, revive e.2)) = G.pend.map fun e => (e.1, revive e.2)
  | [], _ => rfl
  | w :: t, G => by
    have h := bankAll_pend t (G.bankWr w.1 w.2.1 w.2.2)
    simp only [bankAll, List.foldl_cons] at h ⊢
    rw [h, bankWr_pend]
theorem bankAll_v_out : ∀ (ws : List (Nat × Nat × Word)) (G : Group) (k : Nat), k ∉ wordKeys ws →
    rget (bankAll ws G).v k = rget G.v k
  | [], _, _, _ => rfl
  | w :: t, G, k, hk => by
    simp only [wordKeys, List.map_cons, List.mem_cons, not_or] at hk
    have h := bankAll_v_out t (G.bankWr w.1 w.2.1 w.2.2) k hk.2
    simp only [bankAll, List.foldl_cons] at h ⊢
    rw [h, bankWr_v, rget_kput, if_neg (Ne.symm hk.1)]
theorem bankAll_v_in : ∀ (ws : List (Nat × Nat × Word)) (G : Group) (k : Nat) (x : Word), k ∈ wordKeys ws →
    (∀ w ∈ ws, vk w.1 w.2.1 = k → w.2.2 = x) → rget (bankAll ws G).v k = x
  | [], _, _, _, hk, _ => by simp [wordKeys] at hk
  | w :: t, G, k, x, hk, hx => by
    simp only [bankAll, List.foldl_cons]
    by_cases ht : k ∈ wordKeys t
    · exact bankAll_v_in t _ k x ht fun y hy => hx y (List.mem_cons_of_mem _ hy)
    · have h := bankAll_v_out t (G.bankWr w.1 w.2.1 w.2.2) k ht
      simp only [bankAll] at h
      rw [h, bankWr_v, rget_kput]
      simp only [wordKeys, List.map_cons, List.mem_cons] at hk ht
      have hw : vk w.1 w.2.1 = k := by rcases hk with hk | hk; exact hk.symm; exact absurd hk ht
      rw [if_pos hw, hx w List.mem_cons_self hw]
theorem bankAll_pz : ∀ (ws : List (Nat × Nat × Word)) (G : Group) (k : Nat),
    kget (bankAll ws G).pz k = if k ∈ wordKeys ws then none else kget G.pz k
  | [], _, _ => by simp [wordKeys, bankAll]
  | w :: t, G, k => by
    have h := bankAll_pz t (G.bankWr w.1 w.2.1 w.2.2) k
    simp only [bankAll, List.foldl_cons] at h ⊢
    rw [h, bankWr_pz]
    simp only [wordKeys, List.map_cons, List.mem_cons]
    by_cases ht : k ∈ List.map (fun w => vk w.1 w.2.1) t
    · simp [ht]
    · by_cases hw : vk w.1 w.2.1 = k
      · simp [ht, hw]
      · simp [ht, hw, Ne.symm hw]

/-! ### The words of a window entry -/

theorem kget_vals_out (ws : List (Nat × Nat × Word)) (k : Nat) (hk : k ∉ wordKeys ws) (m : KV Word) :
    kget (ws.foldl (fun m w => kput m (vk w.1 w.2.1) w.2.2) m) k = kget m k := by
  induction ws generalizing m with
  | nil => rfl
  | cons w t ih =>
    simp only [wordKeys, List.map_cons, List.mem_cons, not_or] at hk
    rw [List.foldl_cons, ih hk.2, kget_kput_ne _ _ _ _ (Ne.symm hk.1)]
theorem kget_vals_in (ws : List (Nat × Nat × Word)) (k : Nat) (x : Word) (hk : k ∈ wordKeys ws)
    (hx : ∀ w ∈ ws, vk w.1 w.2.1 = k → w.2.2 = x) (m : KV Word) :
    kget (ws.foldl (fun m w => kput m (vk w.1 w.2.1) w.2.2) m) k = some x := by
  induction ws generalizing m with
  | nil => simp [wordKeys] at hk
  | cons w t ih =>
    rw [List.foldl_cons]
    by_cases ht : k ∈ wordKeys t
    · exact ih ht (fun y hy => hx y (List.mem_cons_of_mem _ hy)) _
    · rw [kget_vals_out t k ht]
      simp only [wordKeys, List.map_cons, List.mem_cons] at hk ht
      have hw : vk w.1 w.2.1 = k := by rcases hk with hk | hk; exact hk.symm; exact absurd hk ht
      rw [← hx w List.mem_cons_self hw, ← hw, kget_kput_same]

/-! ### Movement of lanes -/

/-- What arrivals and releases leave alone: everything but lane states and copies that no lane uses. -/
def Settled (G H : Group) : Prop :=
  { H with lanes := G.lanes, copies := G.copies } = G ∧ CopiesAre G.copies H ∧
  ∀ l, (kget H.lanes l).map (fun x => (x.meet, x.pc)) = (kget G.lanes l).map (fun x => (x.meet, x.pc))

theorem settled_refl (G : Group) : Settled G G := ⟨rfl, fun _ => .inl rfl, fun _ => rfl⟩
theorem settled_trans {G H K : Group} (a : Settled G H) (b : Settled H K) : Settled G K := by
  refine ⟨?_, fun c => ?_, fun l => (b.2.2 l).trans (a.2.2 l)⟩
  · exact (congrArg (fun x : Group => { x with lanes := G.lanes, copies := G.copies }) b.1).trans a.1
  · rcases b.2.1 c with h | h
    · rw [h]; exact a.2.1 c
    · exact .inr h

theorem gcCopies_settled (G : Group) : Settled G (gcCopies G) := by
  refine ⟨rfl, fun c => ?_, fun _ => rfl⟩
  simp only [gcCopies]
  have h := kget_filter G.copies (fun k => k = 0 || G.lanes.any fun l => l.2.copy = k && l.2.st ≠ .exited) c
  rw [h]
  split
  · exact .inl rfl
  · exact .inr rfl

theorem lanes_map_settled (G : Group) (f : Nat → Lane → Lane) (hf : ∀ l x, (f l x).meet = x.meet ∧ (f l x).pc = x.pc) :
    Settled G { G with lanes := G.lanes.map fun e => (e.1, f e.1 e.2) } := by
  refine ⟨rfl, fun _ => .inl rfl, fun l => ?_⟩
  rw [kget_map]
  cases kget G.lanes l with
  | none => rfl
  | some x => simp [hf]

theorem releaseAt_settled (G : Group) (x : Dword) : Settled G (releaseAt G x) := by
  simp only [releaseAt]
  split
  · refine settled_trans ?_ (gcCopies_settled _)
    refine lanes_map_settled' G _ fun e => ?_
    split <;> simp
  · exact settled_refl G
where
  lanes_map_settled' (G : Group) (f : Nat × Lane → Nat × Lane)
      (hf : ∀ e, (f e).1 = e.1 ∧ (f e).2.meet = e.2.meet ∧ (f e).2.pc = e.2.pc) :
      Settled G { G with lanes := G.lanes.map f } := by
    have h := lanes_map_settled G (fun l x => (f (l, x)).2) fun l x => ⟨(hf (l, x)).2.1, (hf (l, x)).2.2⟩
    have e : (fun e : Nat × Lane => (e.1, (f (e.1, e.2)).2)) = f := by
      funext e; exact Prod.ext (hf e).1.symm rfl
    rw [e] at h
    exact h

theorem releaseDue_settled (G : Group) : Settled G (releaseDue G) := by
  simp only [releaseDue]
  generalize G.lanes.filter (fun l => decide (l.2.st = .held)) = ls
  induction ls generalizing G with
  | nil => exact settled_refl G
  | cons l t ih => exact settled_trans (releaseAt_settled G l.2.meet) (ih _)

/-- Lanes of a mask go to an address. -/
theorem moveTo_go (G : Group) (m : Dword) (old new : BitVec 57) :
    { G.moveTo m old new with lanes := G.lanes, copies := G.copies } = G ∧ CopiesAre G.copies (G.moveTo m old new) ∧
    LanesGo m new G (G.moveTo m old new) := by
  have e : (fun l : Nat × Lane => if m.getLsbD l.1 then (l.1, moveLane old new l.2) else l) =
      fun l => (l.1, if m.getLsbD l.1 then moveLane old new l.2 else l.2) := by
    funext l; split <;> rfl
  have h := releaseDue_settled
    { G with lanes := G.lanes.map fun l => if m.getLsbD l.1 then (l.1, moveLane old new l.2) else l }
  refine ⟨?_, h.2.1, fun l => ?_⟩
  · have h1 := h.1
    simp only [Group.moveTo]
    have := congrArg (fun K : Group => { K with lanes := G.lanes }) h1
    exact this
  · rw [Group.moveTo, h.2.2 l, e]
    have k := kget_map G.lanes (fun j x => if m.getLsbD j then moveLane old new x else x) l
    refine (congrArg (Option.map fun x : Lane => (x.meet, x.pc)) k).trans ?_
    cases kget G.lanes l with
    | none => rfl
    | some x => simp only [Option.map_some]; split <;> rfl

/-! ### Completion -/

theorem lanesOf_lt {w : Nat} {m : Dword} {l : Nat} (h : l ∈ lanesOf w m) : l < w := by
  simp only [lanesOf, List.mem_filter, List.mem_range] at h; exact h.1

/-- The group of a completed instruction before its lanes move. -/
def doneGroup (i : Instr) (s : State) (r : Res) : Group :=
  (writeRes (wBit i) s.cid r s.g).push (entryOf i s.cur.mask s.cid 0 r)

theorem finish_canIssue (i : Instr) (r : Res) (a : BitVec 57) (s : State) (h : CanIssue s) :
    finishAt i r a s = goTo a (s.modG fun G => (writeRes (wBit i) s.cid r G).push (entryOf i s.cur.mask s.cid 0 r)) := by
  simp only [finishAt, finishLate, h.2, Group.enter, ↓reduceIte]
  rfl

theorem goTo_g (a : BitVec 57) (s : State) (h : (kget s.groups s.cur.grp).isSome = true) :
    (goTo a s).g = s.g.moveTo s.cur.mask s.cur.pc a := by
  simp only [goTo]; exact State.g_modG s _ h

theorem finishAt_g (i : Instr) (r : Res) (a : BitVec 57) (s : State) (h : CanIssue s) :
    (finishAt i r a s).g = (doneGroup i s r).moveTo s.cur.mask s.cur.pc a := by
  rw [finish_canIssue i r a s h, goTo_g _ _ (by rw [State.isSome_modG]; exact h.1), State.g_modG s _ h.1]
  rfl

theorem finishAt_onlyGroup (i : Instr) (r : Res) (a : BitVec 57) (s : State) (h : CanIssue s) :
    OnlyGroup s (finishAt i r a s) := by
  rw [finish_canIssue i r a s h]
  exact onlyGroup_trans (onlyGroup_modG s _) (onlyGroup_modG _ _)

/-- Group H with the bank, the window, the entries behind it, the count, the flags and the pending loads of group G. -/
def unResult (G H : Group) : Group :=
  { H with v := G.v, pz := G.pz, win := G.win, past := G.past, count := G.count, aflags := G.aflags, pend := G.pend }
/-- The same with the lanes, the copies and the waiting instructions of G. -/
def unDone (G H : Group) : Group :=
  { unResult G H with lanes := G.lanes, copies := G.copies, blocks := G.blocks }

/-- The scalar copies and the other fields after the results are written. -/
theorem writeRes_vector (w : Bool) (c : Nat) (r : Res) (G : Group) (hs : r.sws = []) (hp : r.pws = []) (hc : r.cc = none) :
    writeRes w c r G = { (if w then G else bankAll r.vws G) with aflags := G.aflags ||| r.fl } := by
  have h := bankAll_eq r.vws G
  have ha : (bankAll r.vws G).aflags = G.aflags := by have := congrArg Group.aflags h; exact this
  simp only [writeRes, hs, hp, hc, List.foldl_nil]
  cases w
  · simp only [Bool.false_eq_true, ↓reduceIte]
    simp only [bankAll] at ha ⊢
    rw [ha]
  · rfl

/-- An instruction that writes vector registers and flags only completes. -/
theorem finishAt_flow (i : Instr) (r : Res) (a : BitVec 57) (s : State) (h : CanIssue s)
    (hs : r.sws = []) (hp : r.pws = []) (hc : r.cc = none) :
    Flow s (finishAt i r a s) s.g.copies a ∧ (finishAt i r a s).g.aflags = s.g.aflags ||| r.fl := by
  have hg := finishAt_g i r a s h
  have hm := moveTo_go (doneGroup i s r) s.cur.mask s.cur.pc a
  have hd : doneGroup i s r = ({ (if wBit i then s.g else bankAll r.vws s.g) with aflags := s.g.aflags ||| r.fl } : Group).push
      (entryOf i s.cur.mask s.cid 0 r) := by rw [doneGroup, writeRes_vector _ _ _ _ hs hp hc]
  have hb := bankAll_eq r.vws s.g
  have hq := bankAll_pend r.vws s.g
  -- the fields before the lanes move
  have hD : unResult s.g (doneGroup i s r) = s.g := by
    rw [hd]; cases wBit i
    · have h1 := congrArg (unResult s.g) hb
      exact h1
    · rfl
  have hpend : (doneGroup i s r).pend.map (fun e => (e.1, revive e.2)) = s.g.pend.map fun e => (e.1, revive e.2) := by
    rw [hd]; cases wBit i
    · exact hq
    · rfl
  have hcop : (doneGroup i s r).copies = s.g.copies := by have := congrArg Group.copies hD; exact this
  have hlan : (doneGroup i s r).lanes = s.g.lanes := by have := congrArg Group.lanes hD; exact this
  have hblk : (doneGroup i s r).blocks = s.g.blocks := by have := congrArg Group.blocks hD; exact this
  have hfl : (doneGroup i s r).aflags = s.g.aflags ||| r.fl := by rw [hd]; rfl
  have hcnt : (doneGroup i s r).count = s.g.count + 1 := by
    rw [hd]; cases wBit i
    · have hw : (bankAll r.vws s.g).count = s.g.count := by have := congrArg Group.count hb; exact this
      simp [Group.push, hw]
    · rfl
  have hwin : (doneGroup i s r).win.tail = s.g.win.take 7 := by
    rw [hd]; cases wBit i
    · have hw : (bankAll r.vws s.g).win = s.g.win := by have := congrArg Group.win hb; exact this
      simp [Group.push, hw]
    · simp [Group.push]
  have hM := hm.1
  refine ⟨⟨finishAt_onlyGroup i r a s h, ⟨?_, ?_, ?_⟩, ?_, ?_, ?_, ?_⟩, ?_⟩
  · rw [hg]
    have h1 := congrArg (unDone s.g) hM
    have h2 := congrArg (unDone s.g) hD
    exact h1.trans h2
  · rw [hg]; exact (congrArg (fun K : Group => K.pend.map fun e => (e.1, revive e.2)) hM).trans hpend
  · rw [hg]
    have := congrArg (fun K : Group => K.blocks.map fun e => (e.1, unclaim e.2)) hM
    refine this.trans ?_
    rw [hblk]
  · rw [hg, ← hcop]; exact hm.2.1
  · intro l; rw [hg, hm.2.2 l, hlan]
  · rw [hg]; exact (congrArg Group.count hM).trans hcnt
  · rw [hg]; exact (congrArg (fun K : Group => K.win.tail) hM).trans hwin
  · rw [hg]; exact (congrArg Group.aflags hM).trans hfl

/-- The descriptor of a window entry names a vector register when the instruction's destination is no scalar register. -/
theorem entryDest_vector {i : Instr} (r : Res) (h : (destDesc i).getLsbD 14 = false) :
    (entryDest i r).getLsbD 14 = false := by
  unfold entryDest
  split
  · split
    · rfl
    · next x _ _ =>
      have hx : x.2.1 % 128 < 128 := Nat.mod_lt _ (by decide)
      generalize x.2.1 % 128 = y at hx
      simp only [BitVec.getLsbD_ofNat, Nat.testBit_eq_decide_div_mod_eq]
      simp only [show (14 : Nat) < 16 by decide, decide_true, Bool.true_and, decide_eq_false_iff_not]
      omega
  · exact h
/-- It holds the W bit. -/
theorem entryDest_wb {i : Instr} (r : Res) (h : wBit i = true → (destDesc i).getLsbD 11 = true) :
    wBit i = true → (entryDest i r).getLsbD 11 = true := by
  intro hb
  unfold entryDest
  split
  · simp [wBit] at hb
  · exact h hb
/-- An instruction with a scalar destination enters its own descriptor. -/
theorem entryDest_scalar {i : Instr} (r : Res) (h : sdst i ≠ none) : entryDest i r = destDesc i := by
  unfold entryDest
  split
  · simp [sdst] at h
  · rfl

/-- Vector registers after an instruction that completes. `hsc`, `hwb`: its descriptor names a vector register and its W
bit. -/
theorem finishAt_words (i : Instr) (r : Res) (a : BitVec 57) (s : State) (h : CanIssue s)
    (hs : r.sws = []) (hp : r.pws = []) (hc : r.cc = none) (hsc : (destDesc i).getLsbD 14 = false)
    (hwb : wBit i = true → (destDesc i).getLsbD 11 = true) :
    (∀ l q x, vk l q ∈ wordKeys r.vws → (∀ w ∈ r.vws, vk w.1 w.2.1 = vk l q → w.2.2 = x) →
      (finishAt i r a s).g.rdV l q = x) ∧
    (∀ k, k ∉ wordKeys r.vws ∨ wBit i = true → rget (finishAt i r a s).g.v k = rget s.g.v k ∧
      kget (finishAt i r a s).g.pz k = kget s.g.pz k) ∧
    (∀ k, k ∈ wordKeys r.vws → wBit i = false → kget (finishAt i r a s).g.pz k = none) := by
  have hg := finishAt_g i r a s h
  have hM := (moveTo_go (doneGroup i s r) s.cur.mask s.cur.pc a).1
  have hd : doneGroup i s r = ({ (if wBit i then s.g else bankAll r.vws s.g) with aflags := s.g.aflags ||| r.fl } : Group).push
      (entryOf i s.cur.mask s.cid 0 r) := by rw [doneGroup, writeRes_vector _ _ _ _ hs hp hc]
  have hv : (finishAt i r a s).g.v = (if wBit i then s.g else bankAll r.vws s.g).v := by
    rw [hg]; refine (congrArg Group.v hM).trans ?_; rw [hd]; rfl
  have hz : (finishAt i r a s).g.pz = (if wBit i then s.g else bankAll r.vws s.g).pz := by
    rw [hg]; refine (congrArg Group.pz hM).trans ?_; rw [hd]; rfl
  have hw : (finishAt i r a s).g.win = (entryOf i s.cur.mask s.cid 0 r ::
      (if wBit i then s.g else bankAll r.vws s.g).win).take 8 := by
    rw [hg]; refine (congrArg Group.win hM).trans ?_; rw [hd]; rfl
  refine ⟨fun l q x hk hx => ?_, fun k hk => ?_, fun k hk hw0 => ?_⟩
  · have hval : kget (entryOf i s.cur.mask s.cid 0 r).vals (vk l q) = some x := by
      simp only [entryOf, entryDest_vector r hsc, Bool.false_eq_true, ↓reduceIte]
      exact kget_vals_in r.vws (vk l q) x hk hx []
    have hsc' : (entryOf i s.cur.mask s.cid 0 r).sc = false := entryDest_vector r hsc
    simp only [Group.rdV, hw, List.take_succ_cons, winFind, hsc', hval, Bool.not_false, Bool.true_or, Bool.and_true,
      decide_true, ↓reduceIte]
    cases hb : wBit i
    · have hbank : rget (finishAt i r a s).g.v (vk l q) = x := by
        rw [hv, hb]; exact bankAll_v_in r.vws s.g _ x hk hx
      split
      · next heq => simp only [Option.some.injEq, Prod.mk.injEq] at heq; exact heq.2.symm
      · exact hbank
    · have : (entryOf i s.cur.mask s.cid 0 r).wb = true := entryDest_wb r hwb hb
      simp [this]
  · rw [hv, hz]
    cases hb : wBit i
    · have hk' : k ∉ wordKeys r.vws := by rcases hk with hk | hk; exact hk; simp [hb] at hk
      exact ⟨bankAll_v_out r.vws s.g k hk', by rw [if_neg (by simp), bankAll_pz, if_neg hk']⟩
    · exact ⟨rfl, rfl⟩
  · rw [hz, hw0, if_neg (by simp), bankAll_pz, if_pos hk]

end Sys2Proof.Machine
end

