-- ==== Sys2Proof/Laws/Landing.lean ====
section
/-! SUPPORT. Sys2Proof/Laws/Landing.lean: what the landing of older loads leaves alone (R99), and the completion of lane-wise
instructions. -/

namespace Sys2Proof.Machine
open Sys2Proof

/-- Landing a load changes neither the sub-group being issued nor the lanes, the width or the scalar copies of a group. -/
def SameLanes (s t : State) : Prop :=
  t.cur = s.cur ∧ ∀ g, (kget t.groups g).isSome = (kget s.groups g).isSome ∧ (t.grp g).lanes = (s.grp g).lanes ∧
    (t.grp g).width = (s.grp g).width ∧ (t.grp g).copies = (s.grp g).copies

theorem sameLanes_refl (s : State) : SameLanes s s := ⟨rfl, fun _ => ⟨rfl, rfl, rfl, rfl⟩⟩
theorem sameLanes_trans {s t u : State} (a : SameLanes s t) (b : SameLanes t u) : SameLanes s u :=
  ⟨b.1.trans a.1, fun g => ⟨(b.2 g).1.trans (a.2 g).1, (b.2 g).2.1.trans (a.2 g).2.1, (b.2 g).2.2.1.trans (a.2 g).2.2.1,
    (b.2 g).2.2.2.trans (a.2 g).2.2.2⟩⟩
/-- A change that leaves the groups and the issuing sub-group alone. -/
theorem sameLanes_of_groups {s t : State} (hc : t.cur = s.cur) (hg : t.groups = s.groups) : SameLanes s t := by
  refine ⟨hc, fun g => ?_⟩
  simp only [State.grp, hg, and_self]
theorem sameLanes_modGrp (s : State) (g : Nat) (f : Group → Group)
    (hf : ∀ G, (f G).lanes = G.lanes ∧ (f G).width = G.width ∧ (f G).copies = G.copies) : SameLanes s (s.modGrp g f) := by
  refine ⟨rfl, fun h => ?_⟩
  have e : (kget (s.modGrp g f).groups h).isSome = (kget s.groups h).isSome := by
    simp only [State.modGrp, kget_kmod]
    split
    · next h1 => subst h1; simp
    · rfl
  refine ⟨e, ?_⟩
  rw [State.grp_modGrp]
  split
  · next h1 => rw [← h1.1]; exact hf _
  · exact ⟨rfl, rfl, rfl⟩
theorem sameLanes_foldl {α : Type} (f : State → α → State) (hf : ∀ s x, SameLanes s (f s x)) :
    ∀ (l : List α) (s : State), SameLanes s (l.foldl f s)
  | [], s => sameLanes_refl s
  | x :: t, s => sameLanes_trans (hf s x) (sameLanes_foldl f hf t (f s x))

/-! ### The L2 and the memory-side cache -/

/-- State t differs from state s in its partitions only. -/
def OnlyParts (s t : State) : Prop := { t with parts := s.parts } = s

theorem onlyParts_refl (s : State) : OnlyParts s s := rfl
theorem onlyParts_trans {s t u : State} (a : OnlyParts s t) (b : OnlyParts t u) : OnlyParts s u := by
  have k := congrArg (fun x : State => { x with parts := s.parts }) b
  exact Eq.trans k a
theorem onlyParts_modPart (s : State) (d p : Nat) (f : Part → Part) : OnlyParts s (s.modPart d p f) := rfl
theorem fetchDone_onlyParts (d p line : Nat) (s : State) : OnlyParts s (fetchDone d p line s) := rfl
theorem fetchStart_onlyParts (d p line : Nat) (b : BitVec 8) (s : State) : OnlyParts s (fetchStart d p line b s) := rfl
/-- Sectors that are needed at an L2 change the caches of partitions only. -/
theorem l2Need_onlyParts (d p line : Nat) (want : BitVec 8) (s : State) : OnlyParts s (l2Need d p line want s) := by
  simp only [l2Need]
  split
  · exact onlyParts_refl s
  · refine onlyParts_trans ?_ (onlyParts_modPart _ _ _ _)
    split
    · exact fetchDone_onlyParts d p line s
    · exact onlyParts_trans (fetchDone_onlyParts d p line s)
        (onlyParts_trans (fetchStart_onlyParts _ _ _ _ _) (fetchDone_onlyParts _ _ _ _))
theorem l2Wrote_onlyParts (d p line : Nat) (mask : BitVec 8) (s : State) : OnlyParts s (l2Wrote d p line mask s) := rfl
theorem needAt_onlyParts (pl : Place) (want : BitVec 8) (s : State) : OnlyParts s (needAt pl want s) := by
  simp only [needAt]
  split
  · exact l2Need_onlyParts _ _ _ _ _
  · exact onlyParts_refl s
theorem wroteAt_onlyParts (pl : Place) (mask : BitVec 8) (s : State) : OnlyParts s (wroteAt pl mask s) := by
  simp only [wroteAt]
  split
  · exact l2Wrote_onlyParts _ _ _ _ _
  · exact onlyParts_refl s
theorem l2Install_onlyParts (s : State) (d p line mask : Nat) (src : Nat → Byte) :
    OnlyParts s (l2Install s d p line mask src) := rfl
theorem onlyParts_sameLanes {s t : State} (h : OnlyParts s t) : SameLanes s t := by
  have hc := congrArg State.cur h
  have hg := congrArg State.groups h
  exact sameLanes_of_groups hc hg

theorem fillLine_sameLanes (core d p asid : Nat) (f : Fill) (s : State) : SameLanes s (fillLine core d p asid f s) := by
  have h (c : Core → Core) : SameLanes s (needAt (place s d p f.kind 1 (gkOff (f.line * 256))) (BitVec.ofNat 8 f.mask)
      (s.modCore core c)) :=
    sameLanes_trans (show SameLanes s (s.modCore core c) from sameLanes_of_groups rfl rfl)
      (onlyParts_sameLanes (needAt_onlyParts _ _ _))
  simp only [fillLine]
  split
  · exact sameLanes_trans (h _) (onlyParts_sameLanes (l2Install_onlyParts _ _ _ _ _ _))
  · exact h _

theorem doneOp_keeps (G : Group) (k op : Nat) :
    (G.doneOp k op).lanes = G.lanes ∧ (G.doneOp k op).width = G.width ∧ (G.doneOp k op).copies = G.copies := ⟨rfl, rfl, rfl⟩

theorem landWord_keeps (n : Nat) (G : Group) (w : LateWord) :
    (landWord n G w).lanes = G.lanes ∧ (landWord n G w).width = G.width ∧ (landWord n G w).copies = G.copies := by
  simp only [landWord]
  split
  · exact ⟨rfl, rfl, rfl⟩
  · exact ⟨rfl, rfl, rfl⟩
theorem landWords_keeps (n : Nat) (p : Pend) (G : Group) :
    (landWords n p G).lanes = G.lanes ∧ (landWords n p G).width = G.width ∧ (landWords n p G).copies = G.copies := by
  have h : ∀ (ws : List LateWord) (K : Group), (ws.foldl (landWord n) K).lanes = K.lanes ∧
      (ws.foldl (landWord n) K).width = K.width ∧ (ws.foldl (landWord n) K).copies = K.copies := by
    intro ws
    induction ws with
    | nil => exact fun K => ⟨rfl, rfl, rfl⟩
    | cons w t ih =>
      intro K
      have a := ih (landWord n K w)
      have b := landWord_keeps n K w
      exact ⟨a.1.trans b.1, a.2.1.trans b.2.1, a.2.2.trans b.2.2⟩
  exact h p.words { G with pend := kdel G.pend n }

theorem landLoad_sameLanes (g n : Nat) (s : State) : SameLanes s (landLoad g n s) := by
  simp only [landLoad]
  split
  · exact sameLanes_refl s
  · next p _ =>
    have fills : ∀ (c : Cont) (u : State), SameLanes u (match c.at? with
        | none => u
        | some (k, _) => p.fill.foldl (fun s f => fillLine k c.d c.p c.asid f s) u) := by
      intro c u
      split
      · exact sameLanes_refl u
      · exact sameLanes_foldl _ (fun s f => fillLine_sameLanes _ _ _ _ _ _) _ _
    have a : ∀ (b : Bool) (d asid : Nat), SameLanes s (if b then viralIrq d asid s else s) := by
      intro b d asid; cases b
      · exact sameLanes_refl s
      · exact sameLanes_of_groups rfl rfl
    have b : ∀ (u : State) (m : Mem) (q : KV Nat),
        SameLanes u { u.modGrp g (landWords n p) with mem := m, psn := q } := fun u m q =>
      sameLanes_trans (sameLanes_modGrp u g _ (landWords_keeps n p)) (sameLanes_of_groups rfl rfl)
    split
    · exact sameLanes_refl s
    · exact sameLanes_trans (sameLanes_trans (a _ _ _) (b _ _ _)) (fills _ _)

theorem landFor_sameLanes (rgs : List VReg) (s : State) : SameLanes s (landFor rgs s) := by
  simp only [landFor]
  refine sameLanes_foldl _ (fun s e => ?_) _ _
  split
  · exact landLoad_sameLanes _ _ _
  · exact sameLanes_refl _

/-- The sub-group, its copy and its predicates are those of before. -/
theorem sameLanes_predVal {s t : State} (h : SameLanes s t) (k : Nat) : predVal t k = predVal s k := by
  have hg := h.2 s.cur.grp
  have e : t.cur = s.cur := h.1
  simp only [predVal, State.sc, State.cid, State.g, Group.copyId, Group.copyOf, Group.lane, Group.full, e, hg.2.1, hg.2.2.1,
    hg.2.2.2]
theorem sameLanes_activeMask {s t : State} (h : SameLanes s t) (e : Pfx) (p : BitVec 2) :
    activeMask e p t = activeMask e p s := by
  simp only [activeMask, sameLanes_predVal h, h.1]
theorem sameLanes_width {s t : State} (h : SameLanes s t) : t.g.width = s.g.width := by
  have := (h.2 s.cur.grp).2.2.1
  simp only [State.g, h.1]; exact this

/-! ### The words of a lane-wise result -/

theorem mem_wordsAt {l r v n : Nat} {w : Nat × Nat × Word} :
    w ∈ wordsAt l r v n ↔ ∃ j, j < n ∧ w = (l, r + j, BitVec.ofNat 32 (v / 2 ^ (32 * j))) := by
  induction n generalizing r v with
  | zero => simp [wordsAt]
  | succ n ih =>
    simp only [wordsAt, List.mem_cons, ih]
    constructor
    · rintro (h | ⟨j, hj, h⟩)
      · exact ⟨0, by omega, by simpa using h⟩
      · refine ⟨j + 1, by omega, ?_⟩
        rw [h, Nat.div_div_eq_div_mul, ← Nat.pow_add, show r + 1 + j = r + (j + 1) by omega,
          show 32 + 32 * j = 32 * (j + 1) by omega]
    · rintro ⟨j, hj, h⟩
      cases j with
      | zero => exact .inl (by simpa using h)
      | succ j =>
        refine .inr ⟨j, by omega, ?_⟩
        rw [h, Nat.div_div_eq_div_mul, ← Nat.pow_add, show r + 1 + j = r + (j + 1) by omega,
          show 32 + 32 * j = 32 * (j + 1) by omega]

theorem mem_laneRes {ls : List Nat} {d n : Nat} {f : Nat → Nat × Flags} {w : Nat × Nat × Word} :
    w ∈ (laneRes ls d n f).vws ↔ ∃ l ∈ ls, ∃ j, j < n ∧ w = (l, d + j, BitVec.ofNat 32 ((f l).1 / 2 ^ (32 * j))) := by
  simp only [laneRes, List.mem_flatMap, List.mem_map]
  constructor
  · rintro ⟨_, ⟨l, hl, rfl⟩, h⟩
    exact ⟨l, hl, mem_wordsAt.1 h⟩
  · rintro ⟨l, hl, h⟩
    exact ⟨_, ⟨l, hl, rfl⟩, mem_wordsAt.2 h⟩

theorem vk_inj {l r l' r' : Nat} (hr : r < 128) (hr' : r' < 128) (h : vk l r = vk l' r') : l = l' ∧ r = r' := by
  simp only [vk] at h; omega

/-- The keys that a lane-wise result writes. -/
theorem mem_laneRes_keys {ls : List Nat} {d n : Nat} {f : Nat → Nat × Flags} (hd : d + n ≤ 128) {l r : Nat} (hr : r < 128) :
    vk l r ∈ wordKeys (laneRes ls d n f).vws ↔ l ∈ ls ∧ d ≤ r ∧ r < d + n := by
  simp only [wordKeys, List.mem_map]
  constructor
  · rintro ⟨w, hw, hk⟩
    obtain ⟨l', hl', j, hj, rfl⟩ := mem_laneRes.1 hw
    obtain ⟨h1, h2⟩ := vk_inj (show d + j < 128 by omega) hr hk
    exact ⟨h1 ▸ hl', by omega, by omega⟩
  · rintro ⟨hl, h1, h2⟩
    exact ⟨_, mem_laneRes.2 ⟨l, hl, r - d, by omega, rfl⟩, by simp only [vk]; omega⟩

/-- The completion of an instruction with a lane-wise result. -/
theorem finishAt_laneRes (i : Instr) (ls : List Nat) (d n : Nat) (f : Nat → Nat × Flags) (a : BitVec 57) (s : State)
    (h : CanIssue s) (hd : d + n ≤ 128) (hsc : (destDesc i).getLsbD 14 = false)
    (hwb : wBit i = true → (destDesc i).getLsbD 11 = true) :
    let t := finishAt i (laneRes ls d n f) a s
    Flow s t s.g.copies a ∧
      (∀ l ∈ ls, ∀ j < n, t.g.rdV l (d + j) = BitVec.ofNat 32 ((f l).1 / 2 ^ (32 * j))) ∧
      BankKept (wBit i) s t (fun l r => l ∈ ls ∧ d ≤ r ∧ r < d + n) ∧
      t.g.aflags = s.g.aflags ||| orFlags (ls.map fun l => (f l).2) := by
  have hf := finishAt_flow i (laneRes ls d n f) a s h rfl rfl rfl
  have hw := finishAt_words i (laneRes ls d n f) a s h rfl rfl rfl hsc hwb
  refine ⟨hf.1, fun l hl j hj => ?_, ⟨fun l r hr hk => ?_, fun l r hr hb hk => ?_⟩, ?_⟩
  · refine hw.1 l (d + j) _ ((mem_laneRes_keys hd (by omega)).2 ⟨hl, by omega, by omega⟩) fun w hm hk => ?_
    obtain ⟨l', _, j', hj', rfl⟩ := mem_laneRes.1 hm
    obtain ⟨h1, h2⟩ := vk_inj (show d + j' < 128 by omega) (by omega) hk
    have : j' = j := by omega
    subst this; subst h1; rfl
  · refine hw.2.1 (vk l r) (hk.elim .inr fun hn => .inl fun hm => hn ((mem_laneRes_keys hd hr).1 hm))
  · exact hw.2.2 (vk l r) ((mem_laneRes_keys hd hr).2 hk) hb
  · rw [hf.2]; simp only [laneRes, List.map_map]; rfl

/-- A lane-wise instruction: the shape of `LaneWise` for its shared operation. -/
theorem vecOp_done (i : Instr) (e : Pfx) (p : BitVec 2) (d : BitVec 7) (n : Nat) (f : Group → Nat → Nat × Flags) (s : State)
    (hc : CanIssue (landFor (srcRegs i) s)) (hn : d.toNat + n ≤ 128)
    (hz : consumed (landFor (srcRegs i) s).g (lanesOf (landFor (srcRegs i) s).g.width (activeMask e p s)) (srcRegs i) = none)
    (hsc : (destDesc i).getLsbD 14 = false) (hwb : wBit i = true → (destDesc i).getLsbD 11 = true) :
    let s' := landFor (srcRegs i) s
    let ls := lanesOf s'.g.width (activeMask e p s)
    ∃ t, vecOp i e p d n f s = .next t ∧ Flow s' t s'.g.copies s'.nextPc ∧
      (∀ l ∈ ls, ∀ j < n, t.g.rdV l (d.toNat + j) = BitVec.ofNat 32 ((f s'.g l).1 / 2 ^ (32 * j))) ∧
      BankKept (wBit i) s' t (fun l r => l ∈ ls ∧ d.toNat ≤ r ∧ r < d.toNat + n) ∧
      t.g.aflags = s'.g.aflags ||| orFlags (ls.map fun l => (f s'.g l).2) := by
  intro s' ls
  have hm := sameLanes_activeMask (landFor_sameLanes (srcRegs i) s) e p
  refine ⟨finishAt i (laneRes ls d.toNat n (f s'.g)) s'.nextPc s', ?_,
    finishAt_laneRes i ls d.toNat n (f s'.g) s'.nextPc s' hc hn hsc hwb⟩
  simp only [vecOp, issueRes, issue, hz, finish]
  simp only [hm]
  rfl

/-! ### Destination descriptors (R113) -/

theorem desc_bits (a b c d : Nat) (ha : a < 2) (hb : b < 4) (hc : c < 2) :
    (BitVec.ofNat 16 (2 ^ 15 + a * 2 ^ 14 + b * 2 ^ 12 + c * 2 ^ 11 + d % 128)).getLsbD 14 = decide (a = 1) ∧
    (BitVec.ofNat 16 (2 ^ 15 + a * 2 ^ 14 + b * 2 ^ 12 + c * 2 ^ 11 + d % 128)).getLsbD 11 = decide (c = 1) := by
  have hx : d % 128 < 128 := Nat.mod_lt _ (by decide)
  generalize d % 128 = x at hx
  constructor
  · simp only [BitVec.getLsbD_ofNat, Nat.testBit_eq_decide_div_mod_eq]
    simp only [show (14 : Nat) < 16 by decide, decide_true, Bool.true_and, decide_eq_decide]
    omega
  · simp only [BitVec.getLsbD_ofNat, Nat.testBit_eq_decide_div_mod_eq]
    simp only [show (11 : Nat) < 16 by decide, decide_true, Bool.true_and, decide_eq_decide]
    omega

theorem wdOf_lt (n : Nat) : wdOf n < 4 := by simp only [wdOf]; split <;> (try split) <;> omega

/-- An instruction without a scalar destination names no scalar register. -/
theorem destDesc_vector (i : Instr) (h : sdst i = none) : (destDesc i).getLsbD 14 = false := by
  simp only [destDesc, h]
  split
  · have hw : (if wBit i = true then 1 else 0) < 2 := by split <;> omega
    rw [(desc_bits 0 _ _ _ (by decide) (wdOf_lt _) hw).1]; rfl
  · rfl
/-- The descriptor of an instruction with a vector destination holds its W bit. -/
theorem destDesc_wb (i : Instr) (h : sdst i = none) (hr : ((regs i).find? (·.dst)).isSome = true) :
    wBit i = true → (destDesc i).getLsbD 11 = true := by
  intro hb
  simp only [destDesc, h]
  split
  · rw [(desc_bits 0 _ _ _ (by decide) (wdOf_lt _) (by simp [hb])).2]; simp [hb]
  · next heq => simp [heq] at hr

/-- An instruction with a scalar destination names it with its W bit. -/
theorem destDesc_scalar (i : Instr) (d : Nat) (h : sdst i = some d) :
    (destDesc i).getLsbD 14 = true ∧ (destDesc i).getLsbD 11 = wBit i := by
  have hw : (if wBit i = true then 1 else 0) < 2 := by split <;> omega
  simp only [destDesc, h]
  rw [(desc_bits 1 1 _ _ (by decide) (by decide) hw).1, (desc_bits 1 1 _ _ (by decide) (by decide) hw).2]
  cases wBit i <;> simp

end Sys2Proof.Machine
end

