-- ==== Sys2Proof/Laws/Memory.lean ====
section
/-! SUPPORT. Sys2Proof/Laws/Memory.lean: every operation keeps the canonical form of memory (Memory.wf). -/

namespace Sys2Proof.Machine
open Sys2Proof

/-! ### Memory as data -/

theorem memPutLe_wf (m : Mem) (a v n : Nat) (h : Memory.wf m = true) : Memory.wf (memPutLe m a v n) = true :=
  memFold_wf _ (fun m _ hm => memSet_wf m _ _ hm) _ m h
theorem memPut32_wf (m : Mem) (k : Nat) (x : Word) (h : Memory.wf m = true) : Memory.wf (memPut32 m k x) = true :=
  memFold_wf _ (fun m _ hm => memSet_wf m _ _ hm) _ m h
theorem putBytes_wf : ∀ (bs : List Byte) (m : Mem) (k : Nat), Memory.wf m = true → Memory.wf (putBytes m k bs) = true
  | [], _, _, h => h
  | b :: t, m, k, h => putBytes_wf t (memSet m k b) (k + 1) (memSet_wf m k b h)
theorem dropMem_wf (m : Mem) (ts : List Nat) (c : Nat) (h : Memory.wf m = true) : Memory.wf (dropMem m ts c) = true :=
  memClear_wf _ _ _ (memClear_wf _ _ _ (memFold_wf _ (fun m _ hm => memClear_wf m _ _ hm) ts m h))
theorem remapMem_wf (o n : Layout) (d : Nat) (m : Mem) : Memory.wf (remapMem o n d m) = true :=
  memFold_wf _ (fun a e ha => by
    show Memory.wf (match remapKey o n d 1 e.1 with | some k => memSet a k e.2 | none => a) = true
    split
    · exact memSet_wf _ _ _ ha
    · exact ha) m [] rfl

/-! ### Memory of a state -/

/-- The memory of a state is in canonical form. -/
def MemOk (s : State) : Prop := Memory.wf s.mem = true
/-- The memory of the next state, when there is one, is in canonical form. -/
def OutOk : Out → Prop
  | .next t => MemOk t
  | _ => True

theorem reset_memOk : MemOk State.reset := rfl

theorem MemOk.wf {s : State} (h : MemOk s) : Memory.wf s.mem = true := h
theorem memOk_of_mem {s t : State} (h : MemOk s) (e : t.mem = s.mem) : MemOk t := by simpa only [MemOk, e] using h
theorem memOk_ite {c : Prop} [Decidable c] {a b : State} (ha : MemOk a) (hb : MemOk b) : MemOk (if c then a else b)
    := by
  split <;> assumption
theorem memOk_ite1 {α : Type} {c : Prop} [Decidable c] {a b : State × α} (ha : MemOk a.1) (hb : MemOk b.1) :
    MemOk (if c then a else b).1 := by split <;> assumption
theorem memOk_ite2 {α : Type} {c : Prop} [Decidable c] {a b : α × State} (ha : MemOk a.2) (hb : MemOk b.2) :
    MemOk (if c then a else b).2 := by split <;> assumption
theorem memOk_foldl {α : Type} (f : State → α → State) (l : List α) (s : State) (hs : MemOk s)
    (hf : ∀ s x, MemOk s → MemOk (f s x)) : MemOk (l.foldl f s) := by
  induction l generalizing s with
  | nil => exact hs
  | cons x t ih => exact ih (f s x) (hf s x hs)
theorem memOk_foldl1 {α β : Type} (f : State × β → α → State × β) (l : List α) (s : State × β) (hs : MemOk s.1)
    (hf : ∀ s x, MemOk s.1 → MemOk (f s x).1) : MemOk (l.foldl f s).1 := by
  induction l generalizing s with
  | nil => exact hs
  | cons x t ih => exact ih (f s x) (hf s x hs)
theorem memOk_foldl2 {α β : Type} (f : β × State → α → β × State) (l : List α) (s : β × State) (hs : MemOk s.2)
    (hf : ∀ s x, MemOk s.2 → MemOk (f s x).2) : MemOk (l.foldl f s).2 := by
  induction l generalizing s with
  | nil => exact hs
  | cons x t ih => exact ih (f s x) (hf s x hs)
theorem outOk_next {s : State} (h : MemOk s) : OutOk (.next s) := h
theorem outOk_fault (f : Fault) : OutOk (.fault f) := trivial
theorem outOk_refused (r : Refusal) : OutOk (.refused r) := trivial
theorem outOk_ite {c : Prop} [Decidable c] {a b : Out} (ha : OutOk a) (hb : OutOk b) : OutOk (if c then a else b) :=
    by
  split <;> assumption
theorem guardEv_memOk (name : String) (ok : Bool) {s : State} (h : MemOk s) : OutOk (guardEv name ok s) := by
  unfold guardEv; split
  · exact h
  · trivial
theorem memOk_mk {time : Dword} {free : Nat} {uid : Nat} {agenda : List Instr} {cur : Cur} {turn : Nat} {mem : Mem}
    {psn : KV Nat} {tags : KV Word} {edirty : KV Bool} {devs : KV Dev} {parts : KV Part} {cores : KV Core} {conts :
    KV Cont} {teams : KV Team} {groups : KV Group} {launches : KV Launch} {nodes : KV GNode} {cmds : KV Cmd}
    {credits : List Credit} {home : KV HReq} {sw : KV Bool} {quota : KV Dword} {allocs : List Alloc} {mlog : List
    MirrorUp} {outData : List Byte} :
    MemOk (State.mk time free uid agenda cur turn mem psn tags edirty devs parts cores conts teams groups launches
    nodes cmds credits home sw quota allocs mlog outData) ↔ Memory.wf mem = true := Iff.rfl
/-- The memory of an optional state is in canonical form. -/
def OptOk : Option State → Prop
  | some t => MemOk t
  | none => True
theorem optOk_ite {c : Prop} [Decidable c] {a b : Option State} (ha : OptOk a) (hb : OptOk b) :
    OptOk (if c then a else b) := by split <;> assumption
theorem getD_memOk {o : Option State} {s : State} (ho : OptOk o) (h : MemOk s) : MemOk (o.getD s) := by
  cases o with
  | none => exact h
  | some t => exact ho
theorem nextOr_memOk {o : Out} {s : State} : OutOk o → MemOk s → MemOk (match o with | .next t => t | _ => s) := by
  cases o <;> intro ho h <;> assumption
theorem memOk_mem {s : State} (h : MemOk s) : Memory.wf s.mem = true := h

/-! ### Operations

One lemma for each operation and each meaning that answers a state or an outcome: with memory in canonical form
before, memory is in canonical form after. -/

theorem State.modDev_memOk (s : State) (d : Nat) (f : Dev → Dev) (h1 : MemOk s) :
    MemOk (State.modDev s d f) := by
  unfold State.modDev
  try dsimp only
  repeat' with_reducible first | assumption | apply memOk_mem | simp only [↓memOk_mk]

theorem State.modPart_memOk (s : State) (d p : Nat) (f : Part → Part) (h1 : MemOk s) :
    MemOk (State.modPart s d p f) := by
  unfold State.modPart
  try dsimp only
  repeat' with_reducible first | assumption | apply memOk_mem | simp only [↓memOk_mk]

theorem State.modCore_memOk (s : State) (c : Nat) (f : Core → Core) (h1 : MemOk s) :
    MemOk (State.modCore s c f) := by
  unfold State.modCore
  try dsimp only
  repeat' with_reducible first | assumption | apply memOk_mem | simp only [↓memOk_mk]

theorem State.modGrp_memOk (s : State) (g : Nat) (f : Group → Group) (h1 : MemOk s) :
    MemOk (State.modGrp s g f) := by
  unfold State.modGrp
  try dsimp only
  repeat' with_reducible first | assumption | apply memOk_mem | simp only [↓memOk_mk]

theorem State.modTeam_memOk (s : State) (t : Nat) (f : Team → Team) (h1 : MemOk s) :
    MemOk (State.modTeam s t f) := by
  unfold State.modTeam
  try dsimp only
  repeat' with_reducible first | assumption | apply memOk_mem | simp only [↓memOk_mk]

theorem State.modCont_memOk (s : State) (c : Nat) (f : Cont → Cont) (h1 : MemOk s) :
    MemOk (State.modCont s c f) := by
  unfold State.modCont
  try dsimp only
  repeat' with_reducible first | assumption | apply memOk_mem | simp only [↓memOk_mk]

theorem State.modLaunch_memOk (s : State) (l : Nat) (f : Launch → Launch) (h1 : MemOk s) :
    MemOk (State.modLaunch s l f) := by
  unfold State.modLaunch
  try dsimp only
  repeat' with_reducible first | assumption | apply memOk_mem | simp only [↓memOk_mk]

theorem State.modCmd_memOk (s : State) (u : Nat) (f : Cmd → Cmd) (h1 : MemOk s) :
    MemOk (State.modCmd s u f) := by
  unfold State.modCmd
  try dsimp only
  repeat' with_reducible first | assumption | apply memOk_mem | simp only [↓memOk_mk]

theorem State.modNode_memOk (s : State) (u : Nat) (f : GNode → GNode) (h1 : MemOk s) :
    MemOk (State.modNode s u f) := by
  unfold State.modNode
  try dsimp only
  repeat' with_reducible first | assumption | apply memOk_mem | simp only [↓memOk_mk]

theorem State.fresh_memOk (s : State) (h1 : MemOk s) :
    MemOk (State.fresh s) := by
  unfold State.fresh
  try dsimp only
  repeat' with_reducible first | assumption | apply memOk_mem | simp only [↓memOk_mk]

theorem State.modCtx_memOk (s : State) (d a : Nat) (f : Ctx → Ctx) (h1 : MemOk s) :
    MemOk (State.modCtx s d a f) := by
  unfold State.modCtx
  try dsimp only
  repeat' with_reducible first | assumption | (intro _) | apply State.modDev_memOk

theorem State.perfIn_memOk (s : State) (core bank code n : Nat) (h1 : MemOk s) :
    MemOk (State.perfIn s core bank code n) := by
  unfold State.perfIn
  try dsimp only
  repeat' with_reducible
    first
    | assumption | (intro _) | apply memOk_mem | apply memOk_ite | apply memOk_foldl | apply memOk_foldl1
    | apply memOk_foldl2 | apply memFold_wf | simp only [↓memOk_mk]

theorem State.perf_memOk (s : State) (core code n : Nat) (h1 : MemOk s) :
    MemOk (State.perf s core code n) := by
  unfold State.perf
  try dsimp only
  repeat' with_reducible first | assumption | apply State.perfIn_memOk

theorem State.perfGrp_memOk (s : State) (g code n : Nat) (h1 : MemOk s) :
    MemOk (State.perfGrp s g code n) := by
  unfold State.perfGrp
  try dsimp only
  repeat' with_reducible first | assumption | apply State.perfIn_memOk | apply memOk_mem | split

theorem viralIrq_memOk (d a : Nat) (s : State) (h1 : MemOk s) :
    MemOk (viralIrq d a s) := by
  unfold viralIrq
  try dsimp only
  repeat' with_reducible first | assumption | (intro _) | apply State.modDev_memOk

theorem vacate_memOk (s : State) (c : Nat) (h1 : MemOk s) :
    MemOk (vacate s c) := by
  unfold vacate
  try dsimp only
  repeat' with_reducible first | assumption | (intro _) | apply memOk_mem | apply memOk_ite | simp only [↓memOk_mk]

theorem dropCont_memOk (s : State) (c : Nat) (h1 : MemOk s) :
    MemOk (dropCont s c) := by
  unfold dropCont
  try dsimp only
  repeat' with_reducible
    first
    | assumption | (intro _) | apply vacate_memOk | apply memOk_mem | apply dropMem_wf | simp only [↓memOk_mk]

theorem endCont_memOk (s : State) (c : Nat) (h1 : MemOk s) :
    MemOk (endCont s c) := by
  unfold endCont
  try dsimp only
  repeat' with_reducible
    first
    | assumption | (intro _) | apply State.modGrp_memOk | apply State.modCont_memOk | apply vacate_memOk
    | apply dropCont_memOk | apply memOk_mem | apply memOk_ite | apply memOk_foldl

theorem endContext_memOk (s : State) (d a code why core bank slot : Nat) (va : Dword) (h1 : MemOk s) :
    MemOk (endContext s d a code why core bank slot va) := by
  unfold endContext
  try dsimp only
  repeat' with_reducible
    first
    | assumption | (intro _) | apply State.modDev_memOk | apply State.modPart_memOk | apply State.modCtx_memOk
    | apply endCont_memOk | apply memOk_mem | apply memOk_ite | apply memOk_foldl | apply memOk_foldl1
    | apply memOk_foldl2 | apply memFold_wf | simp only [↓memOk_mk]

theorem l2Install_memOk (s : State) (d p line mask : Nat) (src : Nat → Byte) (h1 : MemOk s) :
    MemOk (l2Install s d p line mask src) := by
  unfold l2Install
  try dsimp only
  repeat' with_reducible first | assumption | (intro _) | apply State.modPart_memOk

theorem l2Update_memOk (s : State) (d p : Nat) (cells : List (Nat × Byte)) (h1 : MemOk s) :
    MemOk (l2Update s d p cells) := by
  unfold l2Update
  try dsimp only
  repeat' with_reducible
    first
    | assumption | (intro _) | apply State.modPart_memOk | apply memOk_mem | apply memOk_ite

theorem cohRead_memOk (s : State) (pl : Place) (q : Nat) (h1 : MemOk s) :
    MemOk (cohRead s pl q) := by
  unfold cohRead
  try dsimp only
  repeat' with_reducible first | assumption | apply memOk_mem | apply memOk_ite | simp only [↓memOk_mk]

theorem cohLeave_memOk (s : State) (pl : Place) (q : Nat) (h1 : MemOk s) :
    MemOk (cohLeave s pl q) := by
  unfold cohLeave
  try dsimp only
  repeat' with_reducible first | assumption | apply memOk_mem | apply memOk_ite | simp only [↓memOk_mk] | split

theorem cohWrite_memOk (s : State) (pl : Place) (q : Nat) (h1 : MemOk s) :
    MemOk (cohWrite s pl q) := by
  unfold cohWrite
  try dsimp only
  repeat' with_reducible first | assumption | apply memOk_mem | apply memOk_ite | simp only [↓memOk_mk]

theorem putSector_memOk (s : State) (x : Nat × List (Nat × Byte)) (h1 : MemOk s) :
    MemOk (putSector s x).1 := by
  unfold putSector
  try dsimp only
  repeat' with_reducible
    first
    | assumption | (intro _) | apply memOk_mem | apply memOk_ite | apply memOk_ite1 | apply memOk_foldl
    | apply memOk_foldl1 | apply memOk_foldl2 | apply memFold_wf | apply memSet_wf | simp only [↓memOk_mk]

theorem poisonSectors_memOk (s : State) (ks : List Nat) (reason : Nat) (h1 : MemOk s) :
    MemOk (poisonSectors s ks reason) := by
  unfold poisonSectors
  try dsimp only
  repeat' with_reducible
    first
    | assumption | (intro _) | apply memOk_mem | apply memOk_foldl | apply memOk_foldl1 | apply memOk_foldl2
    | apply memFold_wf | simp only [↓memOk_mk]

theorem fetchDone_memOk (d p line : Nat) (s : State) (h1 : MemOk s) :
    MemOk (fetchDone d p line s) := by
  unfold fetchDone
  try dsimp only
  repeat' with_reducible first | assumption | (intro _) | apply State.modPart_memOk

theorem fetchStart_memOk (d p line : Nat) (lack : BitVec 8) (s : State) (h1 : MemOk s) :
    MemOk (fetchStart d p line lack s) := by
  unfold fetchStart
  try dsimp only
  repeat' with_reducible first | assumption | (intro _) | apply State.modPart_memOk

theorem l2Need_memOk (d p line : Nat) (want : BitVec 8) (s : State) (h1 : MemOk s) :
    MemOk (l2Need d p line want s) := by
  unfold l2Need
  try dsimp only
  repeat' with_reducible
    first
    | assumption | apply State.modPart_memOk | apply fetchDone_memOk | apply fetchStart_memOk | apply memOk_ite

theorem l2Wrote_memOk (d p line : Nat) (mask : BitVec 8) (s : State) (h1 : MemOk s) :
    MemOk (l2Wrote d p line mask s) := by
  unfold l2Wrote
  try dsimp only
  repeat' with_reducible first | assumption | apply State.modPart_memOk

theorem needAt_memOk (pl : Place) (want : BitVec 8) (s : State) (h1 : MemOk s) :
    MemOk (needAt pl want s) := by
  unfold needAt
  try dsimp only
  repeat' with_reducible first | assumption | apply l2Need_memOk | apply memOk_ite | split

theorem wroteAt_memOk (pl : Place) (mask : BitVec 8) (s : State) (h1 : MemOk s) :
    MemOk (wroteAt pl mask s) := by
  unfold wroteAt
  try dsimp only
  repeat' with_reducible first | assumption | apply l2Wrote_memOk | apply memOk_ite | split

theorem State.modG_memOk (s : State) (f : Group → Group) (h1 : MemOk s) :
    MemOk (State.modG s f) := by
  unfold State.modG
  try dsimp only
  repeat' with_reducible first | assumption | apply State.modGrp_memOk

theorem goTo_memOk (a : BitVec 57) (s : State) (h1 : MemOk s) :
    MemOk (goTo a s) := by
  unfold goTo
  try dsimp only
  repeat' with_reducible first | assumption | (intro _) | apply State.modG_memOk

theorem takeTrap_memOk (g : Nat) (t : TrapInfo) (s : State) (h1 : MemOk s) :
    MemOk (takeTrap g t s) := by
  unfold takeTrap
  try dsimp only
  repeat' with_reducible
    first
    | assumption | apply State.modGrp_memOk | apply viralIrq_memOk | apply endContext_memOk | apply memOk_ite

theorem trapNow_memOk (i : Instr) (cause : Nat) (tlanes tva : Dword) (s : State) (h1 : MemOk s) :
    MemOk (trapNow i cause tlanes tva s) := by
  unfold trapNow
  try dsimp only
  repeat' with_reducible first | assumption | apply takeTrap_memOk

theorem trapNext_memOk (cause : Nat) (tlanes tva : Dword) (tdest : BitVec 16) (s : State) (h1 : MemOk s) :
    MemOk (trapNext cause tlanes tva tdest s) := by
  unfold trapNext
  try dsimp only
  repeat' with_reducible first | assumption | apply takeTrap_memOk

theorem fillLine_memOk (core d p asid : Nat) (f : Fill) (s : State) (h1 : MemOk s) :
    MemOk (fillLine core d p asid f s) := by
  unfold fillLine
  try dsimp only
  repeat' with_reducible
    first
    | assumption | (intro _) | apply State.modCore_memOk | apply l2Install_memOk | apply needAt_memOk
    | apply memOk_ite

theorem landLoad_memOk (g n : Nat) (s : State) (h1 : MemOk s) :
    MemOk (landLoad g n s) := by
  unfold landLoad
  try dsimp only
  repeat' with_reducible
    first
    | assumption | (intro _) | apply State.modGrp_memOk | apply viralIrq_memOk | apply fillLine_memOk
    | apply memOk_mem | apply memOk_ite | apply memOk_foldl | apply memOk_foldl1 | apply memOk_foldl2
    | apply memFold_wf | apply memSet_wf | simp only [↓memOk_mk] | split

theorem landFor_memOk (rgs : List VReg) (s : State) (h1 : MemOk s) :
    MemOk (landFor rgs s) := by
  unfold landFor
  try dsimp only
  repeat' with_reducible first | assumption | (intro _) | apply landLoad_memOk | apply memOk_ite | apply memOk_foldl

theorem landAll_memOk (g : Nat) (s : State) (h1 : MemOk s) :
    MemOk (landAll g s) := by
  unfold landAll
  try dsimp only
  repeat' with_reducible first | assumption | (intro _) | apply landLoad_memOk | apply memOk_foldl

theorem landFills_memOk (cid lo hi : Nat) (s : State) (h1 : MemOk s) :
    MemOk (landFills cid lo hi s) := by
  unfold landFills
  try dsimp only
  repeat' with_reducible first | assumption | (intro _) | apply landLoad_memOk | apply memOk_ite | apply memOk_foldl

theorem poisonTrap_memOk (i : Instr) (reason : Nat) (tlanes : Dword) (s : State) (h1 : MemOk s) :
    MemOk (poisonTrap i reason tlanes s) := by
  unfold poisonTrap
  try dsimp only
  repeat' with_reducible first | assumption | (intro _) | apply State.modG_memOk | apply trapNow_memOk

theorem stall_memOk (i : Instr) (data : List Nat) (s : State) (h1 : MemOk s) :
    MemOk (stall i data s) := by
  unfold stall
  try dsimp only
  repeat' with_reducible
    first
    | assumption | (intro _) | apply State.fresh_memOk | apply State.modG_memOk | apply memOk_mem | apply memOk_ite
    | simp only [↓memOk_mk] | split

theorem finishLate_memOk (i : Instr) (late : Nat) (r : Res) (next : BitVec 57) (s : State) (h1 : MemOk s) :
    MemOk (finishLate i late r next s) := by
  unfold finishLate
  try dsimp only
  repeat' with_reducible first | assumption | (intro _) | apply State.modG_memOk | apply goTo_memOk

theorem finishAt_memOk (i : Instr) (r : Res) (next : BitVec 57) (s : State) (h1 : MemOk s) :
    MemOk (finishAt i r next s) := by
  unfold finishAt
  try dsimp only
  repeat' with_reducible first | assumption | apply finishLate_memOk

theorem finish_memOk (i : Instr) (r : Res) (s : State) (h1 : MemOk s) :
    MemOk (finish i r s) := by
  unfold finish
  try dsimp only
  repeat' with_reducible first | assumption | apply finishAt_memOk

theorem issue_memOk (i : Instr) (lanes : Dword) (body : State → State) (s : State) (h1 : ∀ (x0 : State), MemOk x0 →
    MemOk (body x0)) (h2 : MemOk s) :
    OutOk (issue i lanes body s) := by
  unfold issue
  try dsimp only
  repeat' with_reducible
    first
    | assumption | apply h1 | apply landFor_memOk | apply poisonTrap_memOk | apply memOk_mem | apply outOk_next
    | split

theorem issueRes_memOk (i : Instr) (lanes : Dword) (f : State → Res) (s : State) (h1 : MemOk s) :
    OutOk (issueRes i lanes f s) := by
  unfold issueRes
  try dsimp only
  repeat' with_reducible first | assumption | (intro _) | apply finish_memOk | apply issue_memOk

theorem issueAcross_memOk (i : Instr) (rgs : List VReg) (rds : State → List (Nat × Nat × Nat × Nat)) (f : State →
    Res) (s : State) (h1 : MemOk s) :
    OutOk (issueAcross i rgs rds f s) := by
  unfold issueAcross
  try dsimp only
  repeat' with_reducible
    first
    | assumption | (intro _) | apply landFor_memOk | apply poisonTrap_memOk | apply finish_memOk | apply memOk_mem
    | apply memOk_ite | apply outOk_ite | apply outOk_next | apply memOk_foldl | apply memOk_foldl1
    | apply memOk_foldl2 | apply memFold_wf | split

theorem issueS_memOk (i : Instr) (f : State → Res) (s : State) (h1 : MemOk s) :
    OutOk (issueS i f s) := by
  unfold issueS
  try dsimp only
  repeat' with_reducible first | assumption | apply finish_memOk | apply outOk_next

theorem codeTrap_memOk (tgt : Nat) (s : State) (h1 : MemOk s) :
    MemOk (codeTrap tgt s) := by
  unfold codeTrap
  try dsimp only
  repeat' with_reducible first | assumption | apply takeTrap_memOk

theorem transfer_memOk (i : Instr) (r : Res) (tgt : Nat) (s : State) (h1 : MemOk s) :
    MemOk (transfer i r tgt s) := by
  unfold transfer
  try dsimp only
  repeat' with_reducible first | assumption | apply finishAt_memOk | apply codeTrap_memOk | apply memOk_ite

theorem execBr_memOk (e : Pfx) (i : BitVec 16) (c : BitVec 5) (s : State) (h1 : MemOk s) :
    OutOk (execBr e i c s) := by
  unfold execBr
  try dsimp only
  repeat' with_reducible
    first
    | assumption | apply finish_memOk | apply transfer_memOk | apply memOk_ite | apply outOk_ite | apply outOk_next

theorem execBrp_memOk (e : Pfx) (i : BitVec 16) (sn : BitVec 1) (k : BitVec 4) (s : State) (h1 : MemOk s) :
    OutOk (execBrp e i sn k s) := by
  unfold execBrp
  try dsimp only
  repeat' with_reducible
    first
    | assumption | apply finish_memOk | apply transfer_memOk | apply memOk_ite | apply outOk_ite | apply outOk_next

theorem execJmp_memOk (e : Pfx) (i : BitVec 21) (s : State) (h1 : MemOk s) :
    OutOk (execJmp e i s) := by
  unfold execJmp
  try dsimp only
  repeat' with_reducible first | assumption | apply transfer_memOk | apply outOk_next

theorem execCall_memOk (e : Pfx) (i : BitVec 21) (s : State) (h1 : MemOk s) :
    OutOk (execCall e i s) := by
  unfold execCall
  try dsimp only
  repeat' with_reducible first | assumption | apply transfer_memOk | apply outOk_next

theorem execRet_memOk (e : Pfx) (a : BitVec 7) (s : State) (h1 : MemOk s) :
    OutOk (execRet e a s) := by
  unfold execRet
  try dsimp only
  repeat' with_reducible first | assumption | apply transfer_memOk | apply outOk_next

theorem execSplit_memOk (e : Pfx) (f : BitVec 6) (q : BitVec 4) (i : BitVec 11) (s : State) (h1 : MemOk s) :
    OutOk (execSplit e f q i s) := by
  unfold execSplit
  try dsimp only
  repeat' with_reducible
    first
    | assumption | (intro _) | apply State.modG_memOk | apply memOk_mem | apply memOk_ite | apply outOk_ite
    | apply outOk_next

theorem execJoin_memOk (e : Pfx) (a : BitVec 7) (s : State) (h1 : MemOk s) :
    OutOk (execJoin e a s) := by
  unfold execJoin
  try dsimp only
  repeat' with_reducible
    first
    | assumption | (intro _) | apply State.modG_memOk | apply finish_memOk | apply issue_memOk

theorem execMeetset_memOk (e : Pfx) (i : BitVec 21) (s : State) (h1 : MemOk s) :
    OutOk (execMeetset e i s) := by
  unfold execMeetset
  try dsimp only
  repeat' with_reducible
    first
    | assumption | (intro _) | apply State.modG_memOk | apply finish_memOk | apply outOk_next

theorem execElect_memOk (e : Pfx) (b a d : BitVec 7) (s : State) (h1 : MemOk s) :
    OutOk (execElect e b a d s) := by
  unfold execElect
  try dsimp only
  repeat' with_reducible first | assumption | (intro _) | apply issueS_memOk

theorem execNop_memOk (e : Pfx) (s : State) (h1 : MemOk s) :
    OutOk (execNop e s) := by
  unfold execNop
  try dsimp only
  repeat' with_reducible first | assumption | (intro _) | apply issueS_memOk

theorem execYield_memOk (e : Pfx) (s : State) (h1 : MemOk s) :
    OutOk (execYield e s) := by
  unfold execYield
  try dsimp only
  repeat' with_reducible first | assumption | (intro _) | apply issueS_memOk

theorem vecOp_memOk (i : Instr) (e : Pfx) (p : BitVec 2) (d : BitVec 7) (n : Nat) (f : Group → Nat → Nat × Flags) (s
    : State) (h1 : MemOk s) :
    OutOk (vecOp i e p d n f s) := by
  unfold vecOp
  try dsimp only
  repeat' with_reducible first | assumption | (intro _) | apply issueRes_memOk

theorem intOp_memOk (i : Instr) (e : Pfx) (p : BitVec 2) (t : Nat) (d a : BitVec 7) (b : BOp) (f : Int → Int → Nat ×
    Flags) (s : State) (h1 : MemOk s) :
    OutOk (intOp i e p t d a b f s) := by
  unfold intOp
  try dsimp only
  repeat' with_reducible first | assumption | (intro _) | apply vecOp_memOk

theorem fltOp_memOk (i : Instr) (e : Pfx) (p : BitVec 2) (t : Nat) (d a : BitVec 7) (b : BOp) (g : Bool → Nat → Nat
    → Nat × Flags) (s : State) (h1 : MemOk s) :
    OutOk (fltOp i e p t d a b g s) := by
  unfold fltOp
  try dsimp only
  repeat' with_reducible first | assumption | (intro _) | apply vecOp_memOk

theorem execFadd_memOk (e : Pfx) (f : GForm) (s : State) (h1 : MemOk s) :
    OutOk (execFadd e f s) := by
  unfold execFadd
  try dsimp only
  repeat' with_reducible first | assumption | apply fltOp_memOk

theorem execFsub_memOk (e : Pfx) (f : GForm) (s : State) (h1 : MemOk s) :
    OutOk (execFsub e f s) := by
  unfold execFsub
  try dsimp only
  repeat' with_reducible first | assumption | apply fltOp_memOk

theorem execFmul_memOk (e : Pfx) (f : GForm) (s : State) (h1 : MemOk s) :
    OutOk (execFmul e f s) := by
  unfold execFmul
  try dsimp only
  repeat' with_reducible first | assumption | apply fltOp_memOk

theorem execFfma_memOk (e : Pfx) (f : GForm) (s : State) (h1 : MemOk s) :
    OutOk (execFfma e f s) := by
  unfold execFfma
  try dsimp only
  repeat' with_reducible first | assumption | (intro _) | apply vecOp_memOk

theorem execFmin_memOk (e : Pfx) (f : GForm) (s : State) (h1 : MemOk s) :
    OutOk (execFmin e f s) := by
  unfold execFmin
  try dsimp only
  repeat' with_reducible first | assumption | apply fltOp_memOk

theorem execFmax_memOk (e : Pfx) (f : GForm) (s : State) (h1 : MemOk s) :
    OutOk (execFmax e f s) := by
  unfold execFmax
  try dsimp only
  repeat' with_reducible first | assumption | apply fltOp_memOk

theorem execFsgn_memOk (e : Pfx) (f : GForm) (s : State) (h1 : MemOk s) :
    OutOk (execFsgn e f s) := by
  unfold execFsgn
  try dsimp only
  repeat' with_reducible first | assumption | (intro _) | apply fltOp_memOk

theorem execFcmp_memOk (e : Pfx) (f : CForm) (s : State) (h1 : MemOk s) :
    OutOk (execFcmp e f s) := by
  unfold execFcmp
  try dsimp only
  repeat' with_reducible first | assumption | (intro _) | apply issueRes_memOk

theorem funOp_memOk (i : Instr) (e : Pfx) (f : UForm) (t : Nat) (g : Nat → FV → Nat × Flags) (s : State) (h1 : MemOk
    s) :
    OutOk (funOp i e f t g s) := by
  unfold funOp
  try dsimp only
  repeat' with_reducible first | assumption | (intro _) | apply vecOp_memOk

theorem execFclass_memOk (e : Pfx) (f : UForm) (s : State) (h1 : MemOk s) :
    OutOk (execFclass e f s) := by
  unfold execFclass
  try dsimp only
  repeat' with_reducible first | assumption | (intro _) | apply vecOp_memOk

theorem execFrcp_memOk (e : Pfx) (f : UForm) (s : State) (h1 : MemOk s) :
    OutOk (execFrcp e f s) := by
  unfold execFrcp
  try dsimp only
  repeat' with_reducible first | assumption | (intro _) | apply funOp_memOk

theorem execFrsq_memOk (e : Pfx) (f : UForm) (s : State) (h1 : MemOk s) :
    OutOk (execFrsq e f s) := by
  unfold execFrsq
  try dsimp only
  repeat' with_reducible first | assumption | (intro _) | apply funOp_memOk

theorem execFsqrt_memOk (e : Pfx) (f : UForm) (s : State) (h1 : MemOk s) :
    OutOk (execFsqrt e f s) := by
  unfold execFsqrt
  try dsimp only
  repeat' with_reducible first | assumption | (intro _) | apply funOp_memOk

theorem execFexp2_memOk (e : Pfx) (f : UForm) (s : State) (h1 : MemOk s) :
    OutOk (execFexp2 e f s) := by
  unfold execFexp2
  try dsimp only
  repeat' with_reducible first | assumption | (intro _) | apply funOp_memOk

theorem execFlog2_memOk (e : Pfx) (f : UForm) (s : State) (h1 : MemOk s) :
    OutOk (execFlog2 e f s) := by
  unfold execFlog2
  try dsimp only
  repeat' with_reducible first | assumption | (intro _) | apply funOp_memOk

theorem execFsin_memOk (e : Pfx) (f : UForm) (s : State) (h1 : MemOk s) :
    OutOk (execFsin e f s) := by
  unfold execFsin
  try dsimp only
  repeat' with_reducible first | assumption | (intro _) | apply funOp_memOk

theorem execFcos_memOk (e : Pfx) (f : UForm) (s : State) (h1 : MemOk s) :
    OutOk (execFcos e f s) := by
  unfold execFcos
  try dsimp only
  repeat' with_reducible first | assumption | (intro _) | apply funOp_memOk

theorem execFtanh_memOk (e : Pfx) (f : UForm) (s : State) (h1 : MemOk s) :
    OutOk (execFtanh e f s) := by
  unfold execFtanh
  try dsimp only
  repeat' with_reducible first | assumption | (intro _) | apply funOp_memOk

theorem execFrnd_memOk (e : Pfx) (f : UForm) (s : State) (h1 : MemOk s) :
    OutOk (execFrnd e f s) := by
  unfold execFrnd
  try dsimp only
  repeat' with_reducible first | assumption | (intro _) | apply funOp_memOk

theorem execFscale_memOk (e : Pfx) (f : GForm) (s : State) (h1 : MemOk s) :
    OutOk (execFscale e f s) := by
  unfold execFscale
  try dsimp only
  repeat' with_reducible first | assumption | (intro _) | apply vecOp_memOk

theorem execFcvt_memOk (e : Pfx) (sl : BitVec 1) (t : BitVec 5) (a d : BitVec 7) (w : BitVec 1) (p : BitVec 2) (s :
    State) (h1 : MemOk s) :
    OutOk (execFcvt e sl t a d w p s) := by
  unfold execFcvt
  try dsimp only
  repeat' with_reducible first | assumption | (intro _) | apply vecOp_memOk

theorem execFmxs_memOk (e : Pfx) (t : BitVec 5) (a d : BitVec 7) (w : BitVec 1) (p : BitVec 2) (s : State) (h1 :
    MemOk s) :
    OutOk (execFmxs e t a d w p s) := by
  unfold execFmxs
  try dsimp only
  repeat' with_reducible first | assumption | (intro _) | apply vecOp_memOk

theorem execFpack_memOk (e : Pfx) (f : GForm) (s : State) (h1 : MemOk s) :
    OutOk (execFpack e f s) := by
  unfold execFpack
  try dsimp only
  repeat' with_reducible first | assumption | (intro _) | apply vecOp_memOk

theorem execFunpack_memOk (e : Pfx) (f : NForm) (s : State) (h1 : MemOk s) :
    OutOk (execFunpack e f s) := by
  unfold execFunpack
  try dsimp only
  repeat' with_reducible first | assumption | (intro _) | apply vecOp_memOk

theorem execFdot2_memOk (e : Pfx) (f : GForm) (s : State) (h1 : MemOk s) :
    OutOk (execFdot2 e f s) := by
  unfold execFdot2
  try dsimp only
  repeat' with_reducible first | assumption | (intro _) | apply vecOp_memOk

theorem execFwcvt_memOk (e : Pfx) (f : GForm) (s : State) (h1 : MemOk s) :
    OutOk (execFwcvt e f s) := by
  unfold execFwcvt
  try dsimp only
  repeat' with_reducible first | assumption | (intro _) | apply vecOp_memOk | apply memOk_ite | apply outOk_ite

theorem execFwadd_memOk (e : Pfx) (f : GForm) (s : State) (h1 : MemOk s) :
    OutOk (execFwadd e f s) := by
  unfold execFwadd
  try dsimp only
  repeat' with_reducible first | assumption | (intro _) | apply vecOp_memOk

theorem zeroSlot_memOk (cid k : Nat) (s : State) (h1 : MemOk s) :
    MemOk (zeroSlot cid k s) := by
  unfold zeroSlot
  try dsimp only
  repeat' with_reducible first | assumption | (intro _) | apply memOk_mem | apply memClear_wf | simp only [↓memOk_mk]

theorem predOp_memOk (i : Instr) (d : BitVec 6) (f : State → Dword) (s : State) (h1 : MemOk s) :
    OutOk (predOp i d f s) := by
  unfold predOp
  try dsimp only
  repeat' with_reducible first | assumption | (intro _) | apply issueS_memOk

theorem execPand_memOk (e : Pfx) (b a d : BitVec 6) (s : State) (h1 : MemOk s) :
    OutOk (execPand e b a d s) := by
  unfold execPand
  try dsimp only
  repeat' with_reducible first | assumption | (intro _) | apply predOp_memOk

theorem execPor_memOk (e : Pfx) (b a d : BitVec 6) (s : State) (h1 : MemOk s) :
    OutOk (execPor e b a d s) := by
  unfold execPor
  try dsimp only
  repeat' with_reducible first | assumption | (intro _) | apply predOp_memOk

theorem execPxor_memOk (e : Pfx) (b a d : BitVec 6) (s : State) (h1 : MemOk s) :
    OutOk (execPxor e b a d s) := by
  unfold execPxor
  try dsimp only
  repeat' with_reducible first | assumption | (intro _) | apply predOp_memOk

theorem execPandn_memOk (e : Pfx) (b a d : BitVec 6) (s : State) (h1 : MemOk s) :
    OutOk (execPandn e b a d s) := by
  unfold execPandn
  try dsimp only
  repeat' with_reducible first | assumption | (intro _) | apply predOp_memOk

theorem execPnot_memOk (e : Pfx) (a d : BitVec 6) (s : State) (h1 : MemOk s) :
    OutOk (execPnot e a d s) := by
  unfold execPnot
  try dsimp only
  repeat' with_reducible first | assumption | (intro _) | apply predOp_memOk

theorem execPset_memOk (e : Pfx) (a d : BitVec 6) (s : State) (h1 : MemOk s) :
    OutOk (execPset e a d s) := by
  unfold execPset
  try dsimp only
  repeat' with_reducible first | assumption | (intro _) | apply predOp_memOk

theorem execPget_memOk (e : Pfx) (a d : BitVec 6) (s : State) (h1 : MemOk s) :
    OutOk (execPget e a d s) := by
  unfold execPget
  try dsimp only
  repeat' with_reducible first | assumption | (intro _) | apply issueS_memOk

theorem execMov_memOk (e : Pfx) (f : GForm) (s : State) (h1 : MemOk s) :
    OutOk (execMov e f s) := by
  unfold execMov
  try dsimp only
  repeat' with_reducible first | assumption | (intro _) | apply vecOp_memOk

theorem execMovix_memOk (e : Pfx) (f : NForm) (s : State) (h1 : MemOk s) :
    OutOk (execMovix e f s) := by
  unfold execMovix
  try dsimp only
  repeat' with_reducible
    first
    | assumption | (intro _) | apply trapNow_memOk | apply issueAcross_memOk | apply memOk_ite | apply outOk_ite
    | apply outOk_next

theorem execStix_memOk (e : Pfx) (f : NForm) (s : State) (h1 : MemOk s) :
    OutOk (execStix e f s) := by
  unfold execStix
  try dsimp only
  repeat' with_reducible
    first
    | assumption | (intro _) | apply trapNow_memOk | apply finish_memOk | apply issue_memOk | apply memOk_ite

theorem execIxset_memOk (e : Pfx) (b : BitVec 7) (md k p : BitVec 2) (s : State) (h1 : MemOk s) :
    OutOk (execIxset e b md k p s) := by
  unfold execIxset
  try dsimp only
  repeat' with_reducible
    first
    | assumption | (intro _) | apply State.modG_memOk | apply finish_memOk | apply issue_memOk

theorem execPark_memOk (e : Pfx) (c : BitVec 4) (a d : BitVec 7) (p : BitVec 2) (s : State) (h1 : MemOk s) :
    OutOk (execPark e c a d p s) := by
  unfold execPark
  try dsimp only
  repeat' with_reducible
    first
    | assumption | (intro _) | apply trapNow_memOk | apply landFills_memOk | apply finish_memOk | apply issue_memOk
    | apply memOk_mem | apply memOk_foldl | apply memOk_foldl1 | apply memOk_foldl2 | apply memFold_wf
    | apply memPut32_wf | simp only [↓memOk_mk] | split

theorem execUnpark_memOk (e : Pfx) (c : BitVec 4) (a d : BitVec 7) (p : BitVec 2) (s : State) (h1 : MemOk s) :
    OutOk (execUnpark e c a d p s) := by
  unfold execUnpark
  try dsimp only
  repeat' with_reducible
    first
    | assumption | (intro _) | apply State.modG_memOk | apply trapNow_memOk | apply landFills_memOk
    | apply finish_memOk | apply issue_memOk | apply memOk_mem | apply memOk_ite | apply outOk_ite
    | apply memOk_foldl | apply memOk_foldl1 | apply memOk_foldl2 | apply memFold_wf | simp only [↓memOk_mk] | split

theorem execWinrd_memOk (e : Pfx) (b : BitVec 7) (k : BitVec 3) (d : BitVec 7) (p : BitVec 2) (s : State) (h1 :
    MemOk s) :
    OutOk (execWinrd e b k d p s) := by
  unfold execWinrd
  try dsimp only
  repeat' with_reducible
    first
    | assumption | (intro _) | apply landLoad_memOk | apply vecOp_memOk | apply memOk_mem | apply memOk_ite
    | apply outOk_ite | split

theorem devPut_memOk (s : State) (d p pa : Nat) (bs : List Byte) (h1 : MemOk s) :
    MemOk (devPut s d p pa bs) := by
  unfold devPut
  try dsimp only
  repeat' with_reducible
    first
    | assumption | (intro _) | apply putSector_memOk | apply wroteAt_memOk | apply memOk_foldl

theorem putEntry_memOk (s : State) (d p : Nat) (e : FEnt) (h1 : MemOk s) :
    MemOk (putEntry s d p e) := by
  unfold putEntry
  try dsimp only
  repeat' with_reducible first | assumption | apply devPut_memOk

theorem postFault_memOk (s : State) (d p : Nat) (f : FEnt) (h1 : MemOk s) :
    MemOk (postFault s d p f).1 := by
  unfold postFault
  try dsimp only
  repeat' with_reducible
    first
    | assumption | (intro _) | apply State.modPart_memOk | apply putEntry_memOk | apply memOk_mem | apply memOk_ite
    | apply memOk_ite1 | simp only [↓memOk_mk] | split

theorem askPage_memOk (s : State) (d asid pa kind : Nat) (h1 : MemOk s) :
    MemOk (askPage s d asid pa kind).1 := by
  unfold askPage
  try dsimp only
  repeat' with_reducible
    first
    | assumption | (intro _) | apply State.modDev_memOk | apply memOk_mem | apply memOk_ite | apply memOk_ite1
    | simp only [↓memOk_mk] | split

theorem raiseFault_memOk (s : State) (d p : Nat) (f : FEnt) (h1 : MemOk s) :
    MemOk (raiseFault s d p f).1 := by
  unfold raiseFault
  try dsimp only
  repeat' with_reducible
    first
    | assumption | apply postFault_memOk | apply askPage_memOk | apply memOk_mem | apply memOk_ite
    | apply memOk_ite1 | split

theorem parkReport_memOk (i : Instr) (park : Dword) (copy : Nat) (own : Bool) (w : Nat × Dword × Nat × Bool) (perm :
    Nat) (dest : BitVec 16) (s : State) (h1 : MemOk s) :
    MemOk (parkReport i park copy own w perm dest s) := by
  unfold parkReport
  try dsimp only
  repeat' with_reducible
    first
    | assumption | apply State.fresh_memOk | apply State.modG_memOk | apply takeTrap_memOk | apply raiseFault_memOk
    | apply memOk_ite

theorem performSector_memOk (d p kind : Nat) (op : Nat × Nat) (s : State) (x : Nat × List (Nat × Byte)) (h1 : MemOk
    s) :
    MemOk (performSector d p kind op s x).1 := by
  unfold performSector
  try dsimp only
  repeat' with_reducible
    first
    | assumption | (intro _) | apply l2Update_memOk | apply cohWrite_memOk | apply putSector_memOk
    | apply wroteAt_memOk | apply memOk_mem | apply memOk_ite | apply memOk_ite1 | simp only [↓memOk_mk] | split

theorem performRec_memOk (d p kind : Nat) (s : State) (r : WRec) (h1 : MemOk s) :
    MemOk (performRec d p kind s r) := by
  unfold performRec
  try dsimp only
  repeat' with_reducible
    first
    | assumption | (intro _) | apply State.modGrp_memOk | apply performSector_memOk | apply memOk_ite
    | apply memOk_foldl

theorem storeDone_memOk (g op : Nat) (s : State) (h1 : MemOk s) :
    MemOk (storeDone g op s) := by
  unfold storeDone
  try dsimp only
  repeat' with_reducible first | assumption | (intro _) | apply State.modGrp_memOk

theorem drainLine_memOk (core : Nat) (s : State) (w : WLine) (h1 : MemOk s) :
    MemOk (drainLine core s w) := by
  unfold drainLine
  try dsimp only
  repeat' with_reducible
    first
    | assumption | (intro _) | apply State.modCore_memOk | apply performRec_memOk | apply storeDone_memOk
    | apply memOk_mem | apply memOk_ite | apply memOk_foldl

theorem mirrorApply_memOk (s : State) (u : MirrorUp) (h1 : MemOk s) :
    MemOk (mirrorApply s u) := by
  unfold mirrorApply
  try dsimp only
  repeat' with_reducible
    first
    | assumption | (intro _) | apply putSector_memOk | apply storeDone_memOk | apply memOk_mem | apply memOk_ite
    | apply memOk_foldl | apply memOk_foldl1 | apply memOk_foldl2 | apply memFold_wf | simp only [↓memOk_mk]

theorem mirrorFlush_memOk (k : Nat) (s : State) (h1 : MemOk s) :
    MemOk (mirrorFlush k s) := by
  unfold mirrorFlush
  try dsimp only
  repeat' with_reducible first | assumption | (intro _) | apply mirrorApply_memOk | apply memOk_foldl

theorem drainCore_memOk (core : Nat) (s : State) (h1 : MemOk s) :
    MemOk (drainCore core s) := by
  unfold drainCore
  try dsimp only
  repeat' with_reducible first | assumption | (intro _) | apply drainLine_memOk | apply memOk_foldl

theorem drainLines_memOk (core : Nat) (lines : List Nat) (s : State) (h1 : MemOk s) :
    MemOk (drainLines core lines s) := by
  unfold drainLines
  try dsimp only
  repeat' with_reducible first | assumption | (intro _) | apply drainLine_memOk | apply memOk_foldl

theorem dropFails_memOk (g op vline : Nat) (bad : List (Nat × Nat)) (cells : KV Byte) (s : State) (h1 : MemOk s) :
    MemOk (dropFails g op vline bad cells s).1 := by
  unfold dropFails
  try dsimp only
  repeat' with_reducible first | assumption | (intro _) | apply State.modGrp_memOk | apply memOk_foldl

theorem enterStores_memOk (g op : Nat) (ls : KV (Nat × Nat × Nat × KV Byte)) (s : State) (h1 : MemOk s) :
    MemOk (enterStores g op ls s) := by
  unfold enterStores
  try dsimp only
  repeat' with_reducible
    first
    | assumption | (intro _) | apply State.modCore_memOk | apply State.modGrp_memOk | apply State.fresh_memOk
    | apply dropFails_memOk | apply memOk_mem | apply memOk_ite | apply memOk_foldl | apply memOk_foldl1
    | apply memOk_foldl2 | apply memFold_wf | simp only [↓memOk_mk] | split

theorem landEditions_memOk (here : Nat → Bool) (s : State) (h1 : MemOk s) :
    MemOk (landEditions here s) := by
  unfold landEditions
  try dsimp only
  repeat' with_reducible first | assumption | (intro _) | apply landLoad_memOk | apply memOk_ite | apply memOk_foldl

theorem bumpDev_memOk (core : Nat) (s : State) (h1 : MemOk s) :
    MemOk (bumpDev core s) := by
  unfold bumpDev
  try dsimp only
  repeat' with_reducible
    first
    | assumption | (intro _) | apply State.modCore_memOk | apply State.perf_memOk | apply landEditions_memOk

theorem bumpPart_memOk (d p : Nat) (host : Bool) (s : State) (h1 : MemOk s) :
    MemOk (bumpPart d p host s) := by
  unfold bumpPart
  try dsimp only
  repeat' with_reducible first | assumption | apply State.modPart_memOk | apply landEditions_memOk

theorem bumpL2_memOk (core : Nat) (host : Bool) (s : State) (h1 : MemOk s) :
    MemOk (bumpL2 core host s) := by
  unfold bumpL2
  try dsimp only
  repeat' with_reducible first | assumption | apply State.perf_memOk | apply bumpPart_memOk

theorem acquire_memOk (core scope : Nat) (s : State) (h1 : MemOk s) :
    MemOk (acquire core scope s) := by
  unfold acquire
  try dsimp only
  repeat' with_reducible first | assumption | apply bumpDev_memOk | apply bumpL2_memOk | apply memOk_ite

theorem memBody_memOk (i : Instr) (q : MemReq) (dest : BitVec 16) (ready : List (LaneAcc × LaneR) → State → Bool)
    (send : Nat → List (LaneAcc × LaneR) → State → State) (s : State) (h1 : ∀ (x0 : Nat) (x1 : List (LaneAcc ×
    LaneR)) (x2 : State), MemOk x2 → MemOk (send x0 x1 x2)) (h2 : MemOk s) :
    MemOk (memBody i q dest ready send s) := by
  unfold memBody
  try dsimp only
  repeat' with_reducible
    first
    | assumption | (intro _) | apply h1 | apply State.modG_memOk | apply stall_memOk | apply parkReport_memOk
    | apply memOk_mem | apply memOk_ite | simp only [↓memOk_mk] | split

theorem memIssue_memOk (i : Instr) (m : Dword) (req : State → MemReq) (body : MemReq → State → State) (s : State)
    (h1 : ∀ (x0 : MemReq) (x1 : State), MemOk x1 → MemOk (body x0 x1)) (h2 : MemOk s) :
    OutOk (memIssue i m req body s) := by
  unfold memIssue
  try dsimp only
  repeat' with_reducible
    first
    | assumption | (intro _) | apply h1 | apply issue_memOk | apply memOk_mem | apply outOk_next
    | simp only [↓memOk_mk] | split

theorem readHomes_memOk (d p : Nat) (ps : List Piece) (s : State) (h1 : MemOk s) :
    MemOk (readHomes d p ps s) := by
  unfold readHomes
  try dsimp only
  repeat' with_reducible first | assumption | (intro _) | apply cohRead_memOk | apply memOk_foldl

theorem openLoad_memOk (i : Instr) (op cbk : Nat) (words : List LateWord) (fills : List Fill) (om : List (Nat × Byte
    × Nat)) (pass : List (LaneAcc × LaneR)) (s : State) (h1 : MemOk s) :
    MemOk (openLoad i op cbk words fills om pass s) := by
  unfold openLoad
  try dsimp only
  repeat' with_reducible
    first
    | assumption | (intro _) | apply State.fresh_memOk | apply State.modG_memOk | apply finishLate_memOk
    | apply finish_memOk | apply memOk_mem | apply memOk_ite

theorem loadSend_memOk (i : Instr) (q : MemReq) (t reg cbk op : Nat) (pass : List (LaneAcc × LaneR)) (s : State) (h1
    : MemOk s) :
    MemOk (loadSend i q t reg cbk op pass s) := by
  unfold loadSend
  try dsimp only
  repeat' with_reducible
    first
    | assumption | (intro _) | apply State.perf_memOk | apply State.modG_memOk | apply finish_memOk
    | apply openLoad_memOk | apply memOk_ite

theorem madeLoad_memOk (g n t reg : Nat) (vals : List (LaneAcc × List (Byte × Nat))) (s : State) (h1 : MemOk s) :
    MemOk (madeLoad g n t reg vals s) := by
  unfold madeLoad
  try dsimp only
  repeat' with_reducible first | assumption | (intro _) | apply State.modGrp_memOk

theorem loadMake_memOk (g t reg : Nat) (h : Held) (s : State) (h1 : MemOk s) :
    MemOk (loadMake g t reg h s) := by
  unfold loadMake
  try dsimp only
  repeat' with_reducible first | assumption | (intro _) | apply readHomes_memOk | apply madeLoad_memOk

theorem dieStore_memOk (g op n : Nat) (pass : List (LaneAcc × LaneR)) (s : State) (h1 : MemOk s) :
    MemOk (dieStore g op n pass s).1 := by
  unfold dieStore
  try dsimp only
  repeat' with_reducible
    first
    | assumption | (intro _) | apply State.modGrp_memOk | apply putSector_memOk | apply memOk_ite | apply memOk_ite1
    | apply memOk_foldl | apply memOk_foldl1

theorem openStore_memOk (i : Instr) (op : Nat) (pass : List (LaneAcc × LaneR)) (s : State) (h1 : MemOk s) :
    MemOk (openStore i op pass s) := by
  unfold openStore
  try dsimp only
  repeat' with_reducible
    first
    | assumption | (intro _) | apply State.fresh_memOk | apply State.modG_memOk | apply finish_memOk

theorem storeSend_memOk (i : Instr) (q : MemReq) (cbk op : Nat) (pass : List (LaneAcc × LaneR)) (s : State) (h1 :
    MemOk s) :
    MemOk (storeSend i q cbk op pass s) := by
  unfold storeSend
  try dsimp only
  repeat' with_reducible
    first
    | assumption | (intro _) | apply State.modG_memOk | apply finish_memOk | apply openStore_memOk | apply memOk_mem
    | apply memOk_ite

theorem storeMake_memOk (g n cbk : Nat) (h : Held) (s : State) (h1 : MemOk s) :
    MemOk (storeMake g n cbk h s) := by
  unfold storeMake
  try dsimp only
  repeat' with_reducible
    first
    | assumption | (intro _) | apply State.modGrp_memOk | apply enterStores_memOk | apply dieStore_memOk
    | apply memOk_mem | apply memOk_ite

theorem cbStart_memOk (k : Nat) (rs : Bool) (acc : List LaneAcc) (s : State) (h1 : MemOk s) :
    MemOk (cbStart k rs acc s).2 := by
  unfold cbStart
  try dsimp only
  repeat' with_reducible
    first
    | assumption | (intro _) | apply State.modG_memOk | apply memOk_mem | apply memOk_ite | apply memOk_ite2

theorem cbBody_memOk (k : Nat) (rs : Bool) (body : MemReq → State → State) (q : MemReq) (s : State) (h1 : ∀ (x0 :
    MemReq) (x1 : State), MemOk x1 → MemOk (body x0 x1)) (h2 : MemOk s) :
    MemOk (cbBody k rs body q s) := by
  unfold cbBody
  try dsimp only
  repeat' with_reducible first | assumption | apply h1 | apply cbStart_memOk | apply memOk_mem | apply memOk_ite

theorem atomKeys_memOk (s : State) (ks mirror : List Nat) (g : Nat → Option Nat) (h1 : MemOk s) :
    MemOk (atomKeys s ks mirror g).1 := by
  unfold atomKeys
  try dsimp only
  repeat' with_reducible
    first
    | assumption | (intro _) | apply memOk_mem | apply memOk_ite | apply memOk_ite1 | apply memOk_foldl
    | apply memOk_foldl1 | apply memOk_foldl2 | apply memFold_wf | apply memSet_wf | simp only [↓memOk_mk] | split

theorem atomAt_memOk (s : State) (d p kind pa n : Nat) (g : Nat → Option Nat) (h1 : MemOk s) :
    MemOk (atomAt s d p kind pa n g).1 := by
  unfold atomAt
  try dsimp only
  repeat' with_reducible
    first
    | assumption | apply cohWrite_memOk | apply wroteAt_memOk | apply mirrorFlush_memOk | apply atomKeys_memOk
    | apply memOk_ite | apply memOk_ite1 | split

theorem atomStale_memOk (core d p pa : Nat) (s : State) (h1 : MemOk s) :
    MemOk (atomStale core d p pa s) := by
  unfold atomStale
  try dsimp only
  repeat' with_reducible
    first
    | assumption | (intro _) | apply State.modPart_memOk | apply State.modCore_memOk | apply memOk_mem
    | apply memOk_ite

theorem atomLane_memOk (core d p n : Nat) (g : LaneAcc → Nat → Option Nat) (s : State) (x : LaneAcc × LaneR) (h1 :
    MemOk s) :
    MemOk (atomLane core d p n g s x).1 := by
  unfold atomLane
  try dsimp only
  repeat' with_reducible
    first
    | assumption | apply atomKeys_memOk | apply atomAt_memOk | apply atomStale_memOk | apply memOk_mem | split

theorem atomMake_memOk (g n t reg : Nat) (load : Bool) (f : LaneAcc → Nat → Option Nat) (h : Held) (s : State) (h1 :
    MemOk s) :
    MemOk (atomMake g n t reg load f h s) := by
  unfold atomMake
  try dsimp only
  repeat' with_reducible
    first
    | assumption | (intro _) | apply State.modGrp_memOk | apply drainLines_memOk | apply madeLoad_memOk
    | apply atomLane_memOk | apply memOk_ite | apply memOk_foldl | apply memOk_foldl1

theorem performAt_memOk (core scope : Nat) (s : State) (h1 : MemOk s) :
    MemOk (performAt core scope s) := by
  unfold performAt
  try dsimp only
  repeat' with_reducible
    first
    | assumption | (intro _) | apply mirrorApply_memOk | apply drainCore_memOk | apply memOk_ite | apply memOk_foldl

theorem fenceAt_memOk (core kind scope : Nat) (s : State) (h1 : MemOk s) :
    MemOk (fenceAt core kind scope s) := by
  unfold fenceAt
  try dsimp only
  repeat' with_reducible first | assumption | apply acquire_memOk | apply performAt_memOk | apply memOk_ite

theorem flushHome_memOk (mem : Bool) (d p line : Nat) (s : State) (h1 : MemOk s) :
    MemOk (flushHome mem d p line s) := by
  unfold flushHome
  try dsimp only
  repeat' with_reducible first | assumption | (intro _) | apply State.modPart_memOk

theorem flushLine_memOk (core d p lv : Nat) (s : State) (q : Piece) (h1 : MemOk s) :
    MemOk (flushLine core d p lv s q) := by
  unfold flushLine
  try dsimp only
  repeat' with_reducible
    first
    | assumption | (intro _) | apply State.modPart_memOk | apply State.modCore_memOk | apply cohLeave_memOk
    | apply drainLines_memOk | apply flushHome_memOk | apply memOk_mem | apply memOk_ite | simp only [↓memOk_mk]
    | split

theorem flushMake_memOk (g lv : Nat) (h : Held) (s : State) (h1 : MemOk s) :
    MemOk (flushMake g lv h s) := by
  unfold flushMake
  try dsimp only
  repeat' with_reducible
    first
    | assumption | (intro _) | apply State.modGrp_memOk | apply flushLine_memOk | apply memOk_foldl

theorem flushSend_memOk (i : Instr) (op : Nat) (pass : List (LaneAcc × LaneR)) (s : State) (h1 : MemOk s) :
    MemOk (flushSend i op pass s) := by
  unfold flushSend
  try dsimp only
  repeat' with_reducible
    first
    | assumption | apply State.modG_memOk | apply finish_memOk | apply openStore_memOk | apply memOk_ite

theorem heldMake_memOk (g : Nat) (h : Held) (s : State) (h1 : MemOk s) :
    MemOk (heldMake g h s) := by
  unfold heldMake
  try dsimp only
  repeat' with_reducible
    first
    | assumption | (intro _) | apply acquire_memOk | apply loadMake_memOk | apply storeMake_memOk
    | apply atomMake_memOk | apply performAt_memOk | apply fenceAt_memOk | apply flushMake_memOk | apply memOk_mem
    | apply memOk_ite | split

theorem settleHeld_memOk (g : Nat) : ∀ (n : Nat) (s : State), MemOk s → MemOk (settleHeld g n s)
  | 0, _, h => h
  | n + 1, s, h => by
    unfold settleHeld
    split
    · exact h
    · exact memOk_ite (settleHeld_memOk g n _ (heldMake_memOk g _ _ h)) h

theorem settleGroup_memOk (g : Nat) (s : State) (h1 : MemOk s) :
    MemOk (settleGroup g s) := by
  unfold settleGroup
  try dsimp only
  repeat' with_reducible first | assumption | apply settleHeld_memOk

theorem memRun_memOk (i : Instr) (m : Dword) (req : State → MemReq) (dest : BitVec 16) (ready : List (LaneAcc ×
    LaneR) → State → Bool) (send : MemReq → Nat → List (LaneAcc × LaneR) → State → State) (s : State) (h1 : ∀ (x0 :
    MemReq) (x1 : Nat) (x2 : List (LaneAcc × LaneR)) (x3 : State), MemOk x3 → MemOk (send x0 x1 x2 x3)) (h2 : MemOk
    s) :
    OutOk (memRun i m req dest ready send s) := by
  unfold memRun
  try dsimp only
  repeat' with_reducible
    first
    | assumption | (intro _) | apply h1 | apply memBody_memOk | apply memIssue_memOk | apply settleGroup_memOk

theorem loadM_memOk (i : Instr) (e : Pfx) (f : MForm) (sp : Nat) (s : State) (h1 : MemOk s) :
    OutOk (loadM i e f sp s) := by
  unfold loadM
  try dsimp only
  repeat' with_reducible first | assumption | (intro _) | apply loadSend_memOk | apply memRun_memOk

theorem execLdG_memOk (e : Pfx) (f : MForm) (s : State) (h1 : MemOk s) :
    OutOk (execLdG e f s) := by
  unfold execLdG
  try dsimp only
  repeat' with_reducible first | assumption | apply loadM_memOk

theorem execLdSp_memOk (e : Pfx) (f : MForm) (s : State) (h1 : MemOk s) :
    OutOk (execLdSp e f s) := by
  unfold execLdSp
  try dsimp only
  repeat' with_reducible first | assumption | apply loadM_memOk

theorem execLdCl_memOk (e : Pfx) (f : MForm) (s : State) (h1 : MemOk s) :
    OutOk (execLdCl e f s) := by
  unfold execLdCl
  try dsimp only
  repeat' with_reducible first | assumption | apply loadM_memOk

theorem execLdCh_memOk (e : Pfx) (f : MForm) (s : State) (h1 : MemOk s) :
    OutOk (execLdCh e f s) := by
  unfold execLdCh
  try dsimp only
  repeat' with_reducible first | assumption | apply loadM_memOk

theorem execLdLn_memOk (e : Pfx) (f : MForm) (s : State) (h1 : MemOk s) :
    OutOk (execLdLn e f s) := by
  unfold execLdLn
  try dsimp only
  repeat' with_reducible first | assumption | apply loadM_memOk

theorem storeM_memOk (i : Instr) (e : Pfx) (f : MForm) (sp : Nat) (s : State) (h1 : MemOk s) :
    OutOk (storeM i e f sp s) := by
  unfold storeM
  try dsimp only
  repeat' with_reducible first | assumption | (intro _) | apply storeSend_memOk | apply memRun_memOk

theorem execStG_memOk (e : Pfx) (f : MForm) (s : State) (h1 : MemOk s) :
    OutOk (execStG e f s) := by
  unfold execStG
  try dsimp only
  repeat' with_reducible first | assumption | apply storeM_memOk

theorem execStSp_memOk (e : Pfx) (f : MForm) (s : State) (h1 : MemOk s) :
    OutOk (execStSp e f s) := by
  unfold execStSp
  try dsimp only
  repeat' with_reducible first | assumption | apply storeM_memOk

theorem execStCl_memOk (e : Pfx) (f : MForm) (s : State) (h1 : MemOk s) :
    OutOk (execStCl e f s) := by
  unfold execStCl
  try dsimp only
  repeat' with_reducible first | assumption | apply storeM_memOk

theorem execStCh_memOk (e : Pfx) (f : MForm) (s : State) (h1 : MemOk s) :
    OutOk (execStCh e f s) := by
  unfold execStCh
  try dsimp only
  repeat' with_reducible first | assumption | apply storeM_memOk

theorem execStLn_memOk (e : Pfx) (f : MForm) (s : State) (h1 : MemOk s) :
    OutOk (execStLn e f s) := by
  unfold execStLn
  try dsimp only
  repeat' with_reducible first | assumption | apply storeM_memOk

theorem execGather_memOk (e : Pfx) (f : AForm) (s : State) (h1 : MemOk s) :
    OutOk (execGather e f s) := by
  unfold execGather
  try dsimp only
  repeat' with_reducible
    first
    | assumption | (intro _) | apply memBody_memOk | apply memIssue_memOk | apply loadSend_memOk
    | apply cbBody_memOk | apply settleGroup_memOk

theorem execScatter_memOk (e : Pfx) (f : AForm) (s : State) (h1 : MemOk s) :
    OutOk (execScatter e f s) := by
  unfold execScatter
  try dsimp only
  repeat' with_reducible
    first
    | assumption | (intro _) | apply memBody_memOk | apply memIssue_memOk | apply storeSend_memOk
    | apply cbBody_memOk | apply settleGroup_memOk

theorem execAtom_memOk (e : Pfx) (f : AForm) (s : State) (h1 : MemOk s) :
    OutOk (execAtom e f s) := by
  unfold execAtom
  try dsimp only
  repeat' with_reducible first | assumption | (intro _) | apply storeSend_memOk | apply memRun_memOk

theorem execAtomr_memOk (e : Pfx) (f : AForm) (s : State) (h1 : MemOk s) :
    OutOk (execAtomr e f s) := by
  unfold execAtomr
  try dsimp only
  repeat' with_reducible first | assumption | (intro _) | apply loadSend_memOk | apply memRun_memOk

theorem execCas_memOk (e : Pfx) (sp : BitVec 3) (g : BitVec 6) (d : BitVec 7) (p : BitVec 2) (s : State) (h1 : MemOk
    s) :
    OutOk (execCas e sp g d p s) := by
  unfold execCas
  try dsimp only
  repeat' with_reducible first | assumption | (intro _) | apply loadSend_memOk | apply memRun_memOk

theorem execLda_memOk (e : Pfx) (f : AqForm) (s : State) (h1 : MemOk s) :
    OutOk (execLda e f s) := by
  unfold execLda
  try dsimp only
  repeat' with_reducible first | assumption | (intro _) | apply loadSend_memOk | apply memRun_memOk

theorem execStrel_memOk (e : Pfx) (f : AqForm) (s : State) (h1 : MemOk s) :
    OutOk (execStrel e f s) := by
  unfold execStrel
  try dsimp only
  repeat' with_reducible first | assumption | (intro _) | apply storeSend_memOk | apply memRun_memOk

theorem execFence_memOk (e : Pfx) (b a : BitVec 7) (s : State) (h1 : MemOk s) :
    OutOk (execFence e b a s) := by
  unfold execFence
  try dsimp only
  repeat' with_reducible
    first
    | assumption | (intro _) | apply State.fresh_memOk | apply State.modG_memOk | apply finish_memOk
    | apply settleGroup_memOk | apply memOk_mem | apply outOk_next

theorem execAcqPromote_memOk (e : Pfx) (a : BitVec 7) (s : State) (h1 : MemOk s) :
    OutOk (execAcqPromote e a s) := by
  unfold execAcqPromote
  try dsimp only
  repeat' with_reducible
    first
    | assumption | (intro _) | apply trapNow_memOk | apply stall_memOk | apply finish_memOk | apply drainCore_memOk
    | apply bumpDev_memOk | apply fenceAt_memOk | apply settleGroup_memOk | apply memOk_ite | apply outOk_ite
    | apply outOk_next

theorem execPref_memOk (e : Pfx) (x : BitVec 1) (o : BitVec 7) (a : BitVec 6) (lv : BitVec 1) (p : BitVec 2) (s :
    State) (h1 : MemOk s) :
    OutOk (execPref e x o a lv p s) := by
  unfold execPref
  try dsimp only
  repeat' with_reducible
    first
    | assumption | (intro _) | apply fillLine_memOk | apply landFor_memOk | apply finish_memOk
    | apply readHomes_memOk | apply memOk_mem | apply memOk_ite | apply outOk_ite | apply outOk_next
    | apply memOk_foldl | apply memOk_foldl1 | apply memOk_foldl2 | apply memFold_wf | simp only [↓memOk_mk]

theorem execCflush_memOk (e : Pfx) (x : BitVec 1) (o : BitVec 7) (a : BitVec 6) (lv p : BitVec 2) (s : State) (h1 :
    MemOk s) :
    OutOk (execCflush e x o a lv p s) := by
  unfold execCflush
  try dsimp only
  repeat' with_reducible first | assumption | (intro _) | apply flushSend_memOk | apply memRun_memOk

theorem State.modCC_memOk (s : State) (f : Cont → Cont) (h1 : MemOk s) :
    MemOk (State.modCC s f) := by
  unfold State.modCC
  try dsimp only
  repeat' with_reducible first | assumption | apply State.modCont_memOk

theorem execTcfg_memOk (e : Pfx) (a : BitVec 7) (s : State) (h1 : MemOk s) :
    OutOk (execTcfg e a s) := by
  unfold execTcfg
  try dsimp only
  repeat' with_reducible
    first
    | assumption | (intro _) | apply trapNow_memOk | apply finish_memOk | apply State.modCC_memOk | apply memOk_mem
    | apply memOk_ite | apply outOk_ite | apply outOk_next

theorem claimSlots_memOk (got : Nat) (s : State) (h1 : MemOk s) :
    MemOk (claimSlots got s) := by
  unfold claimSlots
  try dsimp only
  repeat' with_reducible
    first
    | assumption | (intro _) | apply zeroSlot_memOk | apply State.modCC_memOk | apply memOk_mem | apply memOk_foldl

theorem execTclaim_memOk (e : Pfx) (a d : BitVec 7) (s : State) (h1 : MemOk s) :
    OutOk (execTclaim e a d s) := by
  unfold execTclaim
  try dsimp only
  repeat' with_reducible
    first
    | assumption | apply finish_memOk | apply claimSlots_memOk | apply memOk_ite | apply outOk_ite
    | apply outOk_next

theorem execTclaimAny_memOk (e : Pfx) (n d : BitVec 7) (s : State) (h1 : MemOk s) :
    OutOk (execTclaimAny e n d s) := by
  unfold execTclaimAny
  try dsimp only
  repeat' with_reducible
    first
    | assumption | (intro _) | apply finish_memOk | apply claimSlots_memOk | apply memOk_ite | apply outOk_ite
    | apply outOk_next

theorem execTrel_memOk (e : Pfx) (a : BitVec 7) (s : State) (h1 : MemOk s) :
    OutOk (execTrel e a s) := by
  unfold execTrel
  try dsimp only
  repeat' with_reducible
    first
    | assumption | (intro _) | apply trapNow_memOk | apply landFills_memOk | apply finish_memOk
    | apply State.modCC_memOk | apply memOk_mem | apply memOk_ite | apply outOk_ite | apply outOk_next
    | apply memOk_foldl

theorem execTstatr_memOk (e : Pfx) (sl d : BitVec 7) (s : State) (h1 : MemOk s) :
    OutOk (execTstatr e sl d s) := by
  unfold execTstatr
  try dsimp only
  repeat' with_reducible first | assumption | (intro _) | apply issueS_memOk

theorem fillSend_memOk (i : Instr) (q : MemReq) (off op : Nat) (pass : List (LaneAcc × LaneR)) (s : State) (h1 :
    MemOk s) :
    MemOk (fillSend i q off op pass s) := by
  unfold fillSend
  try dsimp only
  repeat' with_reducible
    first
    | assumption | (intro _) | apply State.perf_memOk | apply State.modG_memOk | apply finish_memOk
    | apply openLoad_memOk | apply memOk_ite

theorem landRows_memOk (n : Nat) (offs : List Nat) (s : State) (h1 : MemOk s) :
    MemOk (landRows n offs s) := by
  unfold landRows
  try dsimp only
  repeat' with_reducible first | assumption | (intro _) | apply landFills_memOk | apply memOk_foldl

theorem execTfill_memOk (e : Pfx) (x : BitVec 1) (o : BitVec 7) (a d : BitVec 6) (p : BitVec 2) (s : State) (h1 :
    MemOk s) :
    OutOk (execTfill e x o a d p s) := by
  unfold execTfill
  try dsimp only
  repeat' with_reducible
    first
    | assumption | (intro _) | apply trapNow_memOk | apply memBody_memOk | apply memIssue_memOk
    | apply settleGroup_memOk | apply fillSend_memOk | apply landRows_memOk | apply memOk_mem | apply memOk_ite
    | apply outOk_ite | split

theorem putOperand_memOk (cid : Nat) (cells : List (Nat × Byte)) (s : State) (h1 : MemOk s) :
    MemOk (putOperand cid cells s) := by
  unfold putOperand
  try dsimp only
  repeat' with_reducible
    first
    | assumption | (intro _) | apply memOk_mem | apply memOk_foldl | apply memOk_foldl1 | apply memOk_foldl2
    | apply memFold_wf | apply memSet_wf | simp only [↓memOk_mk]

theorem execTrow_memOk (e : Pfx) (f : NForm) (s : State) (h1 : MemOk s) :
    OutOk (execTrow e f s) := by
  unfold execTrow
  try dsimp only
  repeat' with_reducible
    first
    | assumption | (intro _) | apply trapNow_memOk | apply finish_memOk | apply issue_memOk | apply landRows_memOk
    | apply putOperand_memOk | apply memOk_mem | apply memOk_ite | apply outOk_ite | split

theorem atBlock_memOk (g b : Nat) (s : State) (h1 : MemOk s) :
    MemOk (atBlock g b s) := by
  unfold atBlock
  try dsimp only
  repeat' with_reducible first | assumption | apply memOk_mem | simp only [↓memOk_mk] | split

theorem runBlock_memOk (g b : Nat) (f : State → State) (s : State) (h1 : ∀ (x0 : State), MemOk x0 → MemOk (f x0))
    (h2 : MemOk s) :
    MemOk (runBlock g b f s) := by
  unfold runBlock
  try dsimp only
  repeat' with_reducible
    first
    | assumption | apply h1 | apply atBlock_memOk | apply memOk_mem | simp only [↓memOk_mk] | split

theorem endBlock_memOk (g b : Nat) (s : State) (h1 : MemOk s) :
    MemOk (endBlock g b s) := by
  unfold endBlock
  try dsimp only
  repeat' with_reducible first | assumption | apply finish_memOk | apply runBlock_memOk | apply memOk_mem | split

theorem wakeGroup_memOk (g : Nat) (s : State) (h1 : MemOk s) :
    MemOk (wakeGroup g s) := by
  unfold wakeGroup
  try dsimp only
  repeat' with_reducible
    first
    | assumption | (intro _) | apply State.modGrp_memOk | apply endBlock_memOk | apply memOk_mem | apply memOk_ite
    | apply memOk_foldl

theorem wakeTeam_memOk (t : Nat) (s : State) (h1 : MemOk s) :
    MemOk (wakeTeam t s) := by
  unfold wakeTeam
  try dsimp only
  repeat' with_reducible first | assumption | (intro _) | apply wakeGroup_memOk | apply memOk_foldl

theorem pushResult_memOk (g k rsv : Nat) (es : List QEntry) (s : State) (h1 : MemOk s) :
    MemOk (pushResult g k rsv es s) := by
  unfold pushResult
  try dsimp only
  repeat' with_reducible
    first
    | assumption | (intro _) | apply State.modGrp_memOk | apply wakeGroup_memOk | apply memOk_mem | apply memOk_ite

theorem endBarwait_memOk (g b : Nat) (s : State) (h1 : MemOk s) :
    MemOk (endBarwait g b s) := by
  unfold endBarwait
  try dsimp only
  repeat' with_reducible first | assumption | apply acquire_memOk | apply endBlock_memOk

theorem barUpdate_memOk (t k : Nat) (f : Bar → Bar) (s : State) (h1 : MemOk s) :
    MemOk (barUpdate t k f s) := by
  unfold barUpdate
  try dsimp only
  repeat' with_reducible
    first
    | assumption | (intro _) | apply State.modTeam_memOk | apply wakeTeam_memOk | apply endBarwait_memOk
    | apply memOk_mem | apply memOk_ite | apply memOk_foldl

theorem creditBar_memOk (t k n : Nat) (s : State) (h1 : MemOk s) :
    MemOk (creditBar t k n s) := by
  unfold creditBar
  try dsimp only
  repeat' with_reducible
    first
    | assumption | apply State.perfIn_memOk | apply barUpdate_memOk | apply memOk_mem | apply memOk_ite | split

theorem putQ_memOk (g k : Nat) (es : List QEntry) (s : State) (h1 : MemOk s) :
    MemOk (putQ g k es s) := by
  unfold putQ
  try dsimp only
  repeat' with_reducible
    first
    | assumption | (intro _) | apply State.modGrp_memOk | apply State.modTeam_memOk | apply memOk_mem
    | simp only [↓memOk_mk] | split

theorem appendOne_memOk (ws : KV Dword) (g k : Nat) (x : Nat × Dword) (s : State) (h1 : MemOk s) :
    MemOk (appendOne ws g k x s) := by
  unfold appendOne
  try dsimp only
  repeat' with_reducible
    first
    | assumption | (intro _) | apply State.modGrp_memOk | apply State.modCont_memOk | apply State.fresh_memOk
    | apply putQ_memOk | apply memOk_mem | simp only [↓memOk_mk] | split

theorem appendRun_memOk (ws : KV Dword) (g k op : Nat) (run : List Dword) (s : State) (h1 : MemOk s) :
    MemOk (appendRun ws g k op run s) := by
  unfold appendRun
  try dsimp only
  repeat' with_reducible
    first
    | assumption | (intro _) | apply wakeTeam_memOk | apply appendOne_memOk | apply memOk_ite | apply memOk_foldl

theorem pushEnter_memOk (g k n ent : Nat) (s : State) (h1 : MemOk s) :
    MemOk (pushEnter g k n ent s).2 := by
  unfold pushEnter
  try dsimp only
  repeat' with_reducible
    first
    | assumption | (intro _) | apply State.modGrp_memOk | apply memOk_mem | apply memOk_ite | apply memOk_ite2
    | split

theorem pushBody_memOk (i : Instr) (k ent : Nat) (run : List Dword) (s : State) (h1 : MemOk s) :
    MemOk (pushBody i k ent run s) := by
  unfold pushBody
  try dsimp only
  repeat' with_reducible
    first
    | assumption | (intro _) | apply State.modG_memOk | apply stall_memOk | apply finish_memOk
    | apply appendRun_memOk | apply pushEnter_memOk | apply memOk_mem | apply memOk_ite | simp only [↓memOk_mk]
    | split

theorem execQpush_memOk (e : Pfx) (f : NForm) (s : State) (h1 : MemOk s) :
    OutOk (execQpush e f s) := by
  unfold execQpush
  try dsimp only
  repeat' with_reducible
    first
    | assumption | (intro _) | apply trapNow_memOk | apply issue_memOk | apply pushBody_memOk | apply memOk_mem
    | apply memOk_ite | apply outOk_ite | apply outOk_next | split

theorem takeRun_memOk (i : Instr) (f : NForm) (k : Nat) (ls : List Nat) (m : Nat) (cc : Option (BitVec 4)) (s :
    State) (h1 : MemOk s) :
    MemOk (takeRun i f k ls m cc s) := by
  unfold takeRun
  try dsimp only
  repeat' with_reducible
    first
    | assumption | (intro _) | apply State.modG_memOk | apply trapNext_memOk | apply finish_memOk | apply putQ_memOk
    | apply memOk_mem | apply memOk_ite | apply memOk_foldl | apply memOk_foldl1 | apply memOk_foldl2
    | apply memFold_wf | simp only [↓memOk_mk] | split

theorem execQpop_memOk (e : Pfx) (f : NForm) (s : State) (h1 : MemOk s) :
    OutOk (execQpop e f s) := by
  unfold execQpop
  try dsimp only
  repeat' with_reducible
    first
    | assumption | apply trapNow_memOk | apply stall_memOk | apply takeRun_memOk | apply memOk_mem | apply memOk_ite
    | apply outOk_ite | apply outOk_next

theorem execQtry_memOk (e : Pfx) (f : NForm) (s : State) (h1 : MemOk s) :
    OutOk (execQtry e f s) := by
  unfold execQtry
  try dsimp only
  repeat' with_reducible first | assumption | apply takeRun_memOk | apply outOk_next

theorem execQstat_memOk (e : Pfx) (b d : BitVec 7) (s : State) (h1 : MemOk s) :
    OutOk (execQstat e b d s) := by
  unfold execQstat
  try dsimp only
  repeat' with_reducible first | assumption | (intro _) | apply issueS_memOk

theorem againQueue_memOk (i : Instr) (s : State) (h : MemOk s) : MemOk (againQueue i s) := by
  unfold againQueue
  split
  · next e f => exact nextOr_memOk (execQpush_memOk e f s h) h
  · next e f => exact nextOr_memOk (execQpop_memOk e f s h) h
  · exact h

theorem execQueueRoomFreed_memOk (g b : Nat) (s : State) (h1 : MemOk s) :
    OutOk (execQueueRoomFreed g b s) := by
  unfold execQueueRoomFreed
  try dsimp only
  repeat' with_reducible first | assumption | apply guardEv_memOk | apply runBlock_memOk | apply againQueue_memOk

theorem execQueueEntriesArrive_memOk (g b : Nat) (s : State) (h1 : MemOk s) :
    OutOk (execQueueEntriesArrive g b s) := by
  unfold execQueueEntriesArrive
  try dsimp only
  repeat' with_reducible first | assumption | apply guardEv_memOk | apply runBlock_memOk | apply againQueue_memOk

theorem waitDone_memOk (i : Instr) (iss : List Nat) (thr : List (Nat × Nat)) (s : State) (h1 : MemOk s) :
    MemOk (waitDone i iss thr s) := by
  unfold waitDone
  try dsimp only
  repeat' with_reducible
    first
    | assumption | (intro _) | apply State.modG_memOk | apply takeTrap_memOk | apply finish_memOk
    | apply acquire_memOk | apply memOk_mem | apply memOk_ite | simp only [↓memOk_mk] | split

theorem execWait_memOk (e : Pfx) (t n sc l : BitVec 5) (s : State) (h1 : MemOk s) :
    OutOk (execWait e t n sc l s) := by
  unfold execWait
  try dsimp only
  repeat' with_reducible
    first
    | assumption | (intro _) | apply stall_memOk | apply waitDone_memOk | apply memOk_mem | apply memOk_ite
    | apply outOk_ite | apply outOk_next

theorem againWait_memOk (i : Instr) (s : State) (h : MemOk s) : MemOk (againWait i s) := by
  unfold againWait
  split
  · next e t n sc l => exact nextOr_memOk (execWait_memOk e t n sc l s h) h
  · exact h

theorem execWaitCompletion_memOk (g b : Nat) (s : State) (h1 : MemOk s) :
    OutOk (execWaitCompletion g b s) := by
  unfold execWaitCompletion
  try dsimp only
  repeat' with_reducible first | assumption | apply guardEv_memOk | apply runBlock_memOk | apply againWait_memOk

theorem barIssue_memOk (i : Instr) (k : Nat) (err : Bool) (body : State → State) (s : State) (h1 : ∀ (x0 : State),
    MemOk x0 → MemOk (body x0)) (h2 : MemOk s) :
    OutOk (barIssue i k err body s) := by
  unfold barIssue
  try dsimp only
  repeat' with_reducible
    first
    | assumption | apply h1 | apply trapNow_memOk | apply memOk_ite | apply outOk_ite | apply outOk_next

theorem barDo_memOk (i : Instr) (k : Nat) (f : Bar → Bar) (s : State) (h1 : MemOk s) :
    MemOk (barDo i k f s) := by
  unfold barDo
  try dsimp only
  repeat' with_reducible first | assumption | apply finish_memOk | apply barUpdate_memOk

theorem execBarinit_memOk (e : Pfx) (b a d : BitVec 7) (s : State) (h1 : MemOk s) :
    OutOk (execBarinit e b a d s) := by
  unfold execBarinit
  try dsimp only
  repeat' with_reducible first | assumption | (intro _) | apply barIssue_memOk | apply barDo_memOk

theorem execBararr_memOk (e : Pfx) (d : BitVec 7) (s : State) (h1 : MemOk s) :
    OutOk (execBararr e d s) := by
  unfold execBararr
  try dsimp only
  repeat' with_reducible first | assumption | apply barIssue_memOk | apply barDo_memOk

theorem execBararrN_memOk (e : Pfx) (a d : BitVec 7) (s : State) (h1 : MemOk s) :
    OutOk (execBararrN e a d s) := by
  unfold execBararrN
  try dsimp only
  repeat' with_reducible first | assumption | apply barIssue_memOk | apply barDo_memOk

theorem execBarexp_memOk (e : Pfx) (a d : BitVec 7) (s : State) (h1 : MemOk s) :
    OutOk (execBarexp e a d s) := by
  unfold execBarexp
  try dsimp only
  repeat' with_reducible first | assumption | (intro _) | apply barIssue_memOk | apply barDo_memOk

theorem execBarwait_memOk (e : Pfx) (a d : BitVec 7) (s : State) (h1 : MemOk s) :
    OutOk (execBarwait e a d s) := by
  unfold execBarwait
  try dsimp only
  repeat' with_reducible
    first
    | assumption | (intro _) | apply stall_memOk | apply finish_memOk | apply acquire_memOk | apply barIssue_memOk
    | apply memOk_ite

theorem execBartest_memOk (e : Pfx) (b a d : BitVec 7) (s : State) (h1 : MemOk s) :
    OutOk (execBartest e b a d s) := by
  unfold execBartest
  try dsimp only
  repeat' with_reducible
    first
    | assumption | (intro _) | apply finish_memOk | apply acquire_memOk | apply barIssue_memOk | apply memOk_ite

theorem endGbar_memOk (g b : Nat) (s : State) (h1 : MemOk s) :
    MemOk (endGbar g b s) := by
  unfold endGbar
  try dsimp only
  repeat' with_reducible first | assumption | apply acquire_memOk | apply endBlock_memOk

theorem gbarCheck_memOk (l : Nat) (s : State) (h1 : MemOk s) :
    MemOk (gbarCheck l s) := by
  unfold gbarCheck
  try dsimp only
  repeat' with_reducible
    first
    | assumption | (intro _) | apply State.modLaunch_memOk | apply endGbar_memOk | apply memOk_mem | apply memOk_ite
    | apply memOk_foldl

theorem gbarArrive_memOk (i : Instr) (s : State) (h1 : MemOk s) :
    MemOk (gbarArrive i s) := by
  unfold gbarArrive
  try dsimp only
  repeat' with_reducible
    first
    | assumption | (intro _) | apply State.modLaunch_memOk | apply State.modG_memOk | apply stall_memOk
    | apply drainCore_memOk | apply gbarCheck_memOk

theorem execGbar_memOk (e : Pfx) (s : State) (h1 : MemOk s) :
    OutOk (execGbar e s) := by
  unfold execGbar
  try dsimp only
  repeat' with_reducible
    first
    | assumption | apply trapNow_memOk | apply stall_memOk | apply endGbar_memOk | apply gbarArrive_memOk
    | apply memOk_mem | apply memOk_ite | apply outOk_ite | apply outOk_next | split

theorem execExit_memOk (e : Pfx) (s : State) (h1 : MemOk s) :
    OutOk (execExit e s) := by
  unfold execExit
  try dsimp only
  repeat' with_reducible
    first
    | assumption | (intro _) | apply State.modG_memOk | apply gbarCheck_memOk | apply outOk_next

theorem execSleep_memOk (e : Pfx) (a : BitVec 7) (s : State) (h1 : MemOk s) :
    OutOk (execSleep e a s) := by
  unfold execSleep
  try dsimp only
  repeat' with_reducible
    first
    | assumption | apply stall_memOk | apply finish_memOk | apply memOk_mem | apply memOk_ite | apply outOk_ite
    | apply outOk_next | split

theorem execSleepTimeout_memOk (g b : Nat) (s : State) (h1 : MemOk s) :
    OutOk (execSleepTimeout g b s) := by
  unfold execSleepTimeout
  try dsimp only
  repeat' with_reducible first | assumption | apply guardEv_memOk | apply endBlock_memOk

theorem engTouch_memOk (pt : Party) (r : EngR) (s : State) (h1 : MemOk s) :
    MemOk (engTouch pt r s) := by
  unfold engTouch
  try dsimp only
  repeat' with_reducible
    first
    | assumption | (intro _) | apply cohRead_memOk | apply needAt_memOk | apply memOk_mem | apply memOk_foldl
    | apply memOk_foldl1 | apply memOk_foldl2 | apply memFold_wf | split

theorem poisonCell_memOk (pt : Party) (c : ECell) (s : State) (h1 : MemOk s) :
    MemOk (poisonCell pt c s) := by
  unfold poisonCell
  try dsimp only
  repeat' with_reducible
    first
    | assumption | apply cohWrite_memOk | apply poisonSectors_memOk | apply wroteAt_memOk | apply memOk_ite

theorem engSector_memOk (pt : Party) (op : Nat × Nat) (s : State) (x : Nat × List ECell) (h1 : MemOk s) :
    MemOk (engSector pt op s x).1 := by
  unfold engSector
  try dsimp only
  repeat' with_reducible
    first
    | assumption | (intro _) | apply putSector_memOk | apply performSector_memOk | apply poisonCell_memOk
    | apply memOk_mem | apply memOk_ite | apply memOk_ite1 | split

theorem execTrap_memOk (_e : Pfx) (n : BitVec 8) (s : State) (h1 : MemOk s) :
    OutOk (execTrap _e n s) := by
  unfold execTrap
  try dsimp only
  repeat' with_reducible first | assumption | apply trapNext_memOk | apply outOk_next

theorem execTfence_memOk (e : Pfx) (s : State) (h1 : MemOk s) :
    OutOk (execTfence e s) := by
  unfold execTfence
  try dsimp only
  repeat' with_reducible
    first
    | assumption | apply trapNext_memOk | apply finish_memOk | apply memOk_ite | apply outOk_ite | apply outOk_next

theorem execRett_memOk (e : Pfx) (s : State) (h1 : MemOk s) :
    OutOk (execRett e s) := by
  unfold execRett
  try dsimp only
  repeat' with_reducible
    first
    | assumption | (intro _) | apply State.modG_memOk | apply trapNow_memOk | apply gbarCheck_memOk
    | apply memOk_ite | apply outOk_ite | apply outOk_next

theorem execReplace_memOk (e : Pfx) (b a : BitVec 7) (s : State) (h1 : MemOk s) :
    OutOk (execReplace e b a s) := by
  unfold execReplace
  try dsimp only
  repeat' with_reducible
    first
    | assumption | (intro _) | apply State.modG_memOk | apply trapNow_memOk | apply finish_memOk | apply issue_memOk
    | apply memOk_mem | apply memOk_ite | apply outOk_ite | apply outOk_next | apply memOk_foldl
    | apply memOk_foldl1 | apply memOk_foldl2 | apply memFold_wf | simp only [↓memOk_mk] | split

theorem execSprr_memOk (e : Pfx) (n : BitVec 9) (d : BitVec 6) (s : State) (h1 : MemOk s) :
    OutOk (execSprr e n d s) := by
  unfold execSprr
  try dsimp only
  repeat' with_reducible first | assumption | (intro _) | apply issueS_memOk

theorem execSprw_memOk (e : Pfx) (n : BitVec 9) (a : BitVec 6) (s : State) (h1 : MemOk s) :
    OutOk (execSprw e n a s) := by
  unfold execSprw
  try dsimp only
  repeat' with_reducible first | assumption | apply State.modG_memOk | apply finish_memOk | apply outOk_next

theorem execGetid_memOk (e : Pfx) (n : BitVec 9) (a d : BitVec 6) (s : State) (h1 : MemOk s) :
    OutOk (execGetid e n a d s) := by
  unfold execGetid
  try dsimp only
  repeat' with_reducible first | assumption | (intro _) | apply issueS_memOk

theorem blockDone_memOk (src q : Nat) (s : State) (h1 : MemOk s) :
    MemOk (blockDone src q s) := by
  unfold blockDone
  try dsimp only
  repeat' with_reducible
    first
    | assumption | (intro _) | apply State.modGrp_memOk | apply State.fresh_memOk | apply memOk_mem
    | apply memOk_ite | simp only [↓memOk_mk] | split

theorem execCommandBlockRead_memOk (src q : Nat) (s : State) (h1 : MemOk s) :
    OutOk (execCommandBlockRead src q s) := by
  unfold execCommandBlockRead
  try dsimp only
  repeat' with_reducible first | assumption | apply guardEv_memOk | apply blockDone_memOk

theorem landed_memOk (u : Nat) (cells : List ECell) (els : List (Nat × Nat)) (bads : List (Nat × Nat × Bool)) (s :
    State)
    (h : MemOk s) : MemOk (landed u cells els bads s) := by
  unfold landed
  split
  · exact h
  · dsimp only
    exact memOk_ite h h

theorem putUnder_memOk (u : Nat) (pt : Party) (x : Nat × List ECell) (s : State) (h1 : MemOk s) :
    MemOk (putUnder u pt x s) := by
  unfold putUnder
  try dsimp only
  repeat' with_reducible
    first
    | assumption | (intro _) | apply State.modCmd_memOk | apply memOk_mem | apply memOk_ite | apply memOk_foldl
    | apply memOk_foldl1 | apply memOk_foldl2 | apply memFold_wf | apply memSet_wf | simp only [↓memOk_mk] | split

theorem putSecs_memOk (pt : Party) (u : Nat) (secs : KV (List ECell)) (s : State) (h1 : MemOk s) :
    MemOk (putSecs pt u secs s).1 := by
  unfold putSecs
  try dsimp only
  repeat' with_reducible
    first
    | assumption | (intro _) | apply engSector_memOk | apply putUnder_memOk | apply memOk_ite | apply memOk_ite1
    | apply memOk_foldl | apply memOk_foldl1

theorem sendCells_memOk (u : Nat) (far : Bool) (cells : List ECell) (els : List (Nat × Nat)) (s : State) (h1 : MemOk
    s) :
    MemOk (sendCells u far cells els s) := by
  unfold sendCells
  try dsimp only
  repeat' with_reducible
    first
    | assumption | (intro _) | apply State.modCmd_memOk | apply State.fresh_memOk | apply landed_memOk
    | apply putSecs_memOk | apply memOk_mem | apply memOk_ite | simp only [↓memOk_mk] | split

theorem watchCells_memOk (c : Cmd) (cells : List ECell) (s : State) (h1 : MemOk s) :
    MemOk (watchCells c cells s) := by
  unfold watchCells
  try dsimp only
  repeat' with_reducible first | assumption | (intro _) | apply State.modGrp_memOk

theorem cmdFault_memOk (u va : Nat) (perm tpoi : Bool) (kind : Nat) (s : State) (h1 : MemOk s) :
    MemOk (cmdFault u va perm tpoi kind s) := by
  unfold cmdFault
  try dsimp only
  repeat' with_reducible
    first
    | assumption | (intro _) | apply State.modCmd_memOk | apply raiseFault_memOk | apply memOk_mem | apply memOk_ite
    | simp only [↓memOk_mk] | split

theorem cbInit_memOk (c : Cmd) (s : State) (h1 : MemOk s) :
    MemOk (cbInit c s) := by
  unfold cbInit
  try dsimp only
  repeat' with_reducible first | assumption | (intro _) | apply State.modGrp_memOk | apply memOk_mem | apply memOk_ite

theorem cmdBegin_memOk (u : Nat) (s : State) (h1 : MemOk s) :
    MemOk (cmdBegin u s) := by
  unfold cmdBegin
  try dsimp only
  repeat' with_reducible
    first
    | assumption | (intro _) | apply State.modCmd_memOk | apply cmdFault_memOk | apply cbInit_memOk
    | apply memOk_mem | apply memOk_ite | simp only [↓memOk_mk] | split

theorem copyTouch_memOk (c : Cmd) (lins : List Nat) (s : State) (h1 : MemOk s) :
    MemOk (copyTouch c lins s) := by
  unfold copyTouch
  try dsimp only
  repeat' with_reducible first | assumption | (intro _) | apply engTouch_memOk | apply memOk_foldl

theorem keepOlds_memOk (u : Nat) (cells : List ECell) (s : State) (h1 : MemOk s) :
    MemOk (keepOlds u cells s) := by
  unfold keepOlds
  try dsimp only
  repeat' with_reducible first | assumption | (intro _) | apply State.modCmd_memOk

theorem copyMove_memOk (u n : Nat) (s : State) (h1 : MemOk s) :
    MemOk (copyMove u n s) := by
  unfold copyMove
  try dsimp only
  repeat' with_reducible
    first
    | assumption | (intro _) | apply State.modCmd_memOk | apply sendCells_memOk | apply watchCells_memOk
    | apply cmdFault_memOk | apply copyTouch_memOk | apply keepOlds_memOk | apply memOk_mem | apply memOk_ite
    | simp only [↓memOk_mk] | split

theorem beginOr_memOk (u : Nat) (f : State → State) (s : State) (h1 : ∀ (x0 : State), MemOk x0 → MemOk (f x0)) (h2 :
    MemOk s) :
    MemOk (beginOr u f s) := by
  unfold beginOr
  try dsimp only
  repeat' with_reducible first | assumption | (intro _) | apply h1 | apply cmdBegin_memOk | apply memOk_ite

theorem execCopy_memOk (u n : Nat) (s : State) (h1 : MemOk s) :
    OutOk (execCopy u n s) := by
  unfold execCopy
  try dsimp only
  repeat' with_reducible first | assumption | apply guardEv_memOk | apply copyMove_memOk | apply beginOr_memOk

theorem spanMove_memOk (u : Nat) (s : State) (h1 : MemOk s) :
    MemOk (spanMove u s) := by
  unfold spanMove
  try dsimp only
  repeat' with_reducible
    first
    | assumption | (intro _) | apply State.modCmd_memOk | apply engTouch_memOk | apply sendCells_memOk
    | apply watchCells_memOk | apply cmdFault_memOk | apply memOk_mem | apply memOk_ite | simp only [↓memOk_mk]
    | split

theorem execRead_memOk (u : Nat) (s : State) (h1 : MemOk s) :
    OutOk (execRead u s) := by
  unfold execRead
  try dsimp only
  repeat' with_reducible first | assumption | apply guardEv_memOk | apply beginOr_memOk | apply spanMove_memOk

theorem execWrite_memOk (u : Nat) (s : State) (h1 : MemOk s) :
    OutOk (execWrite u s) := by
  unfold execWrite
  try dsimp only
  repeat' with_reducible first | assumption | apply guardEv_memOk | apply beginOr_memOk | apply spanMove_memOk

theorem spanResend_memOk (u : Nat) (x : Span) (s : State) (h1 : MemOk s) :
    MemOk (spanResend u x s).1 := by
  unfold spanResend
  try dsimp only
  repeat' with_reducible
    first
    | assumption | apply putSecs_memOk | apply memOk_mem | apply memOk_ite | apply memOk_ite1
    | simp only [↓memOk_mk] | split

theorem spanPass_memOk (u n : Nat) (x : Span) (s : State) (h1 : MemOk s) :
    MemOk (spanPass u n x s) := by
  unfold spanPass
  try dsimp only
  repeat' with_reducible
    first
    | assumption | (intro _) | apply State.modCmd_memOk | apply landed_memOk | apply putSecs_memOk | apply memOk_mem
    | simp only [↓memOk_mk] | split

theorem spanFail_memOk (u n : Nat) (x : Span) (s : State) (h1 : MemOk s) :
    MemOk (spanFail u n x s) := by
  unfold spanFail
  try dsimp only
  repeat' with_reducible
    first
    | assumption | (intro _) | apply State.modCmd_memOk | apply poisonCell_memOk | apply memOk_mem | apply memOk_ite
    | apply memOk_foldl | apply memOk_foldl1 | apply memOk_foldl2 | apply memFold_wf | simp only [↓memOk_mk] | split

theorem tagCheck_memOk (u n : Nat) (pass : Bool) (s : State) (h1 : MemOk s) :
    MemOk (tagCheck u n pass s) := by
  unfold tagCheck
  try dsimp only
  repeat' with_reducible
    first
    | assumption | (intro _) | apply poisonCell_memOk | apply spanResend_memOk | apply spanPass_memOk
    | apply spanFail_memOk | apply memOk_mem | apply memOk_ite | apply memOk_foldl | apply memOk_foldl1
    | apply memOk_foldl2 | apply memFold_wf | split

theorem execSpanTagCheck_memOk (u n : Nat) (pass : Bool) (s : State) (h1 : MemOk s) :
    OutOk (execSpanTagCheck u n pass s) := by
  unfold execSpanTagCheck
  try dsimp only
  repeat' with_reducible first | assumption | apply guardEv_memOk | apply tagCheck_memOk

theorem execSpanTimeout_memOk (u n : Nat) (s : State) (h1 : MemOk s) :
    OutOk (execSpanTimeout u n s) := by
  unfold execSpanTimeout
  try dsimp only
  repeat' with_reducible first | assumption | apply guardEv_memOk | apply tagCheck_memOk

theorem l2Drop_memOk (d p pa : Nat) (s : State) (h1 : MemOk s) :
    MemOk (l2Drop d p pa s) := by
  unfold l2Drop
  try dsimp only
  repeat' with_reducible
    first
    | assumption | (intro _) | apply State.modPart_memOk | apply memOk_mem | apply memOk_ite

theorem remoteAtom_memOk (c : Cmd) (pa n : Nat) (f : Nat → Option (Nat × Flags)) (s : State) (h1 : MemOk s) :
    MemOk (remoteAtom c pa n f s).1 := by
  unfold remoteAtom
  try dsimp only
  repeat' with_reducible first | assumption | (intro _) | apply atomAt_memOk | apply l2Drop_memOk

theorem atomCmd_memOk (u n : Nat) (f : Cmd → Nat → Option (Nat × Flags)) (s : State) (h1 : MemOk s) :
    MemOk (atomCmd u n f s) := by
  unfold atomCmd
  try dsimp only
  repeat' with_reducible
    first
    | assumption | (intro _) | apply State.modCmd_memOk | apply remoteAtom_memOk | apply memOk_mem
    | simp only [↓memOk_mk] | split

theorem execCommandAtom_memOk (u : Nat) (s : State) (h1 : MemOk s) :
    OutOk (execCommandAtom u s) := by
  unfold execCommandAtom
  try dsimp only
  repeat' with_reducible
    first
    | assumption | (intro _) | apply guardEv_memOk | apply atomCmd_memOk | apply memOk_mem | split

theorem execCommandCas_memOk (u : Nat) (s : State) (h1 : MemOk s) :
    OutOk (execCommandCas u s) := by
  unfold execCommandCas
  try dsimp only
  repeat' with_reducible
    first
    | assumption | (intro _) | apply guardEv_memOk | apply atomCmd_memOk | apply memOk_mem | apply memOk_ite
    | apply outOk_ite | split

theorem reduceOne_memOk (u : Nat) (s : State) (h1 : MemOk s) :
    MemOk (reduceOne u s) := by
  unfold reduceOne
  try dsimp only
  repeat' with_reducible
    first
    | assumption | (intro _) | apply State.modCmd_memOk | apply engTouch_memOk | apply cmdFault_memOk
    | apply remoteAtom_memOk | apply memOk_mem | apply memOk_ite | simp only [↓memOk_mk] | split

theorem execReduce_memOk (u n : Nat) (s : State) (h1 : MemOk s) :
    OutOk (execReduce u n s) := by
  unfold execReduce
  try dsimp only
  repeat' with_reducible
    first
    | assumption | (intro _) | apply guardEv_memOk | apply beginOr_memOk | apply reduceOne_memOk | apply memOk_foldl

theorem quotaAdd_memOk (t : Nat) (up : Bool) (s : State) (x : Nat × Nat) (h1 : MemOk s) :
    MemOk (quotaAdd t up s x) := by
  unfold quotaAdd
  try dsimp only
  repeat' with_reducible first | assumption | apply memOk_mem | apply memOk_ite | simp only [↓memOk_mk] | split

theorem kallocDo_memOk (u : Nat) (s : State) (h1 : MemOk s) :
    MemOk (kallocDo u s) := by
  unfold kallocDo
  try dsimp only
  repeat' with_reducible
    first
    | assumption | (intro _) | apply State.modCmd_memOk | apply quotaAdd_memOk | apply memOk_mem | apply memOk_ite
    | apply memOk_foldl | apply memOk_foldl1 | apply memOk_foldl2 | apply memFold_wf | simp only [↓memOk_mk] | split

theorem execKalloc_memOk (u : Nat) (s : State) (h1 : MemOk s) :
    OutOk (execKalloc u s) := by
  unfold execKalloc
  try dsimp only
  repeat' with_reducible first | assumption | apply guardEv_memOk | apply kallocDo_memOk

theorem kfreeDo_memOk (u : Nat) (s : State) (h1 : MemOk s) :
    MemOk (kfreeDo u s) := by
  unfold kfreeDo
  try dsimp only
  repeat' with_reducible
    first
    | assumption | (intro _) | apply State.modCmd_memOk | apply quotaAdd_memOk | apply memOk_mem | apply memOk_foldl
    | apply memOk_foldl1 | apply memOk_foldl2 | apply memFold_wf | simp only [↓memOk_mk] | split

theorem execKfree_memOk (u : Nat) (s : State) (h1 : MemOk s) :
    OutOk (execKfree u s) := by
  unfold execKfree
  try dsimp only
  repeat' with_reducible first | assumption | apply guardEv_memOk | apply kfreeDo_memOk

theorem signalDo_memOk (u : Nat) (s : State) (h1 : MemOk s) :
    MemOk (signalDo u s) := by
  unfold signalDo
  try dsimp only
  repeat' with_reducible
    first
    | assumption | apply State.modCmd_memOk | apply memOk_mem | simp only [↓memOk_mk] | split

theorem execSignal_memOk (u : Nat) (s : State) (h1 : MemOk s) :
    OutOk (execSignal u s) := by
  unfold execSignal
  try dsimp only
  repeat' with_reducible first | assumption | apply guardEv_memOk | apply signalDo_memOk

theorem creditApply_memOk (n : Nat) (s : State) (h1 : MemOk s) :
    MemOk (creditApply n s) := by
  unfold creditApply
  try dsimp only
  repeat' with_reducible
    first
    | assumption | apply State.perfIn_memOk | apply creditBar_memOk | apply memOk_mem | apply memOk_ite
    | simp only [↓memOk_mk] | split

theorem execByteCredit_memOk (n : Nat) (s : State) (h1 : MemOk s) :
    OutOk (execByteCredit n s) := by
  unfold execByteCredit
  try dsimp only
  repeat' with_reducible first | assumption | apply guardEv_memOk | apply creditApply_memOk

theorem cmdRetire_memOk (u : Nat) (s : State) (h1 : MemOk s) :
    MemOk (cmdRetire u s) := by
  unfold cmdRetire
  try dsimp only
  repeat' with_reducible
    first
    | assumption | (intro _) | apply State.modGrp_memOk | apply State.modNode_memOk | apply State.perfGrp_memOk
    | apply viralIrq_memOk | apply pushResult_memOk | apply memOk_mem | apply memOk_ite | simp only [↓memOk_mk]
    | split

theorem execCommandCompletion_memOk (u : Nat) (s : State) (h1 : MemOk s) :
    OutOk (execCommandCompletion u s) := by
  unfold execCommandCompletion
  try dsimp only
  repeat' with_reducible first | assumption | apply guardEv_memOk | apply cmdRetire_memOk

theorem State.modMOp_memOk (s : State) (c u : Nat) (f : MOp → MOp) (h1 : MemOk s) :
    MemOk (State.modMOp s c u f) := by
  unfold State.modMOp
  try dsimp only
  repeat' with_reducible first | assumption | (intro _) | apply State.modCont_memOk

theorem execMatrixBlockRead_memOk (k : Nat) (s : State) (h1 : MemOk s) :
    OutOk (execMatrixBlockRead k s) := by
  unfold execMatrixBlockRead
  try dsimp only
  repeat' with_reducible
    first
    | assumption | (intro _) | apply guardEv_memOk | apply State.modMOp_memOk | apply memOk_mem | split

theorem startOp_memOk (core : Nat) (s : State) (h1 : MemOk s) :
    MemOk (startOp core s) := by
  unfold startOp
  try dsimp only
  repeat' with_reducible
    first
    | assumption | (intro _) | apply State.modCore_memOk | apply landFills_memOk | apply State.modMOp_memOk
    | apply memOk_mem | apply memOk_ite | apply memOk_foldl | apply memOk_foldl1 | apply memOk_foldl2
    | apply memFold_wf | simp only [↓memOk_mk] | split

theorem execMatrixOperationStart_memOk (core : Nat) (s : State) (h1 : MemOk s) :
    OutOk (execMatrixOperationStart core s) := by
  unfold execMatrixOperationStart
  try dsimp only
  repeat' with_reducible first | assumption | apply guardEv_memOk | apply startOp_memOk

theorem productsDone_memOk (k u : Nat) (o : MOp) (s : State) (h1 : MemOk s) :
    MemOk (productsDone k u o s) := by
  unfold productsDone
  try dsimp only
  repeat' with_reducible
    first
    | assumption | (intro _) | apply State.modCore_memOk | apply State.modMOp_memOk | apply memOk_mem
    | apply memOk_ite | apply memOk_foldl | apply memOk_foldl1 | apply memOk_foldl2 | apply memFold_wf
    | apply memPutLe_wf | simp only [↓memOk_mk]

theorem execMatrixProducts_memOk (core : Nat) (s : State) (h1 : MemOk s) :
    OutOk (execMatrixProducts core s) := by
  unfold execMatrixProducts
  try dsimp only
  repeat' with_reducible first | assumption | apply guardEv_memOk | apply productsDone_memOk | apply memOk_mem | split

theorem bypassRows_memOk (k : Nat) (o : MOp) (rows : List Nat) (s : State) (h1 : MemOk s) :
    MemOk (bypassRows k o rows s) := by
  unfold bypassRows
  try dsimp only
  repeat' with_reducible first | assumption | (intro _) | apply putOperand_memOk

theorem drainWrite_memOk (u : Nat) (o : MOp) (rows : List Nat) (s : State) (h1 : MemOk s) :
    MemOk (drainWrite u o rows s).1 := by
  unfold drainWrite
  try dsimp only
  repeat' with_reducible first | assumption | (intro _) | apply State.modCore_memOk | apply putSecs_memOk

theorem addOne_memOk (o : MOp) (pt : Party) (x : Nat) (dst : EngR) (j : Nat) (s : State) (h1 : MemOk s) :
    MemOk (addOne o pt x dst j s).1 := by
  unfold addOne
  try dsimp only
  repeat' with_reducible
    first
    | assumption | (intro _) | apply atomKeys_memOk | apply atomAt_memOk | apply atomStale_memOk | apply memOk_mem
    | apply memOk_ite | apply memOk_ite1 | split

theorem drainAdd_memOk (o : MOp) (rows : List Nat) (s : State) (h1 : MemOk s) :
    MemOk (drainAdd o rows s).1 := by
  unfold drainAdd
  try dsimp only
  repeat' with_reducible
    first
    | assumption | (intro _) | apply addOne_memOk | apply memOk_ite | apply memOk_ite1 | apply memOk_foldl
    | apply memOk_foldl1

theorem drainDone_memOk (k u : Nat) (o : MOp) (s : State) (h1 : MemOk s) :
    MemOk (drainDone k u o s) := by
  unfold drainDone
  try dsimp only
  repeat' with_reducible
    first
    | assumption | (intro _) | apply landed_memOk | apply State.modMOp_memOk | apply bypassRows_memOk
    | apply drainWrite_memOk | apply drainAdd_memOk | apply memOk_mem | apply memOk_ite | simp only [↓memOk_mk]
    | split

theorem execDrain_memOk (core : Nat) (s : State) (h1 : MemOk s) :
    OutOk (execDrain core s) := by
  unfold execDrain
  try dsimp only
  repeat' with_reducible first | assumption | apply guardEv_memOk | apply drainDone_memOk | apply memOk_mem | split

theorem opRetire_memOk (n k : Nat) (o : MOp) (s : State) (h1 : MemOk s) :
    MemOk (opRetire n k o s) := by
  unfold opRetire
  try dsimp only
  repeat' with_reducible
    first
    | assumption | (intro _) | apply State.modGrp_memOk | apply State.modCont_memOk | apply pushResult_memOk
    | apply memOk_mem | apply memOk_ite

theorem execMatrixCompletion_memOk (core n : Nat) (s : State) (h1 : MemOk s) :
    OutOk (execMatrixCompletion core n s) := by
  unfold execMatrixCompletion
  try dsimp only
  repeat' with_reducible first | assumption | apply guardEv_memOk | apply opRetire_memOk | apply memOk_mem | split

theorem execLoadDataReturn_memOk (g n : Nat) (s : State) (h1 : MemOk s) :
    OutOk (execLoadDataReturn g n s) := by
  unfold execLoadDataReturn
  try dsimp only
  repeat' with_reducible first | assumption | (intro _) | apply guardEv_memOk | apply landLoad_memOk

theorem execStorePerformed_memOk (core n : Nat) (s : State) (h1 : MemOk s) :
    OutOk (execStorePerformed core n s) := by
  unfold execStorePerformed
  try dsimp only
  repeat' with_reducible first | assumption | apply guardEv_memOk | apply drainLine_memOk | apply memOk_mem | split

theorem sweepEnd_memOk (cls key : Nat) (s : State) (h1 : MemOk s) :
    MemOk (sweepEnd cls key s) := by
  unfold sweepEnd
  try dsimp only
  repeat' with_reducible first | assumption | apply State.modPart_memOk | apply State.modCore_memOk | apply memOk_ite

theorem execEditionSweepEnd_memOk (cls key : Nat) (s : State) (h1 : MemOk s) :
    OutOk (execEditionSweepEnd cls key s) := by
  unfold execEditionSweepEnd
  try dsimp only
  repeat' with_reducible first | assumption | apply guardEv_memOk | apply sweepEnd_memOk

theorem execMscMissFetch_memOk (d p line : Nat) (want : BitVec 8) (s : State) (h1 : MemOk s) :
    OutOk (execMscMissFetch d p line want s) := by
  unfold execMscMissFetch
  try dsimp only
  repeat' with_reducible first | assumption | apply fetchDone_memOk | apply fetchStart_memOk | apply guardEv_memOk

theorem setTag_memOk (line : Nat) (t : Word) (s : State) (h1 : MemOk s) :
    MemOk (setTag line t s) := by
  unfold setTag
  try dsimp only
  repeat' with_reducible first | assumption | apply memOk_mem | apply memOk_ite | simp only [↓memOk_mk]

theorem homeGrant_memOk (line : Nat) (h : HReq) (s : State) (h1 : MemOk s) :
    MemOk (homeGrant line h s) := by
  unfold homeGrant
  try dsimp only
  repeat' with_reducible first | assumption | apply setTag_memOk | apply memOk_mem | split

theorem protoError_memOk (q line : Nat) (s : State) (h1 : MemOk s) :
    MemOk (protoError q line s) := by
  unfold protoError
  try dsimp only
  repeat' with_reducible
    first
    | assumption | (intro _) | apply State.modGrp_memOk | apply memOk_mem | apply memOk_ite | apply memOk_foldl

theorem homeStart_memOk (k : HKind) (q line : Nat) (s : State) (h1 : MemOk s) :
    MemOk (homeStart k q line s) := by
  unfold homeStart
  try dsimp only
  repeat' with_reducible
    first
    | assumption | (intro _) | apply setTag_memOk | apply homeGrant_memOk | apply protoError_memOk | apply memOk_mem
    | apply memOk_ite | simp only [↓memOk_mk] | split

theorem homeNext_memOk (line : Nat) : ∀ (l : List (HKind × Nat)) (s : State), MemOk s → MemOk (homeNext line l s)
  | [], _, h => h
  | x :: t, s, h => by
    have k := homeStart_memOk x.1 x.2 line s h
    unfold homeNext
    dsimp only
    split
    · exact k
    · exact homeNext_memOk line t _ k

theorem homeSettle_memOk (line : Nat) (s : State) (h1 : MemOk s) :
    MemOk (homeSettle line s) := by
  unfold homeSettle
  try dsimp only
  repeat' with_reducible
    first
    | assumption | apply homeGrant_memOk | apply homeNext_memOk | apply memOk_mem | apply memOk_ite
    | simp only [↓memOk_mk] | split

theorem homeRequest_memOk (k : HKind) (q line : Nat) (s : State) (h1 : MemOk s) :
    MemOk (homeRequest k q line s) := by
  unfold homeRequest
  try dsimp only
  repeat' with_reducible first | assumption | apply homeStart_memOk | apply memOk_mem | simp only [↓memOk_mk] | split

theorem execRdsh_memOk (q line : Nat) (s : State) (h1 : MemOk s) :
    OutOk (execRdsh q line s) := by
  unfold execRdsh
  try dsimp only
  repeat' with_reducible first | assumption | apply homeRequest_memOk | apply outOk_next

theorem execRdown_memOk (q line : Nat) (s : State) (h1 : MemOk s) :
    OutOk (execRdown q line s) := by
  unfold execRdown
  try dsimp only
  repeat' with_reducible first | assumption | apply homeRequest_memOk | apply outOk_next

theorem execUpgrade_memOk (q line : Nat) (s : State) (h1 : MemOk s) :
    OutOk (execUpgrade q line s) := by
  unfold execUpgrade
  try dsimp only
  repeat' with_reducible first | assumption | apply homeRequest_memOk | apply outOk_next

theorem execWback_memOk (q line : Nat) (s : State) (h1 : MemOk s) :
    OutOk (execWback q line s) := by
  unfold execWback
  try dsimp only
  repeat' with_reducible first | assumption | apply homeRequest_memOk | apply outOk_next

theorem execEvict_memOk (q line : Nat) (s : State) (h1 : MemOk s) :
    OutOk (execEvict q line s) := by
  unfold execEvict
  try dsimp only
  repeat' with_reducible first | assumption | apply homeRequest_memOk | apply outOk_next

theorem execHostOwnershipRequest_memOk (line : Nat) (s : State) (h1 : MemOk s) :
    OutOk (execHostOwnershipRequest line s) := by
  unfold execHostOwnershipRequest
  try dsimp only
  repeat' with_reducible first | assumption | apply homeRequest_memOk | apply outOk_next

theorem biDone_memOk (line : Nat) (s : State) (h1 : MemOk s) :
    MemOk (biDone line s) := by
  unfold biDone
  try dsimp only
  repeat' with_reducible first | assumption | apply homeSettle_memOk | apply memOk_mem | simp only [↓memOk_mk] | split

theorem execBackInvalidationCompletion_memOk (line : Nat) (s : State) (h1 : MemOk s) :
    OutOk (execBackInvalidationCompletion line s) := by
  unfold execBackInvalidationCompletion
  try dsimp only
  repeat' with_reducible first | assumption | (intro _) | apply guardEv_memOk | apply biDone_memOk

theorem ackDone_memOk (q line : Nat) (s : State) (h1 : MemOk s) :
    MemOk (ackDone q line s) := by
  unfold ackDone
  try dsimp only
  repeat' with_reducible
    first
    | assumption | (intro _) | apply homeSettle_memOk | apply memOk_mem | apply memOk_ite | simp only [↓memOk_mk]
    | split

theorem execInvalidationAcknowledgement_memOk (q line : Nat) (s : State) (h1 : MemOk s) :
    OutOk (execInvalidationAcknowledgement q line s) := by
  unfold execInvalidationAcknowledgement
  try dsimp only
  repeat' with_reducible first | assumption | apply ackDone_memOk | apply outOk_next

theorem unhold_memOk (d line : Nat) (s : State) (h1 : MemOk s) :
    MemOk (unhold d line s) := by
  unfold unhold
  try dsimp only
  repeat' with_reducible first | assumption | (intro _) | apply State.modDev_memOk | apply memOk_mem | apply memOk_ite

theorem dropCopies_memOk (d line : Nat) (s : State) (h1 : MemOk s) :
    MemOk (dropCopies d line s) := by
  unfold dropCopies
  try dsimp only
  repeat' with_reducible first | assumption | (intro _) | apply unhold_memOk | apply memOk_mem | simp only [↓memOk_mk]

theorem invalDone_memOk (d line : Nat) (s : State) (h1 : MemOk s) :
    MemOk (invalDone d line s) := by
  unfold invalDone
  try dsimp only
  repeat' with_reducible
    first
    | assumption | (intro _) | apply dropCopies_memOk | apply memOk_mem | apply memOk_ite | simp only [↓memOk_mk]
    | split

theorem execInvalidateRequest_memOk (d line : Nat) (s : State) (h1 : MemOk s) :
    OutOk (execInvalidateRequest d line s) := by
  unfold execInvalidateRequest
  try dsimp only
  repeat' with_reducible first | assumption | apply invalDone_memOk | apply outOk_next

theorem hostRecall_memOk (d p off len : Nat) (s : State) (h1 : MemOk s) :
    MemOk (hostRecall d p off len s) := by
  unfold hostRecall
  try dsimp only
  repeat' with_reducible
    first
    | assumption | (intro _) | apply setTag_memOk | apply dropCopies_memOk | apply memOk_ite | apply memOk_foldl

theorem hostAccess_memOk (d p off len : Nat) (data : List Byte) (s : State) (h1 : MemOk s) :
    MemOk (hostAccess d p off len data s) := by
  unfold hostAccess
  try dsimp only
  repeat' with_reducible
    first
    | assumption | (intro _) | apply putSector_memOk | apply hostRecall_memOk | apply memOk_mem | apply memOk_ite
    | apply memOk_foldl | apply memOk_foldl1 | apply memOk_foldl2 | apply memFold_wf | simp only [↓memOk_mk]

theorem generalAccess_memOk (d p off len : Nat) (data : List Byte) (s : State) (h1 : MemOk s) :
    MemOk (generalAccess d p off len data s) := by
  unfold generalAccess
  try dsimp only
  repeat' with_reducible
    first
    | assumption | (intro _) | apply cohRead_memOk | apply performSector_memOk | apply memOk_mem | apply memOk_ite
    | apply memOk_foldl | apply memOk_foldl1 | apply memOk_foldl2 | apply memFold_wf | simp only [↓memOk_mk]

theorem askHome_memOk (w : Option (HKind × Nat × Nat)) (s : State) (h1 : MemOk s) :
    MemOk (askHome w s) := by
  unfold askHome
  try dsimp only
  repeat' with_reducible first | assumption | apply homeRequest_memOk | split

theorem generalFence_memOk (d p : Nat) (s : State) (h1 : MemOk s) :
    MemOk (generalFence d p s) := by
  unfold generalFence
  try dsimp only
  repeat' with_reducible first | assumption | apply bumpPart_memOk

theorem generalStep_memOk (d p off len : Nat) (data : List Byte) (s : State) (h1 : MemOk s) :
    MemOk (generalStep d p off len data s) := by
  unfold generalStep
  try dsimp only
  repeat' with_reducible
    first
    | assumption | apply generalAccess_memOk | apply askHome_memOk | apply memOk_mem | apply memOk_ite
    | simp only [↓memOk_mk]

theorem walkDone_memOk (d p asid va : Nat) (s : State) (h1 : MemOk s) :
    MemOk (walkDone d p asid va s) := by
  unfold walkDone
  try dsimp only
  repeat' with_reducible
    first
    | assumption | (intro _) | apply State.modPart_memOk | apply memOk_mem | simp only [↓memOk_mk] | split

theorem execTranslationWalk_memOk (d p asid _kind : Nat) (va : BitVec 64) (s : State) (h1 : MemOk s) :
    OutOk (execTranslationWalk d p asid _kind va s) := by
  unfold execTranslationWalk
  try dsimp only
  repeat' with_reducible first | assumption | apply walkDone_memOk | apply outOk_next

theorem answerGroup_memOk (seq pri : Option Nat) (replay : Bool) (g : Nat) (s : State) (h1 : MemOk s) :
    MemOk (answerGroup seq pri replay g s) := by
  unfold answerGroup
  try dsimp only
  repeat' with_reducible first | assumption | (intro _) | apply State.modGrp_memOk

theorem answerAll_memOk (d p : Nat) (seq pri : Option Nat) (replay : Bool) (s : State) (h1 : MemOk s) :
    MemOk (answerAll d p seq pri replay s) := by
  unfold answerAll
  try dsimp only
  repeat' with_reducible
    first
    | assumption | (intro _) | apply answerGroup_memOk | apply memOk_mem | apply memOk_foldl | apply memOk_foldl1
    | apply memOk_foldl2 | apply memFold_wf | simp only [↓memOk_mk]

theorem repostRecs_memOk (g : Nat) (s : State) (h1 : MemOk s) :
    MemOk (repostRecs g s) := by
  unfold repostRecs
  try dsimp only
  repeat' with_reducible
    first
    | assumption | (intro _) | apply State.modGrp_memOk | apply raiseFault_memOk | apply memOk_mem | apply memOk_ite
    | apply memOk_foldl

theorem repostCmd_memOk (s : State) (e : Nat × Cmd) (h1 : MemOk s) :
    MemOk (repostCmd s e) := by
  unfold repostCmd
  try dsimp only
  repeat' with_reducible first | assumption | apply cmdFault_memOk | apply memOk_ite

theorem repostAll_memOk (d p : Nat) (s : State) (h1 : MemOk s) :
    MemOk (repostAll d p s) := by
  unfold repostAll
  try dsimp only
  repeat' with_reducible
    first
    | assumption | (intro _) | apply repostRecs_memOk | apply repostCmd_memOk | apply memOk_foldl

theorem dropEntry_memOk (d p seq : Nat) (s : State) (h1 : MemOk s) :
    MemOk (dropEntry d p seq s) := by
  unfold dropEntry
  try dsimp only
  repeat' with_reducible first | assumption | (intro _) | apply State.modPart_memOk

theorem replyDone_memOk (d p : Nat) (v : Dword) (replay : Bool) (s : State) (h1 : MemOk s) :
    MemOk (replyDone d p v replay s) := by
  unfold replyDone
  try dsimp only
  repeat' with_reducible
    first
    | assumption | apply answerAll_memOk | apply repostAll_memOk | apply dropEntry_memOk | apply memOk_mem | split

theorem execFreplyReplay_memOk (d p : Nat) (v : BitVec 64) (s : State) (h1 : MemOk s) :
    OutOk (execFreplyReplay d p v s) := by
  unfold execFreplyReplay
  try dsimp only
  repeat' with_reducible first | assumption | apply guardEv_memOk | apply replyDone_memOk

theorem execFreplyDeliver_memOk (d p : Nat) (v : BitVec 64) (s : State) (h1 : MemOk s) :
    OutOk (execFreplyDeliver d p v s) := by
  unfold execFreplyDeliver
  try dsimp only
  repeat' with_reducible first | assumption | apply guardEv_memOk | apply replyDone_memOk

theorem replyTerminate_memOk (d p : Nat) (v : Dword) (s : State) (h1 : MemOk s) :
    MemOk (replyTerminate d p v s) := by
  unfold replyTerminate
  try dsimp only
  repeat' with_reducible
    first
    | assumption | apply endContext_memOk | apply answerAll_memOk | apply repostAll_memOk | apply dropEntry_memOk
    | apply memOk_mem | split

theorem execFreplyTerminate_memOk (d p : Nat) (v : BitVec 64) (s : State) (h1 : MemOk s) :
    OutOk (execFreplyTerminate d p v s) := by
  unfold execFreplyTerminate
  try dsimp only
  repeat' with_reducible first | assumption | apply guardEv_memOk | apply replyTerminate_memOk

theorem execFreplyDiscard_memOk (d p : Nat) (v : BitVec 64) (s : State) (h1 : MemOk s) :
    OutOk (execFreplyDiscard d p v s) := by
  unfold execFreplyDiscard
  try dsimp only
  repeat' with_reducible first | assumption | apply guardEv_memOk

theorem xinvDrop_memOk (d p : Nat) (s : State) (h1 : MemOk s) :
    MemOk (xinvDrop d p s) := by
  unfold xinvDrop
  try dsimp only
  repeat' with_reducible
    first
    | assumption | (intro _) | apply State.modPart_memOk | apply State.modCore_memOk | apply State.modGrp_memOk
    | apply memOk_mem | apply memOk_foldl

theorem xinvStart_memOk (d p : Nat) (v : Dword) (s : State) (h1 : MemOk s) :
    MemOk (xinvStart d p v s) := by
  unfold xinvStart
  try dsimp only
  repeat' with_reducible
    first
    | assumption | (intro _) | apply State.modPart_memOk | apply xinvDrop_memOk | apply memOk_mem | apply memOk_ite

theorem execXinvGo_memOk (d p : Nat) (v : BitVec 64) (s : State) (h1 : MemOk s) :
    OutOk (execXinvGo d p v s) := by
  unfold execXinvGo
  try dsimp only
  repeat' with_reducible first | assumption | apply guardEv_memOk | apply xinvStart_memOk

theorem drainAll_memOk (d p : Nat) (s : State) (h1 : MemOk s) :
    MemOk (drainAll d p s) := by
  unfold drainAll
  try dsimp only
  repeat' with_reducible
    first
    | assumption | (intro _) | apply landAll_memOk | apply drainCore_memOk | apply memOk_foldl

theorem execXinvComplete_memOk (d p : Nat) (s : State) (h1 : MemOk s) :
    OutOk (execXinvComplete d p s) := by
  unfold execXinvComplete
  try dsimp only
  repeat' with_reducible
    first
    | assumption | (intro _) | apply State.modPart_memOk | apply guardEv_memOk | apply drainAll_memOk

theorem xwinvStart_memOk (d p : Nat) (v : Dword) (s : State) (h1 : MemOk s) :
    MemOk (xwinvStart d p v s) := by
  unfold xwinvStart
  try dsimp only
  repeat' with_reducible
    first
    | assumption | (intro _) | apply State.modPart_memOk | apply memOk_mem | apply memOk_ite

theorem execXwinv_memOk (d p : Nat) (v : BitVec 64) (s : State) (h1 : MemOk s) :
    OutOk (execXwinv d p v s) := by
  unfold execXwinv
  try dsimp only
  repeat' with_reducible first | assumption | apply xwinvStart_memOk | apply outOk_next

theorem execXwinvComplete_memOk (d p : Nat) (s : State) (h1 : MemOk s) :
    OutOk (execXwinvComplete d p s) := by
  unfold execXwinvComplete
  try dsimp only
  repeat' with_reducible first | assumption | (intro _) | apply State.modPart_memOk | apply guardEv_memOk

theorem migPut_memOk (d p n ptr st : Nat) (s : State) (h1 : MemOk s) :
    MemOk (migPut d p n ptr st s) := by
  unfold migPut
  try dsimp only
  repeat' with_reducible first | assumption | (intro _) | apply State.modPart_memOk

theorem execMigrationStart_memOk (d p n : Nat) (v : BitVec 64) (s : State) (h1 : MemOk s) :
    OutOk (execMigrationStart d p n v s) := by
  unfold execMigrationStart
  try dsimp only
  repeat' with_reducible first | assumption | apply guardEv_memOk | apply migPut_memOk

theorem copyLine_memOk (src dst : Nat) (bad : Bool) (s : State) (h1 : MemOk s) :
    MemOk (copyLine src dst bad s) := by
  unfold copyLine
  try dsimp only
  repeat' with_reducible
    first
    | assumption | (intro _) | apply memOk_mem | apply memOk_ite | apply memOk_foldl | apply memOk_foldl1
    | apply memOk_foldl2 | apply memFold_wf | apply memSet_wf | simp only [↓memOk_mk]

theorem migMove_memOk (d p n : Nat) (s : State) (h1 : MemOk s) :
    MemOk (migMove d p n s) := by
  unfold migMove
  try dsimp only
  repeat' with_reducible
    first
    | assumption | (intro _) | apply dropCopies_memOk | apply migPut_memOk | apply copyLine_memOk | apply memOk_mem
    | apply memOk_ite | apply memOk_foldl | apply memOk_foldl1 | apply memOk_foldl2 | apply memFold_wf
    | simp only [↓memOk_mk] | split

theorem execMigrationLineMove_memOk (d p n : Nat) (s : State) (h1 : MemOk s) :
    OutOk (execMigrationLineMove d p n s) := by
  unfold execMigrationLineMove
  try dsimp only
  repeat' with_reducible first | assumption | apply guardEv_memOk | apply migMove_memOk

theorem execMigrationEnd_memOk (d p n : Nat) (v : BitVec 64) (s : State) (h1 : MemOk s) :
    OutOk (execMigrationEnd d p n v s) := by
  unfold execMigrationEnd
  try dsimp only
  repeat' with_reducible first | assumption | apply guardEv_memOk | apply migPut_memOk

theorem execAtsInvalidationRequest_memOk (d pasid : Nat) (va : BitVec 64) (size : Nat) (s : State) (h1 : MemOk s) :
    OutOk (execAtsInvalidationRequest d pasid va size s) := by
  unfold execAtsInvalidationRequest
  try dsimp only
  repeat' with_reducible
    first
    | assumption | (intro _) | apply State.modDev_memOk | apply State.fresh_memOk | apply memOk_mem
    | apply outOk_next

theorem execAtsInvalidationCompletion_memOk (d n : Nat) (s : State) (h1 : MemOk s) :
    OutOk (execAtsInvalidationCompletion d n s) := by
  unfold execAtsInvalidationCompletion
  try dsimp only
  repeat' with_reducible
    first
    | assumption | (intro _) | apply State.modDev_memOk | apply guardEv_memOk | apply drainAll_memOk
    | apply memOk_mem | apply memOk_foldl

theorem execAtsTranslationCompletion_memOk (d asid : Nat) (va hpa : BitVec 64) (granted : Bool) (s : State) (h1 :
    MemOk s) :
    OutOk (execAtsTranslationCompletion d asid va hpa granted s) := by
  unfold execAtsTranslationCompletion
  try dsimp only
  repeat' with_reducible
    first
    | assumption | (intro _) | apply State.modDev_memOk | apply memOk_mem | apply memOk_ite | apply outOk_ite
    | apply outOk_next

theorem pageAnswer_memOk (d n : Nat) (ok : Bool) (s : State) (h1 : MemOk s) :
    MemOk (pageAnswer d n ok s) := by
  unfold pageAnswer
  try dsimp only
  repeat' with_reducible
    first
    | assumption | (intro _) | apply State.modDev_memOk | apply answerAll_memOk | apply repostAll_memOk
    | apply memOk_mem | simp only [↓memOk_mk] | split

theorem execPageRequestResponse_memOk (d n : Nat) (ok : Bool) (s : State) (h1 : MemOk s) :
    OutOk (execPageRequestResponse d n ok s) := by
  unfold execPageRequestResponse
  try dsimp only
  repeat' with_reducible first | assumption | apply guardEv_memOk | apply pageAnswer_memOk

theorem execPageRequestTimeout_memOk (d n : Nat) (s : State) (h1 : MemOk s) :
    OutOk (execPageRequestTimeout d n s) := by
  unfold execPageRequestTimeout
  try dsimp only
  repeat' with_reducible first | assumption | apply guardEv_memOk | apply pageAnswer_memOk

theorem taskSeal_memOk (u : Nat) (c : Cmd) (s : State) (h1 : MemOk s) :
    MemOk (taskSeal u c s) := by
  unfold taskSeal
  try dsimp only
  repeat' with_reducible
    first
    | assumption | (intro _) | apply State.modDev_memOk | apply memOk_mem | apply memOk_ite | simp only [↓memOk_mk]
    | split

theorem taskSend_memOk (src : Nat) (s : State) (h1 : MemOk s) :
    MemOk (taskSend src s) := by
  unfold taskSend
  try dsimp only
  repeat' with_reducible
    first
    | assumption | (intro _) | apply State.modGrp_memOk | apply State.fresh_memOk | apply taskSeal_memOk
    | apply memOk_mem | apply memOk_ite | simp only [↓memOk_mk] | split

theorem execTaskPacketSend_memOk (src : Nat) (s : State) (h1 : MemOk s) :
    OutOk (execTaskPacketSend src s) := by
  unfold execTaskPacketSend
  try dsimp only
  repeat' with_reducible first | assumption | apply guardEv_memOk | apply taskSend_memOk

theorem taskSeen_memOk (c : Cmd) (s : State) (h1 : MemOk s) :
    MemOk (taskSeen c s) := by
  unfold taskSeen
  try dsimp only
  repeat' with_reducible
    first
    | assumption | (intro _) | apply State.modDev_memOk | apply memOk_mem | simp only [↓memOk_mk] | split

theorem taskArrive_memOk (u : Nat) (s : State) (h1 : MemOk s) :
    MemOk (taskArrive u s) := by
  unfold taskArrive
  try dsimp only
  repeat' with_reducible
    first
    | assumption | (intro _) | apply State.modPart_memOk | apply State.modCmd_memOk | apply State.fresh_memOk
    | apply putSecs_memOk | apply taskSeen_memOk | apply memOk_mem | apply memOk_ite | simp only [↓memOk_mk] | split

theorem execTaskPacketArrival_memOk (u : Nat) (s : State) (h1 : MemOk s) :
    OutOk (execTaskPacketArrival u s) := by
  unfold execTaskPacketArrival
  try dsimp only
  repeat' with_reducible first | assumption | apply guardEv_memOk | apply taskArrive_memOk

theorem taskReplied_memOk (u : Nat) (s : State) (h1 : MemOk s) :
    MemOk (taskReplied u s) := by
  unfold taskReplied
  try dsimp only
  repeat' with_reducible
    first
    | assumption | (intro _) | apply State.modGrp_memOk | apply State.modNode_memOk | apply pushResult_memOk
    | apply memOk_mem | apply memOk_ite | simp only [↓memOk_mk] | split

theorem execTaskRecord_memOk (u : Nat) (s : State) (h1 : MemOk s) :
    OutOk (execTaskRecord u s) := by
  unfold execTaskRecord
  try dsimp only
  repeat' with_reducible first | assumption | apply guardEv_memOk | apply taskReplied_memOk

theorem cacheWindow_memOk (d p src w : Nat) (s : State) (h1 : MemOk s) :
    MemOk (cacheWindow d p src w s) := by
  unfold cacheWindow
  try dsimp only
  repeat' with_reducible first | assumption | (intro _) | apply State.modPart_memOk

theorem inboundWrite_memOk (d p src w kind : Nat) (cells : List (Nat × Byte)) (s : State) (h1 : MemOk s) :
    MemOk (inboundWrite d p src w kind cells s) := by
  unfold inboundWrite
  try dsimp only
  repeat' with_reducible
    first
    | assumption | (intro _) | apply putSector_memOk | apply poisonSectors_memOk | apply wroteAt_memOk
    | apply memOk_mem | apply memOk_ite | apply memOk_foldl | apply memOk_foldl1 | apply memOk_foldl2
    | apply memFold_wf | simp only [↓memOk_mk]

theorem inbound_memOk (d p src spart w off kind len : Nat) (coh : Bool) (data : List Byte) (s : State) (h1 : MemOk
    s) :
    MemOk (inbound d p src spart w off kind len coh data s) := by
  unfold inbound
  try dsimp only
  repeat' with_reducible
    first
    | assumption | (intro _) | apply cohRead_memOk | apply cohWrite_memOk | apply needAt_memOk | apply wroteAt_memOk
    | apply atomKeys_memOk | apply cacheWindow_memOk | apply inboundWrite_memOk | apply memOk_mem | apply memOk_ite
    | apply memOk_foldl | apply memOk_foldl1 | apply memOk_foldl2 | apply memFold_wf | simp only [↓memOk_mk] | split

theorem answered_memOk (locked : Bool) (s : State) (h1 : MemOk s) : MemOk (answered locked s) := by
  unfold answered
  split
  · exact h1
  · exact h1

theorem execInboundRequest_memOk (d p srcNode srcPart win off kind len : Nat) (coherent : Bool) (data : List (BitVec
    8)) (s : State) (h1 : MemOk s) :
    OutOk (execInboundRequest d p srcNode srcPart win off kind len coherent data s) := by
  unfold execInboundRequest
  try dsimp only
  repeat' with_reducible first | assumption | apply guardEv_memOk | apply answered_memOk | apply inbound_memOk

theorem stitchPut_memOk (pt : Party) (op a : Nat) (bs : List Byte) (s : State) (h1 : MemOk s) :
    MemOk (stitchPut pt op a bs s) := by
  unfold stitchPut
  try dsimp only
  repeat' with_reducible first | assumption | (intro _) | apply putSecs_memOk

theorem putStatus_memOk (pt : Party) (a st : Nat) (s : State) (h1 : MemOk s) :
    MemOk (putStatus pt a st s) := by
  unfold putStatus
  try dsimp only
  repeat' with_reducible first | assumption | apply stitchPut_memOk

theorem addNode_memOk (n : GNode) (s : State) (h1 : MemOk s) :
    MemOk (addNode n s) := by
  unfold addNode
  try dsimp only
  repeat' with_reducible
    first
    | assumption | (intro _) | apply State.modPart_memOk | apply State.fresh_memOk | apply memOk_mem
    | simp only [↓memOk_mk]

theorem addEnded_memOk (n : GNode) (st : Nat) (s : State) (h1 : MemOk s) :
    MemOk (addEnded n st s) := by
  unfold addEnded
  try dsimp only
  repeat' with_reducible first | assumption | apply State.fresh_memOk | apply memOk_mem | simp only [↓memOk_mk]

theorem takeRoot_memOk (n : GNode) (en : Bool) (w0 : Dword) (s : State) (h1 : MemOk s) :
    MemOk (takeRoot n en w0 s) := by
  unfold takeRoot
  try dsimp only
  repeat' with_reducible first | assumption | apply addNode_memOk | apply addEnded_memOk | apply memOk_ite

theorem rootPush_memOk (g : Nat) (s : State) (h1 : MemOk s) :
    MemOk (rootPush g s) := by
  unfold rootPush
  try dsimp only
  repeat' with_reducible
    first
    | assumption | (intro _) | apply State.modGrp_memOk | apply State.perfGrp_memOk | apply takeRoot_memOk
    | apply memOk_mem | apply memOk_ite | simp only [↓memOk_mk] | split

theorem execGraphRootPush_memOk (g : Nat) (s : State) (h1 : MemOk s) :
    OutOk (execGraphRootPush g s) := by
  unfold execGraphRootPush
  try dsimp only
  repeat' with_reducible first | assumption | apply guardEv_memOk | apply rootPush_memOk

theorem signalNode_memOk (u : Nat) (n : GNode) (ws : List Dword) (s : State) (h1 : MemOk s) :
    MemOk (signalNode u n ws s).1 := by
  unfold signalNode
  try dsimp only
  repeat' with_reducible
    first
    | assumption | (intro _) | apply atomAt_memOk | apply putSecs_memOk | apply l2Drop_memOk | apply memOk_mem
    | apply memOk_ite | apply memOk_ite1 | split

theorem handleNode_memOk (u : Nat) (n : GNode) (ws : List Dword) (s : State) (h1 : MemOk s) :
    MemOk (handleNode u n ws s) := by
  unfold handleNode
  try dsimp only
  repeat' with_reducible
    first
    | assumption | (intro _) | apply State.modPart_memOk | apply State.modNode_memOk | apply State.fresh_memOk
    | apply cohRead_memOk | apply putStatus_memOk | apply addEnded_memOk | apply takeRoot_memOk
    | apply signalNode_memOk | apply memOk_mem | apply memOk_ite | simp only [↓memOk_mk] | split

theorem nodeTurn_memOk (d p : Nat) (s : State) (h1 : MemOk s) :
    MemOk (nodeTurn d p s) := by
  unfold nodeTurn
  try dsimp only
  repeat' with_reducible
    first
    | assumption | (intro _) | apply State.modPart_memOk | apply State.modNode_memOk | apply handleNode_memOk
    | apply memOk_mem | simp only [↓memOk_mk] | split

theorem execNodeReady_memOk (d p : Nat) (s : State) (h1 : MemOk s) :
    OutOk (execNodeReady d p s) := by
  unfold execNodeReady
  try dsimp only
  repeat' with_reducible first | assumption | apply guardEv_memOk | apply nodeTurn_memOk

theorem decSucc_memOk (n : GNode) (s : State) (a : Dword) (h1 : MemOk s) :
    MemOk (decSucc n s a) := by
  unfold decSucc
  try dsimp only
  repeat' with_reducible
    first
    | assumption | apply stitchPut_memOk | apply putStatus_memOk | apply addNode_memOk | apply memOk_mem
    | apply memOk_ite | simp only [↓memOk_mk] | split

theorem nodeFinish_memOk (u : Nat) (n : GNode) (st : Nat) (s : State) (h1 : MemOk s) :
    MemOk (nodeFinish u n st s) := by
  unfold nodeFinish
  try dsimp only
  repeat' with_reducible
    first
    | assumption | (intro _) | apply stitchPut_memOk | apply putStatus_memOk | apply decSucc_memOk | apply memOk_mem
    | apply memOk_ite | apply memOk_foldl | apply memOk_foldl1 | apply memOk_foldl2 | apply memFold_wf
    | simp only [↓memOk_mk] | split

theorem execNodeCompletion_memOk (d p : Nat) (s : State) (h1 : MemOk s) :
    OutOk (execNodeCompletion d p s) := by
  unfold execNodeCompletion
  try dsimp only
  repeat' with_reducible first | assumption | apply guardEv_memOk | apply nodeFinish_memOk | apply memOk_mem | split

theorem armedTake_memOk (d vif : Nat) (s : State) (h1 : MemOk s) :
    MemOk (armedTake d vif s) := by
  unfold armedTake
  try dsimp only
  repeat' with_reducible
    first
    | assumption | apply State.modDev_memOk | apply engTouch_memOk | apply stitchPut_memOk | apply takeRoot_memOk
    | apply memOk_mem | apply memOk_ite | simp only [↓memOk_mk] | split

theorem execArmedLineReread_memOk (d vif : Nat) (s : State) (h1 : MemOk s) :
    OutOk (execArmedLineReread d vif s) := by
  unfold execArmedLineReread
  try dsimp only
  repeat' with_reducible first | assumption | apply guardEv_memOk | apply armedTake_memOk

theorem armWrite_memOk (d vif : Nat) (v : Dword) (s : State) (h1 : MemOk s) :
    MemOk (armWrite d vif v s) := by
  unfold armWrite
  try dsimp only
  repeat' with_reducible
    first
    | assumption | (intro _) | apply State.modDev_memOk | apply cohLeave_memOk | apply memOk_mem | apply memOk_ite
    | simp only [↓memOk_mk] | split

theorem execArmaddrWrite_memOk (d vif : Nat) (v : BitVec 64) (s : State) (h1 : MemOk s) :
    OutOk (execArmaddrWrite d vif v s) := by
  unfold execArmaddrWrite
  try dsimp only
  repeat' with_reducible first | assumption | apply armWrite_memOk | apply outOk_next

theorem execIllegalInstruction_memOk (cause : BitVec 8) (s : State) (h1 : MemOk s) :
    OutOk (execIllegalInstruction cause s) := by
  unfold execIllegalInstruction
  try dsimp only
  repeat' with_reducible first | assumption | apply takeTrap_memOk | apply outOk_next

theorem execInstructionFetchFault_memOk (code : BitVec 8) (va : BitVec 64) (inRange tpoi : Bool) (s : State) (h1 :
    MemOk s) :
    OutOk (execInstructionFetchFault code va inRange tpoi s) := by
  unfold execInstructionFetchFault
  try dsimp only
  repeat' with_reducible
    first
    | assumption | apply takeTrap_memOk | apply parkReport_memOk | apply memOk_ite | apply outOk_ite
    | apply outOk_next

theorem trapEntryDone_memOk (g : Nat) (s : State) (h1 : MemOk s) :
    MemOk (trapEntryDone g s) := by
  unfold trapEntryDone
  try dsimp only
  repeat' with_reducible
    first
    | assumption | apply State.modGrp_memOk | apply State.perf_memOk | apply takeTrap_memOk | apply memOk_mem
    | apply memOk_ite | split

theorem execTrapEntry_memOk (g : Nat) (s : State) (h1 : MemOk s) :
    OutOk (execTrapEntry g s) := by
  unfold execTrapEntry
  try dsimp only
  repeat' with_reducible first | assumption | apply guardEv_memOk | apply trapEntryDone_memOk

theorem endLaunch_memOk (l st : Nat) (s : State) (h1 : MemOk s) :
    MemOk (endLaunch l st s) := by
  unfold endLaunch
  try dsimp only
  repeat' with_reducible
    first
    | assumption | (intro _) | apply State.modPart_memOk | apply State.modCmd_memOk | apply State.modNode_memOk
    | apply memOk_mem | simp only [↓memOk_mk] | split

theorem finishLaunch_memOk (l : Nat) (s : State) (h1 : MemOk s) :
    MemOk (finishLaunch l s) := by
  unfold finishLaunch
  try dsimp only
  repeat' with_reducible
    first
    | assumption | (intro _) | apply State.modCmd_memOk | apply State.modNode_memOk | apply memOk_mem
    | apply memOk_ite | simp only [↓memOk_mk] | split

theorem teamSettle_memOk (t : Nat) (s : State) (h1 : MemOk s) :
    MemOk (teamSettle t s) := by
  unfold teamSettle
  try dsimp only
  repeat' with_reducible
    first
    | assumption | (intro _) | apply State.modCont_memOk | apply dropCont_memOk | apply memOk_mem | apply memOk_ite
    | apply memClear_wf | simp only [↓memOk_mk]

theorem teamRetire_memOk (t : Nat) (s : State) (h1 : MemOk s) :
    MemOk (teamRetire t s) := by
  unfold teamRetire
  try dsimp only
  repeat' with_reducible
    first
    | assumption | (intro _) | apply State.modLaunch_memOk | apply finishLaunch_memOk | apply teamSettle_memOk
    | apply memOk_mem | apply memOk_ite

theorem takeRoots_memOk (g : Nat) : ∀ (s : State) (n : Nat), MemOk s → MemOk (takeRoots g s n)
  | _, 0, h => h
  | s, n + 1, h => takeRoots_memOk g _ n (rootPush_memOk g s h)

theorem groupRetire_memOk (g : Nat) (s : State) (h1 : MemOk s) :
    MemOk (groupRetire g s) := by
  unfold groupRetire
  try dsimp only
  repeat' with_reducible
    first
    | assumption | (intro _) | apply State.modGrp_memOk | apply State.modTeam_memOk | apply takeTrap_memOk
    | apply teamRetire_memOk | apply takeRoots_memOk | apply memOk_mem | apply memOk_ite | simp only [↓memOk_mk]
    | split

theorem execGroupRetirement_memOk (g : Nat) (s : State) (h1 : MemOk s) :
    OutOk (execGroupRetirement g s) := by
  unfold execGroupRetirement
  try dsimp only
  repeat' with_reducible first | assumption | apply guardEv_memOk | apply groupRetire_memOk

theorem openLaunch_memOk (l : Nat) (s : State) (h : MemOk s) : OptOk (openLaunch l s) := by
  unfold openLaunch
  dsimp only
  split
  · trivial
  · exact endLaunch_memOk l 0x11 s h
  · split
    · exact endLaunch_memOk l 0x11 s h
    · exact memOk_ite (endLaunch_memOk _ _ _ h) h

theorem releaseBank_memOk (core b : Nat) (s : State) (h1 : MemOk s) :
    MemOk (releaseBank core b s) := by
  unfold releaseBank
  try dsimp only
  repeat' with_reducible first | assumption | (intro _) | apply State.modCore_memOk | apply State.modCont_memOk

theorem spillBank_memOk (core b : Nat) (s : State) (h1 : MemOk s) :
    MemOk (spillBank core b s) := by
  unfold spillBank
  try dsimp only
  repeat' with_reducible first | assumption | (intro _) | apply State.modCore_memOk

theorem askSwap_memOk (core b : Nat) (s : State) (h1 : MemOk s) :
    MemOk (askSwap core b s) := by
  unfold askSwap
  try dsimp only
  repeat' with_reducible
    first
    | assumption | (intro _) | apply State.modCore_memOk | apply memOk_mem | apply memOk_ite | apply memOk_foldl

theorem prepBank_memOk (core b : Nat) (s : State) (h : MemOk s) : OptOk (prepBank core b s) := by
  unfold prepBank
  split
  · exact optOk_ite trivial (askSwap_memOk core (1 - b) s h)
  · exact optOk_ite (spillBank_memOk core b s h) trivial
  · trivial

theorem prepSpot_memOk (y : Spot) (s : State) (h : MemOk s) : OptOk (prepSpot y s) := by
  unfold prepSpot
  suffices ∀ (l : List Nat) (m : Option State), OptOk m → OptOk (l.foldl (fun (m : Option State) k =>
      match prepBank k y.bank (m.getD s) with | some t => some t | none => m) m) from this y.cores none trivial
  intro l
  induction l with
  | nil => exact fun _ hm => hm
  | cons k t ih =>
    intro m hm
    refine ih _ ?_
    have hd : MemOk (m.getD s) := getD_memOk hm h
    have hp := prepBank_memOk k y.bank (m.getD s) hd
    dsimp only
    split
    · next t ht => rwa [ht] at hp
    · exact hm

theorem zeroBank_memOk (k : Nat) (s : State) (h1 : MemOk s) :
    MemOk (zeroBank k s) := by
  unfold zeroBank
  try dsimp only
  repeat' with_reducible
    first
    | assumption | (intro _) | apply State.modCont_memOk | apply memOk_mem | apply memClear_wf
    | simp only [↓memOk_mk]

theorem loadSlice_memOk (core b : Nat) (s : State) (h1 : MemOk s) :
    MemOk (loadSlice core b s) := by
  unfold loadSlice
  try dsimp only
  repeat' with_reducible first | assumption | (intro _) | apply State.modCore_memOk

theorem openBank_memOk (d p asid core b : Nat) (s : State) (h1 : MemOk s) :
    MemOk (openBank d p asid core b s).1 := by
  unfold openBank
  try dsimp only
  repeat' with_reducible
    first
    | assumption | (intro _) | apply State.modCore_memOk | apply State.fresh_memOk | apply loadSlice_memOk
    | apply memOk_mem | apply memOk_ite | apply memOk_ite1 | simp only [↓memOk_mk]

theorem launchAcquire_memOk (core : Nat) (s : State) (h1 : MemOk s) :
    MemOk (launchAcquire core s) := by
  unfold launchAcquire
  try dsimp only
  repeat' with_reducible
    first
    | assumption | (intro _) | apply State.modPart_memOk | apply State.modCore_memOk | apply landEditions_memOk

theorem placeTeam_memOk (l core b idx cls : Nat) (s : State) (h1 : MemOk s) :
    MemOk (placeTeam l core b idx cls s) := by
  unfold placeTeam
  try dsimp only
  repeat' with_reducible
    first
    | assumption | (intro _) | apply State.modCont_memOk | apply zeroBank_memOk | apply openBank_memOk
    | apply launchAcquire_memOk | apply memOk_mem | apply memOk_ite | apply memOk_foldl | apply memOk_foldl1
    | apply memOk_foldl2 | apply memFold_wf | simp only [↓memOk_mk]

theorem preferBank_memOk (core b : Nat) (s : State) (h1 : MemOk s) :
    MemOk (preferBank core b s) := by
  unfold preferBank
  try dsimp only
  repeat' with_reducible first | assumption | apply askSwap_memOk | apply memOk_ite

theorem placeCluster_memOk (l cls : Nat) (y : Spot) (s : State) (h1 : MemOk s) :
    MemOk (placeCluster l cls y s) := by
  unfold placeCluster
  try dsimp only
  repeat' with_reducible
    first
    | assumption | (intro _) | apply State.modPart_memOk | apply State.modLaunch_memOk | apply releaseBank_memOk
    | apply placeTeam_memOk | apply preferBank_memOk | apply memOk_mem | apply memOk_ite | apply memOk_foldl

theorem placeOne_memOk (l : Nat) (banks : List Nat) (s : State) (h : MemOk s) : OptOk ((placeOne l banks s).map
    Prod.fst) := by
  unfold placeOne
  dsimp only
  split
  · trivial
  · next y _ =>
    split
    · exact placeCluster_memOk _ _ _ s h
    · have k := prepSpot_memOk y s h
      revert k
      cases prepSpot y s <;> exact id

theorem placeAll_memOk (l b : Nat) (s0 : State) (h0 : MemOk s0) :
    ∀ (n : Nat) (s : State), MemOk s → OptOk ((placeAll l b s0 n s).map Prod.fst)
  | 0, _, h => h
  | n + 1, s, h => by
    unfold placeAll
    dsimp only
    split
    · exact h
    · split
      · trivial
      · next y _ =>
        split
        · exact placeAll_memOk l b s0 h0 n _ (placeCluster_memOk _ _ _ s h)
        · have k := prepSpot_memOk y s0 h0
          revert k
          cases prepSpot y s0 <;> exact id

theorem dealLaunch_memOk (l : Nat) (s : State) (h : MemOk s) : OptOk (dealLaunch l s) := by
  unfold dealLaunch
  dsimp only
  have a := placeAll_memOk l 0 s h (s.launch l).nteams s h
  have b := placeAll_memOk l 1 s h (s.launch l).nteams s h
  split
  · exact openLaunch_memOk l s h
  · split
    · generalize placeAll l 0 s (s.launch l).nteams s = x at a ⊢
      generalize placeAll l 1 s (s.launch l).nteams s = y at b ⊢
      split <;> first | exact a | exact b | trivial
    · exact placeOne_memOk l [0, 1] s h

theorem dealContext_memOk (d p asid : Nat) (s : State) (h : MemOk s) : OptOk (dealContext d p asid s) := by
  unfold dealContext
  split
  · trivial
  · split
    · next y _ =>
      refine optOk_ite trivial (optOk_ite ?_ (prepSpot_memOk y s h))
      exact memOk_foldl _ _ s h fun t c ht => releaseBank_memOk c y.bank t ht
    · trivial

theorem deal_memOk (d p : Nat) (s : State) (h : MemOk s) : OptOk (deal d p s) := by
  unfold deal
  dsimp only
  refine optOk_ite trivial ?_
  split
  · exact dealLaunch_memOk _ s h
  · exact dealContext_memOk d p _ s h
  · trivial

theorem execTeamPlacement_memOk (d p : Nat) (s : State) (h : MemOk s) : OutOk (execTeamPlacement d p s) :=
  guardEv_memOk _ _ (getD_memOk (deal_memOk d p s h) h)

theorem swapIn_memOk (k : Nat) (s : State) (h1 : MemOk s) :
    MemOk (swapIn k s) := by
  unfold swapIn
  try dsimp only
  repeat' with_reducible
    first
    | assumption | (intro _) | apply State.modGrp_memOk | apply State.modTeam_memOk | apply wakeGroup_memOk
    | apply memOk_mem | apply memOk_foldl

theorem swapOne_memOk (core b : Nat) (s : State) (h1 : MemOk s) :
    MemOk (swapOne core b s) := by
  unfold swapOne
  try dsimp only
  repeat' with_reducible
    first
    | assumption | (intro _) | apply State.modCore_memOk | apply State.perf_memOk | apply loadSlice_memOk
    | apply swapIn_memOk | apply memOk_mem | apply memOk_ite

theorem swapBank_memOk (core : Nat) (s : State) (h1 : MemOk s) :
    MemOk (swapBank core s) := by
  unfold swapBank
  try dsimp only
  repeat' with_reducible
    first
    | assumption | (intro _) | apply swapOne_memOk | apply memOk_mem | apply memOk_foldl | apply memOk_foldl1
    | apply memOk_foldl2 | apply memFold_wf | split

theorem execBankSwap_memOk (core : Nat) (s : State) (h1 : MemOk s) :
    OutOk (execBankSwap core s) := by
  unfold execBankSwap
  try dsimp only
  repeat' with_reducible first | assumption | apply guardEv_memOk | apply swapBank_memOk

theorem sliceEnd_memOk (core b : Nat) (s : State) (h1 : MemOk s) :
    MemOk (sliceEnd core b s) := by
  unfold sliceEnd
  try dsimp only
  repeat' with_reducible
    first
    | assumption | (intro _) | apply State.modCore_memOk | apply askSwap_memOk | apply loadSlice_memOk
    | apply memOk_mem | apply memOk_ite

theorem execSliceExpiry_memOk (core bank : Nat) (s : State) (h1 : MemOk s) :
    OutOk (execSliceExpiry core bank s) := by
  unfold execSliceExpiry
  try dsimp only
  repeat' with_reducible first | assumption | apply guardEv_memOk | apply sliceEnd_memOk

theorem execSpillStart_memOk (core bank : Nat) (s : State) (h1 : MemOk s) :
    OutOk (execSpillStart core bank s) := by
  unfold execSpillStart
  try dsimp only
  repeat' with_reducible first | assumption | apply guardEv_memOk | apply spillBank_memOk

theorem execSpillComplete_memOk (core bank : Nat) (s : State) (h1 : MemOk s) :
    OutOk (execSpillComplete core bank s) := by
  unfold execSpillComplete
  try dsimp only
  repeat' with_reducible first | assumption | (intro _) | apply State.modCore_memOk | apply guardEv_memOk

theorem copyOut_memOk (core : Nat) (s : State) (h1 : MemOk s) :
    MemOk (copyOut core s) := by
  unfold copyOut
  try dsimp only
  repeat' with_reducible
    first
    | assumption | (intro _) | apply State.modCore_memOk | apply State.modCont_memOk | apply memOk_mem
    | simp only [↓memOk_mk] | split

theorem execImageCopyOut_memOk (core : Nat) (s : State) (h1 : MemOk s) :
    OutOk (execImageCopyOut core s) := by
  unfold execImageCopyOut
  try dsimp only
  repeat' with_reducible first | assumption | apply guardEv_memOk | apply copyOut_memOk

theorem execImageCopyIn_memOk (k core : Nat) (s : State) (h1 : MemOk s) :
    OutOk (execImageCopyIn k core s) := by
  unfold execImageCopyIn
  try dsimp only
  repeat' with_reducible
    first
    | assumption | (intro _) | apply State.modCore_memOk | apply State.modCont_memOk | apply guardEv_memOk

theorem fillBank_memOk (core b : Nat) (s : State) (h1 : MemOk s) :
    MemOk (fillBank core b s) := by
  unfold fillBank
  try dsimp only
  repeat' with_reducible
    first
    | assumption | (intro _) | apply State.modCore_memOk | apply State.modCont_memOk | apply drainCore_memOk
    | apply bumpDev_memOk | apply preferBank_memOk | apply memOk_mem | apply memOk_ite

theorem fillBegin_memOk (core b : Nat) (s : State) (h1 : MemOk s) :
    MemOk (fillBegin core b s) := by
  unfold fillBegin
  try dsimp only
  repeat' with_reducible first | assumption | (intro _) | apply State.modCore_memOk

theorem execFill_memOk (core bank : Nat) (s : State) (h1 : MemOk s) :
    OutOk (execFill core bank s) := by
  unfold execFill
  try dsimp only
  repeat' with_reducible
    first
    | assumption | apply guardEv_memOk | apply fillBank_memOk | apply fillBegin_memOk | apply memOk_ite

theorem execKill_memOk (d asid : Nat) (s : State) (h1 : MemOk s) :
    OutOk (execKill d asid s) := by
  unfold execKill
  try dsimp only
  repeat' with_reducible
    first
    | assumption | (intro _) | apply State.modCtx_memOk | apply memOk_mem | apply outOk_next

theorem execContextEnd_memOk (d asid : Nat) (s : State) (h1 : MemOk s) :
    OutOk (execContextEnd d asid s) := by
  unfold execContextEnd
  try dsimp only
  repeat' with_reducible first | assumption | apply endContext_memOk | apply guardEv_memOk

theorem quietOps_memOk (g : Nat) (ks : List Nat) (s : State) (h1 : MemOk s) :
    MemOk (quietOps g ks s).2 := by
  unfold quietOps
  try dsimp only
  repeat' with_reducible
    first
    | assumption | (intro _) | apply State.modGrp_memOk | apply State.modCont_memOk | apply memOk_mem
    | apply memOk_ite | apply memOk_ite2 | apply memOk_foldl | apply memOk_foldl1 | apply memOk_foldl2
    | apply memFold_wf | simp only [↓memOk_mk]

theorem repairGroup_memOk (g k : Nat) (s : State) (h1 : MemOk s) :
    MemOk (repairGroup g k s) := by
  unfold repairGroup
  try dsimp only
  repeat' with_reducible first | assumption | (intro _) | apply State.modGrp_memOk | apply quietOps_memOk

theorem repairTeam_memOk (t k : Nat) (s : State) (h1 : MemOk s) :
    MemOk (repairTeam t k s) := by
  unfold repairTeam
  try dsimp only
  repeat' with_reducible
    first
    | assumption | (intro _) | apply State.modGrp_memOk | apply State.modTeam_memOk | apply memOk_mem
    | apply memOk_foldl

theorem repairInner_memOk (d p link : Nat) (s : State) (h1 : MemOk s) :
    MemOk (repairInner d p link s) := by
  unfold repairInner
  try dsimp only
  repeat' with_reducible
    first
    | assumption | (intro _) | apply State.modDev_memOk | apply State.modPart_memOk | apply State.modGrp_memOk
    | apply memOk_mem | apply memOk_ite | apply memOk_foldl | apply memOk_foldl1 | apply memOk_foldl2
    | apply memFold_wf | simp only [↓memOk_mk]

theorem auditLinks_memOk (d : Nat) (s : State) (h1 : MemOk s) :
    MemOk (auditLinks d s) := by
  unfold auditLinks
  try dsimp only
  repeat' with_reducible
    first
    | assumption | (intro _) | apply State.modDev_memOk | apply repairGroup_memOk | apply repairTeam_memOk
    | apply repairInner_memOk | apply memOk_mem | apply memOk_ite | apply memOk_foldl

theorem execAudit_memOk (d : Nat) (s : State) (h1 : MemOk s) :
    OutOk (execAudit d s) := by
  unfold execAudit
  try dsimp only
  repeat' with_reducible first | assumption | apply guardEv_memOk | apply auditLinks_memOk

theorem sendImages_memOk (d asid : Nat) (s : State) (h1 : MemOk s) :
    MemOk (sendImages d asid s) := by
  unfold sendImages
  try dsimp only
  repeat' with_reducible
    first
    | assumption | (intro _) | apply State.modCont_memOk | apply State.modCtx_memOk | apply vacate_memOk
    | apply memOk_mem | apply memOk_ite | apply memOk_foldl

theorem migStart_memOk (d asid : Nat) (v : Dword) (s : State) (h1 : MemOk s) :
    MemOk (migStart d asid v s) := by
  unfold migStart
  try dsimp only
  repeat' with_reducible
    first
    | assumption | (intro _) | apply State.modCtx_memOk | apply sendImages_memOk | apply memOk_mem | apply memOk_ite

theorem execMigctlGo_memOk (d asid : Nat) (v : BitVec 64) (s : State) (h1 : MemOk s) :
    OutOk (execMigctlGo d asid v s) := by
  unfold execMigctlGo
  try dsimp only
  repeat' with_reducible first | assumption | apply guardEv_memOk | apply migStart_memOk

theorem moveWork_memOk (d asid D P A : Nat) (s : State) (h1 : MemOk s) :
    MemOk (moveWork d asid D P A s) := by
  unfold moveWork
  try dsimp only
  repeat' with_reducible
    first
    | assumption | (intro _) | apply State.modPart_memOk | apply memOk_mem | apply memOk_ite | simp only [↓memOk_mk]

theorem moveDone_memOk (d asid : Nat) (s : State) (h1 : MemOk s) :
    MemOk (moveDone d asid s) := by
  unfold moveDone
  try dsimp only
  repeat' with_reducible
    first
    | assumption | (intro _) | apply State.modGrp_memOk | apply State.modCont_memOk | apply State.modCtx_memOk
    | apply moveWork_memOk | apply memOk_mem | apply memOk_foldl

theorem execTenantMoveComplete_memOk (d asid : Nat) (s : State) (h1 : MemOk s) :
    OutOk (execTenantMoveComplete d asid s) := by
  unfold execTenantMoveComplete
  try dsimp only
  repeat' with_reducible
    first
    | assumption | (intro _) | apply guardEv_memOk | apply sendImages_memOk | apply moveDone_memOk

theorem moveFailed_memOk (d asid : Nat) (s : State) (h1 : MemOk s) :
    MemOk (moveFailed d asid s) := by
  unfold moveFailed
  try dsimp only
  repeat' with_reducible
    first
    | assumption | (intro _) | apply State.modCont_memOk | apply State.modCtx_memOk | apply memOk_mem
    | apply memOk_ite | apply memOk_foldl | apply memOk_foldl1 | apply memOk_foldl2 | apply memFold_wf
    | simp only [↓memOk_mk] | split

theorem execTenantMoveFailed_memOk (d asid : Nat) (s : State) (h1 : MemOk s) :
    OutOk (execTenantMoveFailed d asid s) := by
  unfold execTenantMoveFailed
  try dsimp only
  repeat' with_reducible first | assumption | apply guardEv_memOk | apply moveFailed_memOk

theorem execPacketReceive_memOk (d plane : Nat) (seq : BitVec 16) (room : Bool) (e2e : Nat) (s : State) (h1 : MemOk
    s) :
    OutOk (execPacketReceive d plane seq room e2e s) := by
  unfold execPacketReceive
  try dsimp only
  repeat' with_reducible first | assumption | apply State.modDev_memOk | apply guardEv_memOk

theorem execAcknowledgement_memOk (d plane : Nat) (seq : BitVec 16) (s : State) (h1 : MemOk s) :
    OutOk (execAcknowledgement d plane seq s) := by
  unfold execAcknowledgement
  try dsimp only
  repeat' with_reducible first | assumption | apply State.modDev_memOk | apply guardEv_memOk

theorem execNegativeAcknowledgement_memOk (d plane : Nat) (_seq : BitVec 16) (s : State) (h1 : MemOk s) :
    OutOk (execNegativeAcknowledgement d plane _seq s) := by
  unfold execNegativeAcknowledgement
  try dsimp only
  repeat' with_reducible first | assumption | apply State.modDev_memOk | apply guardEv_memOk

theorem execLinkRetrain_memOk (d plane : Nat) (s : State) (h1 : MemOk s) :
    OutOk (execLinkRetrain d plane s) := by
  unfold execLinkRetrain
  try dsimp only
  repeat' with_reducible first | assumption | apply State.modDev_memOk | apply guardEv_memOk

theorem dropSpans_memOk (d why : Nat) (s : State) (h1 : MemOk s) :
    MemOk (dropSpans d why s) := by
  unfold dropSpans
  try dsimp only
  repeat' with_reducible first | assumption | (intro _) | apply memOk_mem | apply memOk_ite | simp only [↓memOk_mk]

theorem dropTasks_memOk (d q : Nat) (s : State) (h1 : MemOk s) :
    MemOk (dropTasks d q s) := by
  unfold dropTasks
  try dsimp only
  repeat' with_reducible first | assumption | (intro _) | apply memOk_mem | apply memOk_ite | simp only [↓memOk_mk]

theorem peerGone_memOk (d q : Nat) (s : State) (h1 : MemOk s) :
    MemOk (peerGone d q s) := by
  unfold peerGone
  try dsimp only
  repeat' with_reducible
    first
    | assumption | (intro _) | apply State.modDev_memOk | apply homeSettle_memOk | apply dropSpans_memOk
    | apply dropTasks_memOk | apply memOk_mem | apply memOk_ite | apply memOk_foldl | apply memOk_foldl1
    | apply memOk_foldl2 | apply memFold_wf | simp only [↓memOk_mk]

theorem execPeerUnreachable_memOk (d q : Nat) (s : State) (h1 : MemOk s) :
    OutOk (execPeerUnreachable d q s) := by
  unfold execPeerUnreachable
  try dsimp only
  repeat' with_reducible first | assumption | apply guardEv_memOk | apply peerGone_memOk

theorem execPeerAdmitted_memOk (d q : Nat) (s : State) (h1 : MemOk s) :
    OutOk (execPeerAdmitted d q s) := by
  unfold execPeerAdmitted
  try dsimp only
  repeat' with_reducible first | assumption | (intro _) | apply State.modDev_memOk | apply guardEv_memOk

theorem execMirrorUpdate_memOk (n : Nat) (s : State) (h1 : MemOk s) :
    OutOk (execMirrorUpdate n s) := by
  unfold execMirrorUpdate
  try dsimp only
  repeat' with_reducible first | assumption | apply guardEv_memOk | apply mirrorApply_memOk | split

theorem switchGone_memOk (w : Nat) (s : State) (h1 : MemOk s) :
    MemOk (switchGone w s) := by
  unfold switchGone
  try dsimp only
  repeat' with_reducible
    first
    | assumption | (intro _) | apply mirrorApply_memOk | apply memOk_mem | apply memOk_ite | apply memOk_foldl
    | apply memOk_foldl1 | apply memOk_foldl2 | apply memFold_wf | simp only [↓memOk_mk]

theorem switchLearn_memOk (d w : Nat) (s : State) (h1 : MemOk s) :
    MemOk (switchLearn d w s) := by
  unfold switchLearn
  try dsimp only
  repeat' with_reducible
    first
    | assumption | (intro _) | apply State.modDev_memOk | apply dropSpans_memOk | apply switchGone_memOk
    | apply memOk_mem | apply memOk_ite

theorem execSwitchLoss_memOk (d sw : Nat) (s : State) (h1 : MemOk s) :
    OutOk (execSwitchLoss d sw s) := by
  unfold execSwitchLoss
  try dsimp only
  repeat' with_reducible first | assumption | apply guardEv_memOk | apply switchLearn_memOk

theorem switchBack_memOk (w : Nat) (rows : List (Nat × Dword)) (s : State) (h1 : MemOk s) :
    MemOk (switchBack w rows s) := by
  unfold switchBack
  try dsimp only
  repeat' with_reducible
    first
    | assumption | (intro _) | apply memOk_mem | apply memOk_ite | apply memOk_foldl | apply memOk_foldl1
    | apply memOk_foldl2 | apply memFold_wf | apply memClear_wf | simp only [↓memOk_mk]

theorem execSwitchReturn_memOk (sw : Nat) (rows : List (Nat × BitVec 64)) (s : State) (h1 : MemOk s) :
    OutOk (execSwitchReturn sw rows s) := by
  unfold execSwitchReturn
  try dsimp only
  repeat' with_reducible first | assumption | apply guardEv_memOk | apply switchBack_memOk

theorem execDcAddExtent_memOk (d p tenant base len : Nat) (s : State) (h1 : MemOk s) :
    OutOk (execDcAddExtent d p tenant base len s) := by
  unfold execDcAddExtent
  try dsimp only
  repeat' with_reducible
    first
    | assumption | (intro _) | apply State.modDev_memOk | apply guardEv_memOk | apply memOk_mem | apply memOk_ite

theorem execDcReleaseRequest_memOk (d n : Nat) (s : State) (h1 : MemOk s) :
    OutOk (execDcReleaseRequest d n s) := by
  unfold execDcReleaseRequest
  try dsimp only
  repeat' with_reducible first | assumption | (intro _) | apply State.modDev_memOk | apply guardEv_memOk

theorem zeroRange_memOk (lo hi : Nat) (s : State) (h1 : MemOk s) :
    MemOk (zeroRange lo hi s) := by
  unfold zeroRange
  try dsimp only
  repeat' with_reducible first | assumption | (intro _) | apply memOk_mem | apply memClear_wf | simp only [↓memOk_mk]

theorem releaseExtent_memOk (d n : Nat) (s : State) (h1 : MemOk s) :
    MemOk (releaseExtent d n s) := by
  unfold releaseExtent
  try dsimp only
  repeat' with_reducible
    first
    | assumption | (intro _) | apply State.modDev_memOk | apply zeroRange_memOk | apply memOk_mem
    | simp only [↓memOk_mk] | split

theorem execDcReleaseResponse_memOk (d n : Nat) (s : State) (h1 : MemOk s) :
    OutOk (execDcReleaseResponse d n s) := by
  unfold execDcReleaseResponse
  try dsimp only
  repeat' with_reducible first | assumption | (intro _) | apply guardEv_memOk | apply releaseExtent_memOk

theorem withMarks_memOk (i : Instr) (f : State → Out) (s : State) (h1 : ∀ (x0 : State), MemOk x0 → OutOk (f x0)) (h2
    : MemOk s) :
    OutOk (withMarks i f s) := by
  unfold withMarks
  try dsimp only
  repeat' with_reducible
    first
    | assumption | (intro _) | apply h1 | apply State.modG_memOk | apply poisonTrap_memOk | apply memOk_mem
    | apply memOk_ite | apply outOk_ite | apply outOk_next

theorem countUe_memOk (d : Nat) (o : Option (Nat × Nat)) (s : State) (h1 : MemOk s) :
    MemOk (countUe d o s) := by
  unfold countUe
  try dsimp only
  repeat' with_reducible
    first
    | assumption | (intro _) | apply State.modDev_memOk | apply State.modPart_memOk | apply memOk_mem
    | simp only [↓memOk_mk] | split

theorem sectorError_memOk (d sec : Nat) (tag : Bool) (s : State) (h1 : MemOk s) :
    MemOk (sectorError d sec tag s) := by
  unfold sectorError
  try dsimp only
  repeat' with_reducible
    first
    | assumption | apply poisonSectors_memOk | apply countUe_memOk | apply memOk_mem | apply memOk_ite
    | simp only [↓memOk_mk]

theorem copyError_memOk (d p line : Nat) (s : State) (h1 : MemOk s) :
    MemOk (copyError d p line s) := by
  unfold copyError
  try dsimp only
  repeat' with_reducible first | assumption | (intro _) | apply State.modPart_memOk | apply countUe_memOk

theorem l1Error_memOk (core line : Nat) (s : State) (h1 : MemOk s) :
    MemOk (l1Error core line s) := by
  unfold l1Error
  try dsimp only
  repeat' with_reducible first | assumption | (intro _) | apply State.modCore_memOk

theorem tlbError_memOk (d p n : Nat) (s : State) (h1 : MemOk s) :
    MemOk (tlbError d p n s) := by
  unfold tlbError
  try dsimp only
  repeat' with_reducible first | assumption | (intro _) | apply State.modPart_memOk

theorem wordError_memOk (g k : Nat) (s : State) (h1 : MemOk s) :
    MemOk (wordError g k s) := by
  unfold wordError
  try dsimp only
  repeat' with_reducible
    first
    | assumption | (intro _) | apply State.modGrp_memOk | apply countUe_memOk | apply memOk_mem | apply memOk_ite

theorem scalarWordError_memOk (g k : Nat) (s : State) (h1 : MemOk s) :
    MemOk (scalarWordError g k s) := by
  unfold scalarWordError
  try dsimp only
  repeat' with_reducible
    first
    | assumption | (intro _) | apply State.modGrp_memOk | apply countUe_memOk | apply memOk_mem | apply memOk_ite

theorem operandError_memOk (cid b : Nat) (s : State) (h1 : MemOk s) :
    MemOk (operandError cid b s) := by
  unfold operandError
  try dsimp only
  repeat' with_reducible first | assumption | apply poisonSectors_memOk | apply countUe_memOk

theorem accError_memOk (cid b : Nat) (s : State) (h1 : MemOk s) :
    MemOk (accError cid b s) := by
  unfold accError
  try dsimp only
  repeat' with_reducible
    first
    | assumption | (intro _) | apply State.modCont_memOk | apply countUe_memOk | apply memOk_mem | apply memPutLe_wf
    | simp only [↓memOk_mk]

theorem queueError_memOk (g k j : Nat) (s : State) (h1 : MemOk s) :
    MemOk (queueError g k j s) := by
  unfold queueError
  try dsimp only
  repeat' with_reducible
    first
    | assumption | (intro _) | apply State.modGrp_memOk | apply State.modCont_memOk | apply putQ_memOk
    | apply countUe_memOk | apply memOk_mem | apply memOk_ite | simp only [↓memOk_mk] | split

theorem permitError_memOk (g k : Nat) (s : State) (h1 : MemOk s) :
    MemOk (permitError g k s) := by
  unfold permitError
  try dsimp only
  repeat' with_reducible
    first
    | assumption | (intro _) | apply State.modGrp_memOk | apply State.modTeam_memOk | apply memOk_mem
    | apply memOk_ite

theorem innerPermitError_memOk (d off : Nat) (s : State) (h1 : MemOk s) :
    MemOk (innerPermitError d off s) := by
  unfold innerPermitError
  try dsimp only
  repeat' with_reducible first | assumption | (intro _) | apply State.modDev_memOk | apply memOk_mem | apply memOk_ite

theorem barError_memOk (t k : Nat) (s : State) (h1 : MemOk s) :
    MemOk (barError t k s) := by
  unfold barError
  try dsimp only
  repeat' with_reducible first | assumption | (intro _) | apply State.modTeam_memOk | apply countUe_memOk

theorem engineError_memOk (u : Nat) (s : State) (h1 : MemOk s) :
    MemOk (engineError u s) := by
  unfold engineError
  try dsimp only
  repeat' with_reducible
    first
    | assumption | (intro _) | apply State.modCmd_memOk | apply countUe_memOk | apply memOk_mem | apply memOk_ite
    | simp only [↓memOk_mk] | split

theorem storeError_memOk (d k off : Nat) (x : Dword) (s : State) (h1 : MemOk s) :
    MemOk (storeError d k off x s) := by
  unfold storeError
  try dsimp only
  repeat' with_reducible
    first
    | assumption | (intro _) | apply State.modPart_memOk | apply sectorError_memOk | apply copyError_memOk
    | apply l1Error_memOk | apply tlbError_memOk | apply wordError_memOk | apply scalarWordError_memOk
    | apply operandError_memOk | apply accError_memOk | apply queueError_memOk | apply permitError_memOk
    | apply innerPermitError_memOk | apply barError_memOk | apply engineError_memOk | apply memOk_mem
    | simp only [↓memOk_mk] | split

theorem ctlWrite_memOk (d p off : Nat) (x : Dword) (s : State) (h1 : MemOk s) :
    MemOk (ctlWrite d p off x s) := by
  unfold ctlWrite
  try dsimp only
  repeat' with_reducible
    first
    | assumption | (intro _) | apply State.modDev_memOk | apply State.modPart_memOk | apply State.modCore_memOk
    | apply State.modCtx_memOk | apply memOk_mem | apply memOk_ite | simp only [↓memOk_mk] | split

theorem regWrite_memOk (d p sp off : Nat) (x : Dword) (s : State) (h1 : MemOk s) :
    MemOk (regWrite d p sp off x s) := by
  unfold regWrite
  try dsimp only
  repeat' with_reducible
    first
    | assumption | (intro _) | apply State.modDev_memOk | apply storeError_memOk | apply ctlWrite_memOk
    | apply memOk_mem | apply memOk_ite | simp only [↓memOk_mk] | split

theorem execCxlMemAccess_memOk (d p port off len : Nat) (data : List (BitVec 8)) (s : State) (h1 : MemOk s) :
    OutOk (execCxlMemAccess d p port off len data s) := by
  unfold execCxlMemAccess
  try dsimp only
  repeat' with_reducible
    first
    | assumption | apply guardEv_memOk | apply State.modDev_memOk | apply hostAccess_memOk | apply generalFence_memOk
    | apply generalStep_memOk | apply memOk_mem | simp only [↓memOk_mk] | split

theorem execRegisterWrite_memOk (d p sp off : Nat) (v : BitVec 64) (s : State) (h1 : MemOk s) :
    OutOk (execRegisterWrite d p sp off v s) := by
  unfold execRegisterWrite
  try dsimp only
  repeat' with_reducible first | assumption | apply guardEv_memOk | apply regWrite_memOk

theorem execViralIndication_memOk (d port : Nat) (s : State) (h1 : MemOk s) :
    OutOk (execViralIndication d port s) := by
  unfold execViralIndication
  try dsimp only
  repeat' with_reducible first | assumption | (intro _) | apply State.modDev_memOk | apply guardEv_memOk

theorem execCxlReset_memOk (d port : Nat) (s : State) (h1 : MemOk s) :
    OutOk (execCxlReset d port s) := by
  unfold execCxlReset
  try dsimp only
  repeat' with_reducible first | assumption | (intro _) | apply State.modDev_memOk | apply guardEv_memOk

theorem execViralClear_memOk (d port : Nat) (s : State) (h1 : MemOk s) :
    OutOk (execViralClear d port s) := by
  unfold execViralClear
  try dsimp only
  repeat' with_reducible
    first
    | assumption | (intro _) | apply State.modDev_memOk | apply guardEv_memOk | apply memOk_mem | apply memOk_ite

theorem execHostLinkTrained_memOk (d port : Nat) (up : Bool) (s : State) (h1 : MemOk s) :
    OutOk (execHostLinkTrained d port up s) := by
  unfold execHostLinkTrained
  try dsimp only
  repeat' with_reducible first | assumption | (intro _) | apply State.modDev_memOk | apply guardEv_memOk

theorem clearStart_memOk (d p : Nat) (v : Dword) (s : State) (h1 : MemOk s) :
    MemOk (clearStart d p v s) := by
  unfold clearStart
  try dsimp only
  repeat' with_reducible
    first
    | assumption | (intro _) | apply State.modPart_memOk | apply homeStart_memOk | apply memOk_mem | apply memOk_ite
    | simp only [↓memOk_mk] | split

theorem execLineclrGo_memOk (d p : Nat) (v : BitVec 64) (s : State) (h1 : MemOk s) :
    OutOk (execLineclrGo d p v s) := by
  unfold execLineclrGo
  try dsimp only
  repeat' with_reducible first | assumption | apply guardEv_memOk | apply clearStart_memOk

theorem clearDone_memOk (d p : Nat) (s : State) (h1 : MemOk s) :
    MemOk (clearDone d p s) := by
  unfold clearDone
  try dsimp only
  repeat' with_reducible
    first
    | assumption | (intro _) | apply State.modPart_memOk | apply homeNext_memOk | apply zeroRange_memOk
    | apply memOk_mem | simp only [↓memOk_mk] | split

theorem execLineClearDone_memOk (d p : Nat) (s : State) (h1 : MemOk s) :
    OutOk (execLineClearDone d p s) := by
  unfold execLineClearDone
  try dsimp only
  repeat' with_reducible first | assumption | apply guardEv_memOk | apply clearDone_memOk

theorem execThrottleStepUp_memOk (d : Nat) (power hot : Bool) (temp : BitVec 8) (s : State) (h1 : MemOk s) :
    OutOk (execThrottleStepUp d power hot temp s) := by
  unfold execThrottleStepUp
  try dsimp only
  repeat' with_reducible first | assumption | (intro _) | apply State.modDev_memOk | apply guardEv_memOk

theorem execThrottleToFloor_memOk (d : Nat) (power : Bool) (temp : BitVec 8) (s : State) (h1 : MemOk s) :
    OutOk (execThrottleToFloor d power temp s) := by
  unfold execThrottleToFloor
  try dsimp only
  repeat' with_reducible first | assumption | (intro _) | apply State.modDev_memOk | apply guardEv_memOk

theorem execThrottleStepDown_memOk (d : Nat) (temp : BitVec 8) (s : State) (h1 : MemOk s) :
    OutOk (execThrottleStepDown d temp s) := by
  unfold execThrottleStepDown
  try dsimp only
  repeat' with_reducible first | assumption | (intro _) | apply State.modDev_memOk | apply guardEv_memOk

theorem execClockChange_memOk (d : Nat) (s : State) (h1 : MemOk s) :
    OutOk (execClockChange d s) := by
  unfold execClockChange
  try dsimp only
  repeat' with_reducible first | assumption | apply guardEv_memOk

theorem execPrepare_memOk (d : Nat) (s : State) (h1 : MemOk s) :
    OutOk (execPrepare d s) := by
  unfold execPrepare
  try dsimp only
  repeat' with_reducible first | assumption | (intro _) | apply State.modDev_memOk | apply guardEv_memOk

theorem zeroCarve_memOk (o n : Layout) (d : Nat) (s : State) (h1 : MemOk s) :
    MemOk (zeroCarve o n d s) := by
  unfold zeroCarve
  try dsimp only
  repeat' with_reducible first | assumption | (intro _) | apply zeroRange_memOk | apply memOk_foldl

theorem applyLayout_memOk (d : Nat) (s : State) (h1 : MemOk s) :
    MemOk (applyLayout d s) := by
  unfold applyLayout
  try dsimp only
  repeat' with_reducible
    first
    | assumption | (intro _) | apply State.modDev_memOk | apply State.modPart_memOk | apply State.modCore_memOk
    | apply zeroCarve_memOk | apply memOk_mem | apply memOk_ite | apply memOk_foldl | apply memOk_foldl1
    | apply memOk_foldl2 | apply memFold_wf | apply remapMem_wf | simp only [↓memOk_mk]

theorem execLayoutApplied_memOk (d : Nat) (s : State) (h1 : MemOk s) :
    OutOk (execLayoutApplied d s) := by
  unfold execLayoutApplied
  try dsimp only
  repeat' with_reducible first | assumption | apply guardEv_memOk | apply applyLayout_memOk

theorem execCommit_memOk (d : Nat) (s : State) (h1 : MemOk s) :
    OutOk (execCommit d s) := by
  unfold execCommit
  try dsimp only
  repeat' with_reducible first | assumption | apply State.modDev_memOk | apply guardEv_memOk | apply applyLayout_memOk

theorem execAbort_memOk (d : Nat) (s : State) (h1 : MemOk s) :
    OutOk (execAbort d s) := by
  unfold execAbort
  try dsimp only
  repeat' with_reducible first | assumption | (intro _) | apply State.modDev_memOk | apply guardEv_memOk

theorem execShadowWrite_memOk (d off : Nat) (v : BitVec 64) (s : State) (h1 : MemOk s) :
    OutOk (execShadowWrite d off v s) := by
  unfold execShadowWrite
  try dsimp only
  repeat' with_reducible
    first
    | assumption | (intro _) | apply State.modDev_memOk | apply guardEv_memOk | apply applyLayout_memOk

theorem execWatchdogReset_memOk (d : Nat) (s : State) (h1 : MemOk s) :
    OutOk (execWatchdogReset d s) := by
  unfold execWatchdogReset
  try dsimp only
  repeat' with_reducible
    first
    | assumption | (intro _) | apply State.modDev_memOk | apply applyLayout_memOk | apply memOk_mem
    | apply outOk_next

theorem clearDevice_memOk (d : Nat) (s : State) (h1 : MemOk s) :
    MemOk (clearDevice d s) := by
  unfold clearDevice
  try dsimp only
  repeat' with_reducible
    first
    | assumption | (intro _) | apply dropCont_memOk | apply zeroRange_memOk | apply memOk_mem | apply memOk_foldl
    | apply memOk_foldl1 | apply memOk_foldl2 | apply memFold_wf | simp only [↓memOk_mk]

theorem execPowerOnReset_memOk (d : Nat) (s : State) (h1 : MemOk s) :
    OutOk (execPowerOnReset d s) := by
  unfold execPowerOnReset
  try dsimp only
  repeat' with_reducible
    first
    | assumption | (intro _) | apply State.modDev_memOk | apply clearDevice_memOk | apply memOk_mem
    | apply outOk_next

theorem execRecoveryImage_memOk (d : Nat) (img : List (BitVec 8)) (s : State) (h1 : MemOk s) :
    OutOk (execRecoveryImage d img s) := by
  unfold execRecoveryImage
  try dsimp only
  repeat' with_reducible first | assumption | (intro _) | apply State.modDev_memOk | apply guardEv_memOk

theorem spdmDo_memOk (name : String) (d : Nat) (ok : Dev → Bool) (ans : Dev → List Byte) (f : Dev → Dev) (s : State)
    (h1 : MemOk s) :
    OutOk (spdmDo name d ok ans f s) := by
  unfold spdmDo
  try dsimp only
  repeat' with_reducible first | assumption | (intro _) | apply State.modDev_memOk | apply guardEv_memOk

theorem execGetVersion_memOk (d : Nat) (s : State) (h1 : MemOk s) :
    OutOk (execGetVersion d s) := by
  unfold execGetVersion
  try dsimp only
  repeat' with_reducible first | assumption | (intro _) | apply spdmDo_memOk

theorem execGetCapabilities_memOk (d : Nat) (s : State) (h1 : MemOk s) :
    OutOk (execGetCapabilities d s) := by
  unfold execGetCapabilities
  try dsimp only
  repeat' with_reducible first | assumption | (intro _) | apply spdmDo_memOk

theorem execNegotiateAlgorithms_memOk (d : Nat) (supported : Bool) (s : State) (h1 : MemOk s) :
    OutOk (execNegotiateAlgorithms d supported s) := by
  unfold execNegotiateAlgorithms
  try dsimp only
  repeat' with_reducible first | assumption | (intro _) | apply spdmDo_memOk

theorem execGetDigests_memOk (d : Nat) (s : State) (h1 : MemOk s) :
    OutOk (execGetDigests d s) := by
  unfold execGetDigests
  try dsimp only
  repeat' with_reducible first | assumption | (intro _) | apply spdmDo_memOk

theorem execGetCertificate_memOk (d slot : Nat) (s : State) (h1 : MemOk s) :
    OutOk (execGetCertificate d slot s) := by
  unfold execGetCertificate
  try dsimp only
  repeat' with_reducible first | assumption | (intro _) | apply spdmDo_memOk

theorem execChallenge_memOk (d nonce : Nat) (s : State) (h1 : MemOk s) :
    OutOk (execChallenge d nonce s) := by
  unfold execChallenge
  try dsimp only
  repeat' with_reducible first | assumption | (intro _) | apply spdmDo_memOk

theorem execGetMeasurements_memOk (d : Nat) (idx : BitVec 8) (nonce : Nat) (s : State) (h1 : MemOk s) :
    OutOk (execGetMeasurements d idx nonce s) := by
  unfold execGetMeasurements
  try dsimp only
  repeat' with_reducible first | assumption | (intro _) | apply spdmDo_memOk

theorem execKeyExchange_memOk (d pub : Nat) (s : State) (h1 : MemOk s) :
    OutOk (execKeyExchange d pub s) := by
  unfold execKeyExchange
  try dsimp only
  repeat' with_reducible first | assumption | (intro _) | apply spdmDo_memOk

theorem taskKeys_memOk (d q : Nat) (s : State) (h1 : MemOk s) :
    MemOk (taskKeys d q s) := by
  unfold taskKeys
  try dsimp only
  repeat' with_reducible first | assumption | (intro _) | apply State.modDev_memOk

theorem execFinish_memOk (d n proof : Nat) (s : State) (h1 : MemOk s) :
    OutOk (execFinish d n proof s) := by
  unfold execFinish
  try dsimp only
  repeat' with_reducible
    first
    | assumption | (intro _) | apply State.modDev_memOk | apply spdmDo_memOk | apply taskKeys_memOk
    | apply memOk_mem | apply memOk_ite

theorem execKeyUpdate_memOk (d n : Nat) (s : State) (h1 : MemOk s) :
    OutOk (execKeyUpdate d n s) := by
  unfold execKeyUpdate
  try dsimp only
  repeat' with_reducible first | assumption | (intro _) | apply spdmDo_memOk

theorem execHeartbeat_memOk (d n : Nat) (s : State) (h1 : MemOk s) :
    OutOk (execHeartbeat d n s) := by
  unfold execHeartbeat
  try dsimp only
  repeat' with_reducible first | assumption | (intro _) | apply spdmDo_memOk

theorem execEndSession_memOk (d n : Nat) (s : State) (h1 : MemOk s) :
    OutOk (execEndSession d n s) := by
  unfold execEndSession
  try dsimp only
  repeat' with_reducible first | assumption | (intro _) | apply spdmDo_memOk

theorem execIdeKm_memOk (d n stream : Nat) (key : BitVec 256) (s : State) (h1 : MemOk s) :
    OutOk (execIdeKm d n stream key s) := by
  unfold execIdeKm
  try dsimp only
  repeat' with_reducible first | assumption | (intro _) | apply spdmDo_memOk

theorem tripDone_memOk (d k : Nat) (s : State) (h1 : MemOk s) :
    MemOk (tripDone d k s) := by
  unfold tripDone
  try dsimp only
  repeat' with_reducible
    first
    | assumption | (intro _) | apply State.modDev_memOk | apply endContext_memOk | apply memOk_ite
    | apply memOk_foldl

theorem execSensorTrip_memOk (d k : Nat) (s : State) (h1 : MemOk s) :
    OutOk (execSensorTrip d k s) := by
  unfold execSensorTrip
  try dsimp only
  repeat' with_reducible first | assumption | apply guardEv_memOk | apply tripDone_memOk

theorem sAlu_memOk (i : Instr) (f : SForm) (g : Nat → Nat → Nat → Res) (s : State) (h1 : MemOk s) :
    OutOk (sAlu i f g s) := by
  unfold sAlu
  try dsimp only
  repeat' with_reducible first | assumption | (intro _) | apply issueS_memOk

theorem execSadd_memOk (e : Pfx) (f : SForm) (s : State) (h1 : MemOk s) :
    OutOk (execSadd e f s) := by
  unfold execSadd
  try dsimp only
  repeat' with_reducible first | assumption | (intro _) | apply sAlu_memOk

theorem execSsub_memOk (e : Pfx) (f : SForm) (s : State) (h1 : MemOk s) :
    OutOk (execSsub e f s) := by
  unfold execSsub
  try dsimp only
  repeat' with_reducible first | assumption | (intro _) | apply sAlu_memOk

theorem execSmul_memOk (e : Pfx) (f : SForm) (s : State) (h1 : MemOk s) :
    OutOk (execSmul e f s) := by
  unfold execSmul
  try dsimp only
  repeat' with_reducible first | assumption | (intro _) | apply sAlu_memOk

theorem execSand_memOk (e : Pfx) (f : SForm) (s : State) (h1 : MemOk s) :
    OutOk (execSand e f s) := by
  unfold execSand
  try dsimp only
  repeat' with_reducible first | assumption | (intro _) | apply sAlu_memOk

theorem execSor_memOk (e : Pfx) (f : SForm) (s : State) (h1 : MemOk s) :
    OutOk (execSor e f s) := by
  unfold execSor
  try dsimp only
  repeat' with_reducible first | assumption | (intro _) | apply sAlu_memOk

theorem execSxor_memOk (e : Pfx) (f : SForm) (s : State) (h1 : MemOk s) :
    OutOk (execSxor e f s) := by
  unfold execSxor
  try dsimp only
  repeat' with_reducible first | assumption | (intro _) | apply sAlu_memOk

theorem execSshl_memOk (e : Pfx) (f : SForm) (s : State) (h1 : MemOk s) :
    OutOk (execSshl e f s) := by
  unfold execSshl
  try dsimp only
  repeat' with_reducible first | assumption | (intro _) | apply sAlu_memOk

theorem execSshr_memOk (e : Pfx) (f : SForm) (s : State) (h1 : MemOk s) :
    OutOk (execSshr e f s) := by
  unfold execSshr
  try dsimp only
  repeat' with_reducible first | assumption | (intro _) | apply sAlu_memOk

theorem execSsra_memOk (e : Pfx) (f : SForm) (s : State) (h1 : MemOk s) :
    OutOk (execSsra e f s) := by
  unfold execSsra
  try dsimp only
  repeat' with_reducible first | assumption | (intro _) | apply sAlu_memOk

theorem execSmin_memOk (e : Pfx) (f : SForm) (s : State) (h1 : MemOk s) :
    OutOk (execSmin e f s) := by
  unfold execSmin
  try dsimp only
  repeat' with_reducible first | assumption | (intro _) | apply sAlu_memOk

theorem execSmax_memOk (e : Pfx) (f : SForm) (s : State) (h1 : MemOk s) :
    OutOk (execSmax e f s) := by
  unfold execSmax
  try dsimp only
  repeat' with_reducible first | assumption | (intro _) | apply sAlu_memOk

theorem execScmp_memOk (e : Pfx) (b a : BitVec 6) (s : State) (h1 : MemOk s) :
    OutOk (execScmp e b a s) := by
  unfold execScmp
  try dsimp only
  repeat' with_reducible first | assumption | (intro _) | apply issueS_memOk

theorem execSaddi_memOk (e : Pfx) (i9 : BitVec 9) (a d : BitVec 6) (w : BitVec 1) (s : State) (h1 : MemOk s) :
    OutOk (execSaddi e i9 a d w s) := by
  unfold execSaddi
  try dsimp only
  repeat' with_reducible first | assumption | (intro _) | apply issueS_memOk

theorem execSmovi_memOk (e : Pfx) (i14 : BitVec 14) (d : BitVec 7) (w : BitVec 1) (s : State) (h1 : MemOk s) :
    OutOk (execSmovi e i14 d w s) := by
  unfold execSmovi
  try dsimp only
  repeat' with_reducible first | assumption | (intro _) | apply issueS_memOk

theorem execVadd_memOk (e : Pfx) (f : GForm) (s : State) (h1 : MemOk s) :
    OutOk (execVadd e f s) := by
  unfold execVadd
  try dsimp only
  repeat' with_reducible first | assumption | (intro _) | apply intOp_memOk

theorem execVsub_memOk (e : Pfx) (f : GForm) (s : State) (h1 : MemOk s) :
    OutOk (execVsub e f s) := by
  unfold execVsub
  try dsimp only
  repeat' with_reducible first | assumption | (intro _) | apply intOp_memOk

theorem execVmul_memOk (e : Pfx) (f : GForm) (s : State) (h1 : MemOk s) :
    OutOk (execVmul e f s) := by
  unfold execVmul
  try dsimp only
  repeat' with_reducible first | assumption | (intro _) | apply intOp_memOk

theorem execVmulh_memOk (e : Pfx) (f : GForm) (s : State) (h1 : MemOk s) :
    OutOk (execVmulh e f s) := by
  unfold execVmulh
  try dsimp only
  repeat' with_reducible first | assumption | (intro _) | apply intOp_memOk

theorem execVmad_memOk (e : Pfx) (f : GForm) (s : State) (h1 : MemOk s) :
    OutOk (execVmad e f s) := by
  unfold execVmad
  try dsimp only
  repeat' with_reducible first | assumption | (intro _) | apply vecOp_memOk

theorem execVmin_memOk (e : Pfx) (f : GForm) (s : State) (h1 : MemOk s) :
    OutOk (execVmin e f s) := by
  unfold execVmin
  try dsimp only
  repeat' with_reducible first | assumption | (intro _) | apply intOp_memOk

theorem execVmax_memOk (e : Pfx) (f : GForm) (s : State) (h1 : MemOk s) :
    OutOk (execVmax e f s) := by
  unfold execVmax
  try dsimp only
  repeat' with_reducible first | assumption | (intro _) | apply intOp_memOk

theorem unInt_memOk (i : Instr) (e : Pfx) (f : UForm) (t : Nat) (g : Int → Nat × Flags) (s : State) (h1 : MemOk s) :
    OutOk (unInt i e f t g s) := by
  unfold unInt
  try dsimp only
  repeat' with_reducible first | assumption | (intro _) | apply vecOp_memOk

theorem execVabs_memOk (e : Pfx) (f : UForm) (s : State) (h1 : MemOk s) :
    OutOk (execVabs e f s) := by
  unfold execVabs
  try dsimp only
  repeat' with_reducible first | assumption | (intro _) | apply unInt_memOk

theorem execVneg_memOk (e : Pfx) (f : UForm) (s : State) (h1 : MemOk s) :
    OutOk (execVneg e f s) := by
  unfold execVneg
  try dsimp only
  repeat' with_reducible first | assumption | (intro _) | apply unInt_memOk

theorem unBits_memOk (i : Instr) (e : Pfx) (f : UForm) (t n : Nat) (g : Nat → Nat → Nat) (s : State) (h1 : MemOk s) :
    OutOk (unBits i e f t n g s) := by
  unfold unBits
  try dsimp only
  repeat' with_reducible first | assumption | (intro _) | apply vecOp_memOk

theorem execVnot_memOk (e : Pfx) (f : UForm) (s : State) (h1 : MemOk s) :
    OutOk (execVnot e f s) := by
  unfold execVnot
  try dsimp only
  repeat' with_reducible first | assumption | (intro _) | apply unBits_memOk

theorem execVpopc_memOk (e : Pfx) (f : UForm) (s : State) (h1 : MemOk s) :
    OutOk (execVpopc e f s) := by
  unfold execVpopc
  try dsimp only
  repeat' with_reducible first | assumption | apply unBits_memOk

theorem execVclz_memOk (e : Pfx) (f : UForm) (s : State) (h1 : MemOk s) :
    OutOk (execVclz e f s) := by
  unfold execVclz
  try dsimp only
  repeat' with_reducible first | assumption | apply unBits_memOk

theorem execVbrev_memOk (e : Pfx) (f : UForm) (s : State) (h1 : MemOk s) :
    OutOk (execVbrev e f s) := by
  unfold execVbrev
  try dsimp only
  repeat' with_reducible first | assumption | apply unBits_memOk

theorem bitOp_memOk (i : Instr) (e : Pfx) (p : BitVec 2) (t : Nat) (d a : BitVec 7) (b : BOp) (g : Nat → Nat → Nat)
    (s : State) (h1 : MemOk s) :
    OutOk (bitOp i e p t d a b g s) := by
  unfold bitOp
  try dsimp only
  repeat' with_reducible first | assumption | (intro _) | apply vecOp_memOk

theorem execVand_memOk (e : Pfx) (f : GForm) (s : State) (h1 : MemOk s) :
    OutOk (execVand e f s) := by
  unfold execVand
  try dsimp only
  repeat' with_reducible first | assumption | apply bitOp_memOk

theorem execVor_memOk (e : Pfx) (f : GForm) (s : State) (h1 : MemOk s) :
    OutOk (execVor e f s) := by
  unfold execVor
  try dsimp only
  repeat' with_reducible first | assumption | apply bitOp_memOk

theorem execVxor_memOk (e : Pfx) (f : GForm) (s : State) (h1 : MemOk s) :
    OutOk (execVxor e f s) := by
  unfold execVxor
  try dsimp only
  repeat' with_reducible first | assumption | apply bitOp_memOk

theorem shiftOp_memOk (i : Instr) (e : Pfx) (p : BitVec 2) (t : Nat) (d a : BitVec 7) (b : BOp) (g : Nat → Nat → Nat
    → Nat) (s : State) (h1 : MemOk s) :
    OutOk (shiftOp i e p t d a b g s) := by
  unfold shiftOp
  try dsimp only
  repeat' with_reducible first | assumption | (intro _) | apply vecOp_memOk

theorem execVshl_memOk (e : Pfx) (f : GForm) (s : State) (h1 : MemOk s) :
    OutOk (execVshl e f s) := by
  unfold execVshl
  try dsimp only
  repeat' with_reducible first | assumption | apply shiftOp_memOk

theorem execVshr_memOk (e : Pfx) (f : GForm) (s : State) (h1 : MemOk s) :
    OutOk (execVshr e f s) := by
  unfold execVshr
  try dsimp only
  repeat' with_reducible first | assumption | apply shiftOp_memOk

theorem execVsra_memOk (e : Pfx) (f : GForm) (s : State) (h1 : MemOk s) :
    OutOk (execVsra e f s) := by
  unfold execVsra
  try dsimp only
  repeat' with_reducible first | assumption | apply shiftOp_memOk

theorem execVrot_memOk (e : Pfx) (f : GForm) (s : State) (h1 : MemOk s) :
    OutOk (execVrot e f s) := by
  unfold execVrot
  try dsimp only
  repeat' with_reducible first | assumption | apply shiftOp_memOk

theorem execVbfe_memOk (e : Pfx) (f : GForm) (s : State) (h1 : MemOk s) :
    OutOk (execVbfe e f s) := by
  unfold execVbfe
  try dsimp only
  repeat' with_reducible first | assumption | (intro _) | apply vecOp_memOk

theorem execVbfi_memOk (e : Pfx) (f : GForm) (s : State) (h1 : MemOk s) :
    OutOk (execVbfi e f s) := by
  unfold execVbfi
  try dsimp only
  repeat' with_reducible first | assumption | (intro _) | apply vecOp_memOk

theorem execVsel_memOk (e : Pfx) (f : GForm) (s : State) (h1 : MemOk s) :
    OutOk (execVsel e f s) := by
  unfold execVsel
  try dsimp only
  repeat' with_reducible first | assumption | (intro _) | apply vecOp_memOk

theorem execVcmp_memOk (e : Pfx) (f : CForm) (s : State) (h1 : MemOk s) :
    OutOk (execVcmp e f s) := by
  unfold execVcmp
  try dsimp only
  repeat' with_reducible first | assumption | (intro _) | apply issueRes_memOk

theorem execVsat_memOk (e : Pfx) (f : GForm) (s : State) (h1 : MemOk s) :
    OutOk (execVsat e f s) := by
  unfold execVsat
  try dsimp only
  repeat' with_reducible first | assumption | (intro _) | apply vecOp_memOk

theorem execVaddc_memOk (e : Pfx) (f : GForm) (s : State) (h1 : MemOk s) :
    OutOk (execVaddc e f s) := by
  unfold execVaddc
  try dsimp only
  repeat' with_reducible first | assumption | (intro _) | apply issueRes_memOk

theorem execVlea_memOk (e : Pfx) (f : GForm) (s : State) (h1 : MemOk s) :
    OutOk (execVlea e f s) := by
  unfold execVlea
  try dsimp only
  repeat' with_reducible first | assumption | (intro _) | apply vecOp_memOk

theorem execVshf_memOk (e : Pfx) (f : GForm) (s : State) (h1 : MemOk s) :
    OutOk (execVshf e f s) := by
  unfold execVshf
  try dsimp only
  repeat' with_reducible first | assumption | (intro _) | apply issueAcross_memOk

theorem execVbcast_memOk (e : Pfx) (f : GForm) (s : State) (h1 : MemOk s) :
    OutOk (execVbcast e f s) := by
  unfold execVbcast
  try dsimp only
  repeat' with_reducible first | assumption | (intro _) | apply issueAcross_memOk

theorem execVreduce_memOk (e : Pfx) (f : GForm) (s : State) (h1 : MemOk s) :
    OutOk (execVreduce e f s) := by
  unfold execVreduce
  try dsimp only
  repeat' with_reducible first | assumption | (intro _) | apply issueAcross_memOk

theorem execVscan_memOk (e : Pfx) (f : GForm) (s : State) (h1 : MemOk s) :
    OutOk (execVscan e f s) := by
  unfold execVscan
  try dsimp only
  repeat' with_reducible first | assumption | (intro _) | apply issueAcross_memOk

theorem execVdot4_memOk (e : Pfx) (f : GForm) (s : State) (h1 : MemOk s) :
    OutOk (execVdot4 e f s) := by
  unfold execVdot4
  try dsimp only
  repeat' with_reducible first | assumption | (intro _) | apply vecOp_memOk

theorem vmovi_memOk (i : Instr) (e : Pfx) (p : BitVec 2) (d : BitVec 7) (x : Word) (s : State) (h1 : MemOk s) :
    OutOk (vmovi i e p d x s) := by
  unfold vmovi
  try dsimp only
  repeat' with_reducible first | assumption | (intro _) | apply vecOp_memOk

theorem execVmovi_memOk (e : Pfx) (i : BitVec 14) (d : BitVec 7) (w : BitVec 1) (p : BitVec 2) (s : State) (h1 :
    MemOk s) :
    OutOk (execVmovi e i d w p s) := by
  unfold execVmovi
  try dsimp only
  repeat' with_reducible first | assumption | apply vmovi_memOk

theorem execVmov_memOk (b : BitVec 5) (d : BitVec 6) (s : State) (h1 : MemOk s) :
    OutOk (execVmov b d s) := by
  unfold execVmov
  try dsimp only
  repeat' with_reducible first | assumption | (intro _) | apply vecOp_memOk

theorem execNop16_memOk (r : BitVec 5) (s : State) (h1 : MemOk s) :
    OutOk (execNop16 r s) := by
  unfold execNop16
  try dsimp only
  repeat' with_reducible first | assumption | (intro _) | apply issueS_memOk

theorem execVmoviShort_memOk (i : BitVec 5) (d : BitVec 6) (s : State) (h1 : MemOk s) :
    OutOk (execVmoviShort i d s) := by
  unfold execVmoviShort
  try dsimp only
  repeat' with_reducible first | assumption | (intro _) | apply vecOp_memOk

theorem execVaddShort_memOk (b : BitVec 5) (d : BitVec 6) (s : State) (h1 : MemOk s) :
    OutOk (execVaddShort b d s) := by
  unfold execVaddShort
  try dsimp only
  repeat' with_reducible first | assumption | (intro _) | apply intOp_memOk

theorem execVsubShort_memOk (b : BitVec 5) (d : BitVec 6) (s : State) (h1 : MemOk s) :
    OutOk (execVsubShort b d s) := by
  unfold execVsubShort
  try dsimp only
  repeat' with_reducible first | assumption | (intro _) | apply intOp_memOk

theorem execVmulShort_memOk (b : BitVec 5) (d : BitVec 6) (s : State) (h1 : MemOk s) :
    OutOk (execVmulShort b d s) := by
  unfold execVmulShort
  try dsimp only
  repeat' with_reducible first | assumption | (intro _) | apply intOp_memOk

theorem execVaddi_memOk (i : BitVec 5) (d : BitVec 6) (s : State) (h1 : MemOk s) :
    OutOk (execVaddi i d s) := by
  unfold execVaddi
  try dsimp only
  repeat' with_reducible first | assumption | (intro _) | apply intOp_memOk

theorem execVandShort_memOk (b : BitVec 5) (d : BitVec 6) (s : State) (h1 : MemOk s) :
    OutOk (execVandShort b d s) := by
  unfold execVandShort
  try dsimp only
  repeat' with_reducible first | assumption | apply bitOp_memOk

theorem execVorShort_memOk (b : BitVec 5) (d : BitVec 6) (s : State) (h1 : MemOk s) :
    OutOk (execVorShort b d s) := by
  unfold execVorShort
  try dsimp only
  repeat' with_reducible first | assumption | apply bitOp_memOk

theorem execVxorShort_memOk (b : BitVec 5) (d : BitVec 6) (s : State) (h1 : MemOk s) :
    OutOk (execVxorShort b d s) := by
  unfold execVxorShort
  try dsimp only
  repeat' with_reducible first | assumption | apply bitOp_memOk

theorem execVshlI_memOk (i : BitVec 5) (d : BitVec 6) (s : State) (h1 : MemOk s) :
    OutOk (execVshlI i d s) := by
  unfold execVshlI
  try dsimp only
  repeat' with_reducible first | assumption | apply shiftOp_memOk

theorem execVshrI_memOk (i : BitVec 5) (d : BitVec 6) (s : State) (h1 : MemOk s) :
    OutOk (execVshrI i d s) := by
  unfold execVshrI
  try dsimp only
  repeat' with_reducible first | assumption | apply shiftOp_memOk

theorem execFaddShort_memOk (b : BitVec 5) (d : BitVec 6) (s : State) (h1 : MemOk s) :
    OutOk (execFaddShort b d s) := by
  unfold execFaddShort
  try dsimp only
  repeat' with_reducible first | assumption | apply fltOp_memOk

theorem execFsubShort_memOk (b : BitVec 5) (d : BitVec 6) (s : State) (h1 : MemOk s) :
    OutOk (execFsubShort b d s) := by
  unfold execFsubShort
  try dsimp only
  repeat' with_reducible first | assumption | apply fltOp_memOk

theorem execFmulShort_memOk (b : BitVec 5) (d : BitVec 6) (s : State) (h1 : MemOk s) :
    OutOk (execFmulShort b d s) := by
  unfold execFmulShort
  try dsimp only
  repeat' with_reducible first | assumption | apply fltOp_memOk

theorem execFmaxShort_memOk (b : BitVec 5) (d : BitVec 6) (s : State) (h1 : MemOk s) :
    OutOk (execFmaxShort b d s) := by
  unfold execFmaxShort
  try dsimp only
  repeat' with_reducible first | assumption | apply fltOp_memOk

theorem execFminShort_memOk (b : BitVec 5) (d : BitVec 6) (s : State) (h1 : MemOk s) :
    OutOk (execFminShort b d s) := by
  unfold execFminShort
  try dsimp only
  repeat' with_reducible first | assumption | apply fltOp_memOk

theorem atHand_memOk (s : State) (g l len : Nat) (h1 : MemOk s) :
    MemOk (atHand s g l len) := by
  unfold atHand
  try dsimp only
  repeat' with_reducible first | assumption | apply memOk_mem | simp only [↓memOk_mk]

theorem ageQuad_memOk (g : Nat) (s : State) (h1 : MemOk s) :
    MemOk (ageQuad g s) := by
  unfold ageQuad
  try dsimp only
  repeat' with_reducible
    first
    | assumption | (intro _) | apply State.modGrp_memOk | apply memOk_mem | apply memOk_ite | apply memOk_foldl

theorem takeTurn_memOk (g l len : Nat) (s : State) (h1 : MemOk s) :
    MemOk (takeTurn g l len s) := by
  unfold takeTurn
  try dsimp only
  repeat' with_reducible
    first
    | assumption | (intro _) | apply State.modGrp_memOk | apply ageQuad_memOk | apply memOk_mem | simp only [↓memOk_mk]

theorem beginIssue_memOk (g l len : Nat) (s : State) (h1 : MemOk s) :
    MemOk (beginIssue g l len s) :=
  takeTurn_memOk _ _ _ _ (State.perf_memOk _ _ _ _ (State.perf_memOk _ _ _ _ h1))

theorem beginFetched_memOk (g l : Nat) (f : Fetched) (s : State) (h1 : MemOk s) :
    MemOk (beginFetched g l f s) := by
  cases f with
  | ok i k => exact beginIssue_memOk g l k s h1
  | _ => exact takeTurn_memOk g l _ s h1

theorem heldGo_memOk (g : Nat) (s : State) (h : MemOk s) : OptOk (heldGo g s) := by
  unfold heldGo
  try dsimp only
  first | exact optOk_ite (settleGroup_memOk g s h) trivial

theorem homeGo_memOk (k : HKind) (q line : Nat) (s : State) (h : MemOk s) : OptOk (homeGo k q line s) := by
  unfold homeGo
  try dsimp only
  first | exact optOk_ite (homeRequest_memOk k q line s h) trivial | exact optOk_ite trivial (homeRequest_memOk k q
    line s h)

theorem buryGo_memOk (c : Nat) (s : State) (h : MemOk s) : OptOk (buryGo c s) := by
  unfold buryGo
  try dsimp only
  first | exact optOk_ite (dropCont_memOk s c h) trivial

theorem repostGo_memOk (d p : Nat) (s : State) (h : MemOk s) : OptOk (repostGo d p s) := by
  unfold repostGo
  try dsimp only
  first | exact optOk_ite (repostAll_memOk d p s h) trivial | exact optOk_ite trivial (repostAll_memOk d p s h)

theorem tick_memOk (s : State) (h1 : MemOk s) :
    MemOk (tick s) := by
  unfold tick
  try dsimp only
  repeat' with_reducible first | assumption | apply memOk_mem | simp only [↓memOk_mk]

theorem firstFetch_memOk (s : State) (bs : List Byte) (handler : Bool) (h : MemOk s) : MemOk (firstFetch s bs
    handler) :=
  putBytes_wf bs s.mem _ h

end Sys2Proof.Machine
end

