-- ==== Sys2Proof/Laws/Results.lean ====
section
/-! SUPPORT. Sys2Proof/Laws/Results.lean: the completion of an instruction with any results: the shape `Wrote` for the shared
operation `finishAt`. -/

namespace Sys2Proof.Machine
open Sys2Proof

/-! ### Writes to a scalar copy -/

/-- A group whose copy c is replaced. -/
def setCopy (G : Group) (c : Nat) (C : SCopy) : Group := { G with copies := kput G.copies c C }

/-- Copies agree at every number, or the one on the left is missing. -/
def CopiesLe (a b : KV SCopy) : Prop := ∀ c, kget a c = kget b c ∨ kget a c = none

/-- The scalar registers, the condition code and the predicates of copy c are those given; other copies agree. -/
def CopyIs (G H : Group) (c : Nat) (C : SCopy) : Prop :=
  (∀ k, k ≠ c → kget H.copies k = kget G.copies k) ∧ (kget H.copies c = some C ∨ (kget H.copies c = none ∧ H.copyOf c = C))

theorem copyIs_refl (G : Group) (c : Nat) : CopyIs G G c (G.copyOf c) := by
  refine ⟨fun _ _ => rfl, ?_⟩
  simp only [Group.copyOf]
  cases h : kget G.copies c with
  | none => exact .inr (by simp)
  | some x => exact .inl rfl
theorem copyIs_copyOf {G H : Group} {c : Nat} {C : SCopy} (h : CopyIs G H c C) : H.copyOf c = C := by
  rcases h.2 with h | h
  · simp only [Group.copyOf, h, Option.getD_some]
  · exact h.2

theorem wrS_copyIs {G H : Group} {c : Nat} {C : SCopy} (h : CopyIs G H c C) (r : Nat) (x : Dword) :
    CopyIs G (H.wrS c r x) c { C with s := if r = 0 then C.s else kput C.s r x } := by
  simp only [Group.wrS]
  split
  · exact h
  · refine ⟨fun k hk => ?_, .inl ?_⟩
    · simp only [kget_kput_ne _ _ _ _ (Ne.symm hk)]; exact h.1 k hk
    · simp only [kget_kput_same, copyIs_copyOf h]
theorem wrP_copyIs {G H : Group} {c : Nat} {C : SCopy} (h : CopyIs G H c C) (k : Nat) (x : Dword) :
    CopyIs G (H.wrP c k x) c { C with p := if k = 0 then C.p else kput C.p k (x &&& H.full) } := by
  simp only [Group.wrP]
  split
  · exact h
  · refine ⟨fun j hj => ?_, .inl ?_⟩
    · simp only [kget_kput_ne _ _ _ _ (Ne.symm hj)]; exact h.1 j hj
    · simp only [kget_kput_same, copyIs_copyOf h]
theorem wrCC_copyIs {G H : Group} {c : Nat} {C : SCopy} (h : CopyIs G H c C) (x : BitVec 4) :
    CopyIs G (H.wrCC c x) c { C with cc := x } := by
  refine ⟨fun j hj => ?_, .inl ?_⟩
  · simp only [Group.wrCC, kget_kput_ne _ _ _ _ (Ne.symm hj)]; exact h.1 j hj
  · simp only [Group.wrCC, kget_kput_same, copyIs_copyOf h]

/-- A change of the scalar copies and of the notes in waiting instructions only. -/
def OnlyCopies (G H : Group) : Prop :=
  { H with copies := G.copies, blocks := G.blocks } = G ∧
    H.blocks.map (fun e => (e.1, unclaim e.2)) = G.blocks.map fun e => (e.1, unclaim e.2)

theorem onlyCopies_refl (G : Group) : OnlyCopies G G := ⟨rfl, rfl⟩
theorem onlyCopies_trans {G H K : Group} (a : OnlyCopies G H) (b : OnlyCopies H K) : OnlyCopies G K := by
  refine ⟨?_, b.2.trans a.2⟩
  exact (congrArg (fun x : Group => { x with copies := G.copies, blocks := G.blocks }) b.1).trans a.1
theorem onlyCopies_full {G H : Group} (a : OnlyCopies G H) : H.full = G.full := by
  have := congrArg Group.full a.1; exact this

theorem wrS_only (G : Group) (c r : Nat) (x : Dword) : OnlyCopies G (G.wrS c r x) := by
  simp only [Group.wrS]
  split
  · exact onlyCopies_refl G
  · refine ⟨rfl, ?_⟩
    simp only [List.map_map]
    apply List.map_congr_left
    intro e _
    simp only [Function.comp, unclaim]
    split <;> rfl
theorem wrP_only (G : Group) (c k : Nat) (x : Dword) : OnlyCopies G (G.wrP c k x) := by
  simp only [Group.wrP]
  split
  · exact onlyCopies_refl G
  · exact ⟨rfl, rfl⟩
theorem wrCC_only (G : Group) (c : Nat) (x : BitVec 4) : OnlyCopies G (G.wrCC c x) := ⟨rfl, rfl⟩

theorem wrS_fold (G : Group) (c : Nat) : ∀ (ws : List (Nat × Dword)) (H : Group) (C : SCopy), OnlyCopies G H → CopyIs G H c C →
    OnlyCopies G (ws.foldl (fun G x => G.wrS c x.1 x.2) H) ∧
    CopyIs G (ws.foldl (fun G x => G.wrS c x.1 x.2) H) c
      { C with s := ws.foldl (fun m w => if w.1 = 0 then m else kput m w.1 w.2) C.s }
  | [], _, _, ho, hc => ⟨ho, hc⟩
  | w :: t, H, _, ho, hc =>
    wrS_fold G c t _ _ (onlyCopies_trans ho (wrS_only H c w.1 w.2)) (wrS_copyIs hc w.1 w.2)
theorem wrP_fold (G : Group) (c : Nat) : ∀ (ws : List (Nat × Dword)) (H : Group) (C : SCopy), OnlyCopies G H → CopyIs G H c C →
    OnlyCopies G (ws.foldl (fun G x => G.wrP c x.1 x.2) H) ∧
    CopyIs G (ws.foldl (fun G x => G.wrP c x.1 x.2) H) c
      { C with p := ws.foldl (fun m w => if w.1 = 0 then m else kput m w.1 (w.2 &&& G.full)) C.p }
  | [], _, _, ho, hc => ⟨ho, hc⟩
  | w :: t, H, C, ho, hc => by
    have h := wrP_copyIs hc w.1 w.2
    rw [onlyCopies_full ho] at h
    exact wrP_fold G c t _ _ (onlyCopies_trans ho (wrP_only H c w.1 w.2)) h

/-- The scalar, predicate and condition-code results of an instruction. -/
def scalarPart (w : Bool) (c : Nat) (r : Res) (G : Group) : Group :=
  let G := if w then G else r.sws.foldl (fun G x => G.wrS c x.1 x.2) G
  let G := r.pws.foldl (fun G x => G.wrP c x.1 x.2) G
  match r.cc with | some x => G.wrCC c x | none => G

theorem scalarPart_copy (w : Bool) (c : Nat) (r : Res) (G : Group) :
    OnlyCopies G (scalarPart w c r G) ∧ CopyIs G (scalarPart w c r G) c (copyAfter w G.full (G.copyOf c) r) := by
  have h1 : OnlyCopies G (if w then G else r.sws.foldl (fun G x => G.wrS c x.1 x.2) G) ∧
      CopyIs G (if w then G else r.sws.foldl (fun G x => G.wrS c x.1 x.2) G) c
        { G.copyOf c with s := (copyAfter w G.full (G.copyOf c) r).s } := by
    cases w
    · exact wrS_fold G c r.sws G _ (onlyCopies_refl G) (copyIs_refl G c)
    · exact ⟨onlyCopies_refl G, copyIs_refl G c⟩
  have h2 := wrP_fold G c r.pws _ _ h1.1 h1.2
  simp only [scalarPart, copyAfter]
  cases hcc : r.cc with
  | none => simpa only [copyAfter, hcc, Option.getD_none] using h2
  | some x =>
    have h3 := wrCC_copyIs h2.2 x
    exact ⟨onlyCopies_trans h2.1 (wrCC_only _ c x), by simpa only [copyAfter, hcc, Option.getD_some] using h3⟩

theorem writeRes_split (w : Bool) (c : Nat) (r : Res) (G : Group) :
    writeRes w c r G = { scalarPart w c r (if w then G else bankAll r.vws G) with
      aflags := (scalarPart w c r (if w then G else bankAll r.vws G)).aflags ||| r.fl } := rfl

/-- The group before any scalar write: the bank written, or not with W = 1. -/
def bankPart (i : Instr) (s : State) (r : Res) : Group := if wBit i then s.g else bankAll r.vws s.g

theorem bankPart_eq (i : Instr) (s : State) (r : Res) :
    { bankPart i s r with v := s.g.v, pz := s.g.pz, pend := s.g.pend } = s.g := by
  simp only [bankPart]; cases wBit i
  · exact bankAll_eq r.vws s.g
  · rfl
theorem bankPart_pend (i : Instr) (s : State) (r : Res) :
    (bankPart i s r).pend.map (fun e => (e.1, revive e.2)) = s.g.pend.map fun e => (e.1, revive e.2) := by
  simp only [bankPart]; cases wBit i
  · exact bankAll_pend r.vws s.g
  · rfl

/-- The group of a completed instruction, before its lanes move: what it shares with the group of before. -/
theorem doneGroup_parts (i : Instr) (s : State) (r : Res) :
    let D := doneGroup i s r
    let B := bankPart i s r
    unDone s.g D = s.g ∧ D.v = B.v ∧ D.pz = B.pz ∧ D.lanes = s.g.lanes ∧
    D.pend.map (fun e => (e.1, revive e.2)) = s.g.pend.map (fun e => (e.1, revive e.2)) ∧
    D.blocks.map (fun e => (e.1, unclaim e.2)) = s.g.blocks.map (fun e => (e.1, unclaim e.2)) ∧
    CopyIs s.g D s.cid (copyAfter (wBit i) s.g.full (s.g.copyOf s.cid) r) ∧
    D.win = (entryOf i s.cur.mask s.cid 0 r :: s.g.win).take 8 ∧ D.count = s.g.count + 1 ∧
    D.aflags = s.g.aflags ||| r.fl := by
  intro D B
  have hB := bankPart_eq i s r
  have hP := scalarPart_copy (wBit i) s.cid r B
  have hBP := hP.1.1
  have e1 : ∀ {α : Type} (f : Group → α), (∀ K : Group, f { K with copies := B.copies, blocks := B.blocks } = f K) →
      f (scalarPart (wBit i) s.cid r B) = f B := by
    intro α f hf
    have := congrArg f hBP
    rw [hf] at this; exact this
  have hfull : B.full = s.g.full := by have := congrArg Group.full hB; exact this
  have hcop : B.copies = s.g.copies := by have := congrArg Group.copies hB; exact this
  have hblk : B.blocks = s.g.blocks := by have := congrArg Group.blocks hB; exact this
  have hcof : B.copyOf s.cid = s.g.copyOf s.cid := by simp only [Group.copyOf, hcop]
  have hwin : B.win = s.g.win := by have := congrArg Group.win hB; exact this
  have hcnt : B.count = s.g.count := by have := congrArg Group.count hB; exact this
  have hfl : B.aflags = s.g.aflags := by have := congrArg Group.aflags hB; exact this
  have hlan : B.lanes = s.g.lanes := by have := congrArg Group.lanes hB; exact this
  have hD : D = ({ scalarPart (wBit i) s.cid r B with
      aflags := (scalarPart (wBit i) s.cid r B).aflags ||| r.fl } : Group).push (entryOf i s.cur.mask s.cid 0 r) := rfl
  refine ⟨?_, ?_, ?_, ?_, ?_, ?_, ⟨fun k hk => ?_, ?_⟩, ?_, ?_, ?_⟩
  · have h1 := congrArg (unDone s.g) hBP
    have h2 := congrArg (unDone s.g) hB
    exact h1.trans h2
  · exact e1 Group.v fun _ => rfl
  · exact e1 Group.pz fun _ => rfl
  · exact (e1 Group.lanes fun _ => rfl).trans hlan
  · exact (e1 (fun K => K.pend.map fun e => (e.1, revive e.2)) fun _ => rfl).trans (bankPart_pend i s r)
  · exact hP.1.2.trans (by rw [hblk])
  · have := hP.2.1 k hk; rw [hcop] at this; exact this
  · have h := hP.2.2; rw [hfull, hcof] at h; exact h
  · rw [hD]; simp only [Group.push]
    rw [show (scalarPart (wBit i) s.cid r B).win = B.win from e1 Group.win fun _ => rfl, hwin]
  · rw [hD]; simp only [Group.push]
    rw [show (scalarPart (wBit i) s.cid r B).count = B.count from e1 Group.count fun _ => rfl, hcnt]
  · rw [hD]; simp only [Group.push]
    rw [show (scalarPart (wBit i) s.cid r B).aflags = B.aflags from e1 Group.aflags fun _ => rfl, hfl]

theorem mem_wordKeys {ws : List (Nat × Nat × Word)} {k : Nat} : k ∈ wordKeys ws ↔ ∃ w ∈ ws, vk w.1 w.2.1 = k := by
  simp only [wordKeys, List.mem_map]

theorem kget_copyAfter (i : Instr) (G : Group) (c k : Nat) (x : Dword) (r : Res) (hr : r.sws = [(k, x)]) (hk : k ≠ 0)
    (hw : wBit i = false) : rget (copyAfter (wBit i) G.full (G.copyOf c) r).s k = x := by
  simp [copyAfter, hw, hr, hk, rget, kget_kput_same]

/-- Completion with any results. `hv`: an instruction with vector results names a vector register with its W bit; `hs`: one
with a scalar result names it. -/
theorem finishAt_wrote (i : Instr) (r : Res) (a : BitVec 57) (s : State) (h : CanIssue s)
    (hv : r.vws ≠ [] → (destDesc i).getLsbD 14 = false ∧ (wBit i = true → (destDesc i).getLsbD 11 = true))
    (hs : r.sws ≠ [] → sdst i ≠ none) : Wrote i s (finishAt i r a s) r a := by
  have hg := finishAt_g i r a s h
  have hm := moveTo_go (doneGroup i s r) s.cur.mask s.cur.pc a
  obtain ⟨pAll, pV, pZ, pLan, pPend, pBlk, pCop, pWin, pCnt, pFl⟩ := doneGroup_parts i s r
  have hM := hm.1
  have tv : (finishAt i r a s).g.v = (bankPart i s r).v := by rw [hg]; exact (congrArg Group.v hM).trans pV
  have tz : (finishAt i r a s).g.pz = (bankPart i s r).pz := by rw [hg]; exact (congrArg Group.pz hM).trans pZ
  have tw : (finishAt i r a s).g.win = (entryOf i s.cur.mask s.cid 0 r :: s.g.win).take 8 := by
    rw [hg]; exact (congrArg Group.win hM).trans pWin
  have tc : ∀ c, kget (finishAt i r a s).g.copies c =
      kget (kput s.g.copies s.cid (copyAfter (wBit i) s.g.full (s.g.copyOf s.cid) r)) c ∨
      kget (finishAt i r a s).g.copies c = none := by
    intro c
    rw [hg]
    rcases hm.2.1 c with hc | hc
    · rw [hc]
      by_cases hcc : c = s.cid
      · subst hcc
        rw [kget_kput_same]
        rcases pCop.2 with h1 | h1
        · exact .inl h1
        · exact .inr h1.1
      · rw [kget_kput_ne _ _ _ _ (Ne.symm hcc)]; exact .inl (pCop.1 c hcc)
    · exact .inr hc
  refine ⟨⟨finishAt_onlyGroup i r a s h, ⟨?_, ?_, ?_⟩, tc, ?_, ?_, ?_⟩, fun h128 => ⟨⟨fun l q hq hk => ?_, fun l q hq hw hk => ?_⟩,
    fun l q x hx hu => ?_⟩, fun k x hr hk hc => ?_, ?_⟩
  · rw [hg]; exact (congrArg (unDone s.g) hM).trans pAll
  · rw [hg]; exact (congrArg (fun K : Group => K.pend.map fun e => (e.1, revive e.2)) hM).trans pPend
  · rw [hg]; exact (congrArg (fun K : Group => K.blocks.map fun e => (e.1, unclaim e.2)) hM).trans pBlk
  · intro l; rw [hg, hm.2.2 l, pLan]
  · rw [hg]; exact (congrArg Group.count hM).trans pCnt
  · rw [tw]; simp
  · rw [tv, tz]; simp only [bankPart]
    cases hb : wBit i
    · have hk' : vk l q ∉ wordKeys r.vws := by
        rintro hm'
        obtain ⟨w, hw, hwk⟩ := mem_wordKeys.1 hm'
        obtain ⟨h1, h2⟩ := vk_inj (h128 w hw) hq hwk
        rcases hk with hk | hk
        · rw [hb] at hk; exact Bool.noConfusion hk
        · exact hk ⟨w.2.2, by rw [← h1, ← h2]; exact hw⟩
      exact ⟨bankAll_v_out r.vws s.g _ hk', by rw [if_neg (by simp), bankAll_pz, if_neg hk']⟩
    · exact ⟨rfl, rfl⟩
  · obtain ⟨x, hx⟩ := hk
    rw [tz]; simp only [bankPart, hw, Bool.false_eq_true, ↓reduceIte]
    rw [bankAll_pz, if_pos (mem_wordKeys.2 ⟨_, hx, rfl⟩)]
  · have hne : r.vws ≠ [] := by intro hn; rw [hn] at hx; exact absurd hx List.not_mem_nil
    obtain ⟨hsc, hwb⟩ := hv hne
    have hin : vk l q ∈ wordKeys r.vws := mem_wordKeys.2 ⟨_, hx, rfl⟩
    have hun : ∀ w ∈ r.vws, vk w.1 w.2.1 = vk l q → w.2.2 = x := by
      intro w hw hwk
      obtain ⟨h1, h2⟩ := vk_inj (h128 w hw) (h128 _ hx) hwk
      exact hu w.2.2 (by rw [← h1, ← show w.2.1 = q from h2]; exact hw)
    have hval : kget (entryOf i s.cur.mask s.cid 0 r).vals (vk l q) = some x := by
      simp only [entryOf, entryDest_vector r hsc, Bool.false_eq_true, ↓reduceIte]
      exact kget_vals_in r.vws (vk l q) x hin hun []
    have hsc' : (entryOf i s.cur.mask s.cid 0 r).sc = false := entryDest_vector r hsc
    simp only [Group.rdV, tw, List.take_succ_cons, winFind, hsc', hval, Bool.not_false, Bool.true_or, Bool.and_true,
      decide_true, ↓reduceIte]
    cases hb : wBit i
    · have hbank : rget (finishAt i r a s).g.v (vk l q) = x := by
        rw [tv]; simp only [bankPart, hb, Bool.false_eq_true, ↓reduceIte]
        exact bankAll_v_in r.vws s.g _ x hin hun
      split
      · next heq => simp only [Option.some.injEq, Prod.mk.injEq] at heq; exact heq.2.symm
      · exact hbank
    · have : (entryOf i s.cur.mask s.cid 0 r).wb = true := entryDest_wb r hwb hb
      simp [this]
  · obtain ⟨d, hd⟩ := Option.ne_none_iff_exists'.1 (hs (by rw [hr]; simp))
    obtain ⟨hsc, hwb⟩ := destDesc_scalar i d hd
    have hsc' : (entryOf i s.cur.mask s.cid 0 r).sc = true := by
      simp only [entryOf, entryDest_scalar r (hd ▸ Option.some_ne_none d : sdst i ≠ none)]; exact hsc
    have hcp : (entryOf i s.cur.mask s.cid 0 r).copy = s.cid := rfl
    have hwb' : (entryOf i s.cur.mask s.cid 0 r).wb = wBit i := by
      simp only [entryOf, entryDest_scalar r (hd ▸ Option.some_ne_none d : sdst i ≠ none)]; exact hwb
    have hvals : (entryOf i s.cur.mask s.cid 0 r).vals =
        kput (kput [] (sk k 0) (x.extractLsb' 0 32)) (sk k 1) (x.extractLsb' 32 32) := by
      simp only [entryOf, entryDest_scalar r (hd ▸ Option.some_ne_none d : sdst i ≠ none), hsc, ↓reduceIte, hr,
        List.foldl_cons, List.foldl_nil]
    have h0 : kget (entryOf i s.cur.mask s.cid 0 r).vals (sk k 0) = some (x.extractLsb' 0 32) := by
      rw [hvals, kget_kput_ne _ _ _ _ (by simp [sk]), kget_kput_same]
    have h1 : kget (entryOf i s.cur.mask s.cid 0 r).vals (sk k 1) = some (x.extractLsb' 32 32) := by
      rw [hvals, kget_kput_same]
    have hx : x.extractLsb' 32 32 ++ x.extractLsb' 0 32 = x := by
      apply BitVec.eq_of_getLsbD_eq
      intro j hj
      rw [BitVec.getLsbD_append]
      split
      · next hlt => simp [hlt]
      · next hlt =>
        rw [BitVec.getLsbD_extractLsb']
        rw [show 32 + (j - 32) = j by omega]
        simp; omega
    have hwo : (finishAt i r a s).g.winOf (lowBit s.cur.mask) = entryOf i s.cur.mask s.cid 0 r ::
        (s.g.win.take 7).filter fun w => !(w.wb && w.ended.getLsbD (lowBit s.cur.mask)) := by
      have he : (entryOf i s.cur.mask s.cid 0 r).ended = 0#64 := rfl
      simp only [Group.winOf, tw, List.take_succ_cons]
      rw [List.filter_cons_of_pos (by simp [he])]
    simp only [Group.rdS, hk, ↓reduceIte, hwo, winFind, hsc', hcp, hwb', h0, h1, decide_true,
      Bool.not_true, Bool.false_or, Bool.and_true]
    cases hb : wBit i
    · simp only
      have hbk : (finishAt i r a s).g.copyOf s.cid = copyAfter (wBit i) s.g.full (s.g.copyOf s.cid) r := by
        rcases tc s.cid with h2 | h2
        · rw [kget_kput_same] at h2; simp only [Group.copyOf, h2, Option.getD_some]
        · rw [h2] at hc; exact absurd hc (by simp)
      rw [hbk]; exact kget_copyAfter i s.g s.cid k x r hr hk hb
    · exact hx
  · rw [hg]; exact (congrArg Group.aflags hM).trans pFl

end Sys2Proof.Machine
end

