-- ==== Sys2Proof/Laws/Shapes.lean ====
section
/-! SUPPORT. Sys2Proof/Laws/Shapes.lean: one lemma for each shared operation of an issue: what it answers, in the words of
Safety.lean. -/

namespace Sys2Proof.Machine
open Sys2Proof

theorem not_mem_nil_vws {r : Res} (h : r.vws = []) {P : Prop} : r.vws ≠ [] → P := fun n => absurd h n

/-- Scalar and predicate instructions. -/
theorem issueS_wrote (i : Instr) (f : State → Res) (s : State) (h : CanIssue s)
    (hv : (f s).vws ≠ [] → (destDesc i).getLsbD 14 = false ∧ (wBit i = true → (destDesc i).getLsbD 11 = true))
    (hs : (f s).sws ≠ [] → sdst i ≠ none) :
    ∃ t, issueS i f s = .next t ∧ Wrote i s t (f s) s.nextPc :=
  ⟨_, rfl, finishAt_wrote i (f s) s.nextPc s h hv hs⟩

/-- An issue whose sources carry no mark runs its body on the state in which the older loads have landed. -/
theorem issue_next (i : Instr) (lanes : Dword) (body : State → State) (s : State)
    (hz : consumed (landFor (srcRegs i) s).g (lanesOf (landFor (srcRegs i) s).g.width lanes) (srcRegs i) = none) :
    issue i lanes body s = .next (body (landFor (srcRegs i) s)) := by
  simp only [issue, hz]

/-- An issue with a marked source word takes the poison trap (R224). -/
theorem issue_poison (i : Instr) (lanes : Dword) (body : State → State) (s : State) (m : Nat) (tl : Dword)
    (hz : consumed (landFor (srcRegs i) s).g (lanesOf (landFor (srcRegs i) s).g.width lanes) (srcRegs i) = some (m, tl)) :
    issue i lanes body s = .next (poisonTrap i m tl (landFor (srcRegs i) s)) := by
  simp only [issue, hz]

theorem issueRes_wrote (i : Instr) (lanes : Dword) (f : State → Res) (s : State) (h : CanIssue (landFor (srcRegs i) s))
    (hz : consumed (landFor (srcRegs i) s).g (lanesOf (landFor (srcRegs i) s).g.width lanes) (srcRegs i) = none)
    (hv : (f (landFor (srcRegs i) s)).vws ≠ [] →
      (destDesc i).getLsbD 14 = false ∧ (wBit i = true → (destDesc i).getLsbD 11 = true))
    (hs : (f (landFor (srcRegs i) s)).sws ≠ [] → sdst i ≠ none) :
    ∃ t, issueRes i lanes f s = .next t ∧
      Wrote i (landFor (srcRegs i) s) t (f (landFor (srcRegs i) s)) (landFor (srcRegs i) s).nextPc :=
  ⟨_, issue_next i lanes _ s hz, finishAt_wrote i _ _ _ h hv hs⟩

/-- Instructions that read words of other lanes. -/
theorem issueAcross_wrote (i : Instr) (rgs : List VReg) (rds : State → List (Nat × Nat × Nat × Nat)) (f : State → Res)
    (s : State) (h : CanIssue (landFor rgs s))
    (hz : ∀ x ∈ rds (landFor rgs s), ∀ j < x.2.2.2, (landFor rgs s).g.markOf x.2.1 (x.2.2.1 + j) = 0)
    (hv : (f (landFor rgs s)).vws ≠ [] →
      (destDesc i).getLsbD 14 = false ∧ (wBit i = true → (destDesc i).getLsbD 11 = true))
    (hs : (f (landFor rgs s)).sws ≠ [] → sdst i ≠ none) :
    ∃ t, issueAcross i rgs rds f s = .next t ∧ Wrote i (landFor rgs s) t (f (landFor rgs s)) (landFor rgs s).nextPc := by
  refine ⟨_, ?_, finishAt_wrote i _ _ _ h hv hs⟩
  have hn : ((rds (landFor rgs s)).flatMap fun (x : Nat × Nat × Nat × Nat) => (List.range x.2.2.2).filterMap fun j =>
      if (landFor rgs s).g.markOf x.2.1 (x.2.2.1 + j) = 0 then none
      else some (x.1, (landFor rgs s).g.markOf x.2.1 (x.2.2.1 + j))) = [] := by
    rw [List.flatMap_eq_nil_iff]
    intro x hx
    rw [List.filterMap_eq_nil_iff]
    intro j hj
    simp [hz x hx j (List.mem_range.1 hj)]
  simp only [issueAcross, hn]
  rfl

/-- A taken control transfer inside the code range. -/
theorem transfer_wrote (i : Instr) (r : Res) (tgt : Nat) (s : State) (h : CanIssue s)
    (hc : inCode s s.cur.grp tgt 2 = true) (hv : r.vws = []) (hs : r.sws ≠ [] → sdst i ≠ none) :
    Wrote i s (transfer i r tgt s) r (BitVec.ofNat 57 tgt) := by
  simp only [transfer, hc, ↓reduceIte]
  exact finishAt_wrote i r _ s h (fun n => absurd hv n) hs

/-! ### The claims' shapes -/

/-- A meaning that is a lane-wise operation has the shape `LaneWise`. -/
theorem laneWise_of {i : Instr} {e : Pfx} {p : BitVec 2} {d : BitVec 7} {n : Nat} {f : Group → Nat → Nat × Flags}
    (hx : ∀ s, exec i s = vecOp i e p d n f s) (hs : sdst i = none) (hr : ((regs i).find? (·.dst)).isSome = true) :
    LaneWise i e p d n f := by
  intro s s' ls hc hn hz
  rw [hx]
  exact vecOp_done i e p d n f s hc hn hz (destDesc_vector i hs) (destDesc_wb i hs hr)

/-- A meaning that reads no vector register has the shape `Simple`. -/
theorem simple_of {i : Instr} {r : State → Res} (hx : ∀ s, exec i s = issueS i r s)
    (hv : ∀ s, (r s).vws ≠ [] → sdst i = none ∧ ((regs i).find? (·.dst)).isSome = true)
    (hs : ∀ s, (r s).sws ≠ [] → sdst i ≠ none) : Simple i r := by
  intro s h
  rw [hx]
  exact issueS_wrote i r s h (fun n => ⟨destDesc_vector i (hv s n).1, destDesc_wb i (hv s n).1 (hv s n).2⟩) (hs s)

/-- The same lane-wise shape with equal results. -/
theorem laneWise_congr {i : Instr} {e : Pfx} {p : BitVec 2} {d : BitVec 7} {n : Nat} {f g : Group → Nat → Nat × Flags}
    (h : LaneWise i e p d n f) (hfg : ∀ G l, f G l = g G l) : LaneWise i e p d n g := by
  rw [show g = f from funext fun G => funext fun l => (hfg G l).symm]
  exact h

/-- A meaning that reads vector registers has the shape `Results`. `g`: the results, computed in part from the state in
which the instruction issues. -/
theorem results_of {i : Instr} {m : State → Dword} {r : State → Res} {g : State → State → Res}
    (hx : ∀ s, exec i s = issueRes i (m s) (g s) s)
    (hg : ∀ s, g s (landFor (srcRegs i) s) = r (landFor (srcRegs i) s))
    (hv : ∀ s, (r s).vws ≠ [] → sdst i = none ∧ ((regs i).find? (·.dst)).isSome = true)
    (hs : ∀ s, (r s).sws ≠ [] → sdst i ≠ none) : Results i m r := by
  intro s h hz
  rw [hx, ← hg s]
  exact issueRes_wrote i (m s) (g s) s h hz
    (fun n => ⟨destDesc_vector i (hv _ (hg s ▸ n)).1, destDesc_wb i (hv _ (hg s ▸ n)).1 (hv _ (hg s ▸ n)).2⟩)
    (fun n => hs _ (hg s ▸ n))

/-- A meaning that reads words of other lanes has the shape `Across`. -/
theorem across_of {i : Instr} {rds : State → List (Nat × Nat × Nat × Nat)} {r : State → Res}
    {rd : State → State → List (Nat × Nat × Nat × Nat)} {g : State → State → Res}
    (hx : ∀ s, exec i s = issueAcross i (regs i) (rd s) (g s) s)
    (hr : ∀ s, rd s (landFor (regs i) s) = rds (landFor (regs i) s))
    (hg : ∀ s, g s (landFor (regs i) s) = r (landFor (regs i) s))
    (hv : sdst i = none) (hd : ((regs i).find? (·.dst)).isSome = true) (hs : ∀ s, (r s).sws = []) : Across i rds r := by
  intro s h hz
  rw [hx, ← hg s]
  rw [← hr s] at hz
  exact issueAcross_wrote i (regs i) (rd s) (g s) s h hz
    (fun _ => ⟨destDesc_vector i hv, destDesc_wb i hv hd⟩) (fun n => absurd (hg s ▸ hs _) n)

/-- The shared lane-wise operations have the shape `LaneWise`. -/
theorem laneWise_intOp {i : Instr} {e : Pfx} {p : BitVec 2} {t : Nat} {d a : BitVec 7} {b : BOp} {f : Int → Int → Nat × Flags}
    (hx : ∀ s, exec i s = intOp i e p t d a b f s) (hs : sdst i = none) (hr : ((regs i).find? (·.dst)).isSome = true) :
    LaneWise i e p d (tyWords t) (fun G l => perElem (tyWidth t) (elems t) fun k =>
      f (extOf t (G.rdWords l a.toNat (tyWords t)) k) (extOf t (opInt G b t l) k)) := laneWise_of hx hs hr
theorem laneWise_bitOp {i : Instr} {e : Pfx} {p : BitVec 2} {t : Nat} {d a : BitVec 7} {b : BOp} {g : Nat → Nat → Nat}
    (hx : ∀ s, exec i s = bitOp i e p t d a b g s) (hs : sdst i = none) (hr : ((regs i).find? (·.dst)).isSome = true) :
    LaneWise i e p d (tyWords t) (fun G l => (g (G.rdWords l a.toNat (tyWords t)) (opInt G b t l), 0#6)) :=
  laneWise_of hx hs hr
theorem laneWise_shiftOp {i : Instr} {e : Pfx} {p : BitVec 2} {t : Nat} {d a : BitVec 7} {b : BOp}
    {g : Nat → Nat → Nat → Nat} (hx : ∀ s, exec i s = shiftOp i e p t d a b g s) (hs : sdst i = none)
    (hr : ((regs i).find? (·.dst)).isSome = true) :
    LaneWise i e p d (tyWords t) (fun G l =>
      (g (tyWidth t) (G.rdWords l a.toNat (tyWords t)) (opCount G b l % 256), 0#6)) := laneWise_of hx hs hr
theorem laneWise_fltOp {i : Instr} {e : Pfx} {p : BitVec 2} {t : Nat} {d a : BitVec 7} {b : BOp}
    {g : Bool → Nat → Nat → Nat × Flags} (hx : ∀ s, exec i s = fltOp i e p t d a b g s) (hs : sdst i = none)
    (hr : ((regs i).find? (·.dst)).isSome = true) :
    LaneWise i e p d (tyWords t) (fun G l => perElem (cWidth t) (elems t) fun k =>
      g G.fz (elemOf (cWidth t) (G.rdWords l a.toNat (tyWords t)) k) (elemOf (cWidth t) (opFloat G b t l) k)) :=
  laneWise_of hx hs hr

theorem landFor_lanes (rgs : List VReg) (e : Pfx) (p : BitVec 2) (s : State) :
    lanesOf (landFor rgs s).g.width (activeMask e p (landFor rgs s)) = lanesOf s.g.width (activeMask e p s) := by
  rw [sameLanes_activeMask (landFor_sameLanes rgs s), sameLanes_width (landFor_sameLanes rgs s)]

/-! ### Elements -/

theorem sextNat_mod (w v : Nat) : sextNat w (v % 2 ^ w) = sextNat w v := by
  simp only [sextNat, Nat.mod_mod]
theorem sextNat_toInt {w : Nat} (hw : 0 < w) (x : BitVec w) : sextNat w x.toNat = x.toInt := by
  have h := x.isLt
  have h1 : 2 ^ w = 2 ^ (w - 1) * 2 := by rw [← Nat.pow_succ]; congr 1; omega
  have h2 : (2 : Int) ^ w = ((2 ^ w : Nat) : Int) := by simp
  simp only [sextNat, Nat.mod_eq_of_lt h, BitVec.toInt_eq_toNat_cond]
  by_cases hc : x.toNat < 2 ^ (w - 1)
  · rw [if_pos hc, if_pos (by omega)]
  · rw [if_neg hc, if_neg (by omega), h2]
theorem wrapNat_lt (w : Nat) (t : Int) : wrapNat w t < 2 ^ w := by
  have h2 : (0 : Int) < 2 ^ w := Int.pow_pos (by decide)
  have h := Int.emod_lt_of_pos t h2
  have h0 := Int.emod_nonneg t (Int.ne_of_gt h2)
  unfold wrapNat
  have h3 : ((2 ^ w : Nat) : Int) = 2 ^ w := by simp
  omega
theorem perElem_one (w : Nat) (f : Nat → Nat × Flags) : perElem w 1 f = ((f 0).1 % 2 ^ w, (f 0).2) := by
  simp [perElem, joinElems, orFlags]

end Sys2Proof.Machine
end

