-- ==== Sys2Proof/Tests/Slice0.lean ====
section
/-! SUPPORT. Sys2Proof/Tests/Slice0.lean: the model's own tests. Words written as numbers are the spec's own worked encodings; the
others put fields together as R77 and R80 lay them out, with the opcodes of R87 and the functions of R88. -/

set_option maxRecDepth 10000

namespace Sys2Proof.Tests
open Sys2Proof Sys2Proof.Machine

/-! ## Decoding -/

/-- No prefix. -/
abbrev np : Pfx := ⟨none, none⟩
/-- Words by format (R77): formats G, S, M and A; a 16-bit word (R80); a kind-0 prefix (R84). -/
def wg (b a d op : Nat) : Nat := b * 2 ^ 25 + a * 2 ^ 18 + d * 2 ^ 11 + op * 2 + 1
def ws (f b a d op : Nat) : Nat := f * 2 ^ 29 + b * 2 ^ 23 + a * 2 ^ 17 + d * 2 ^ 11 + op * 2 + 1
def wm (x o a d op : Nat) : Nat := x * 2 ^ 31 + o * 2 ^ 24 + a * 2 ^ 18 + d * 2 ^ 11 + op * 2 + 1
def wa (sp f ab d op : Nat) : Nat := sp * 2 ^ 28 + f * 2 ^ 24 + ab * 2 ^ 18 + d * 2 ^ 11 + op * 2 + 1
def wh (b d op4 : Nat) : Nat := b * 2 ^ 11 + d * 2 ^ 5 + op4 * 2
def pre0 (rc ty rm sn xo : Nat) : Nat := rc * 2 ^ 25 + ty * 2 ^ 15 + rm * 2 ^ 12 + sn * 2 ^ 11 + xo * 2 ^ 9 + 0xFF
/-- The word decodes to the instruction; the same of a prefix and a word. -/
abbrev reads (w : Nat) (i : Instr) : Prop := decodeTableWord 32 w = some i
abbrev reads2 (e w : Nat) (i : Instr) : Prop := decodeTableWord 64 (w * 2 ^ 32 + e) = some i

theorem test_decode_vector_arithmetic :
    reads (wg 8 4 2 0x01) (.vadd np ⟨8, 4, 2, 0, 0⟩) ∧ reads (wg 8 4 2 0x02) (.vsub np ⟨8, 4, 2, 0, 0⟩) ∧
    reads (wg 8 4 2 0x03) (.vmul np ⟨8, 4, 2, 0, 0⟩) ∧ reads (wg 8 4 2 0x04) (.vmulh np ⟨8, 4, 2, 0, 0⟩) ∧
    reads (wg 8 4 2 0x05) (.vmad np ⟨8, 4, 2, 0, 0⟩) ∧ reads (wg 8 4 2 0x06) (.vmin np ⟨8, 4, 2, 0, 0⟩) ∧
    reads (wg 8 4 2 0x07) (.vmax np ⟨8, 4, 2, 0, 0⟩) ∧ reads (wg 0 4 2 0x08) (.vabs np ⟨4, 2, 0, 0⟩) ∧
    reads (wg 1 4 2 0x08) (.vneg np ⟨4, 2, 0, 0⟩) := by decide
theorem test_decode_vector_bits :
    reads (wg 2 4 2 0x08) (.vnot np ⟨4, 2, 0, 0⟩) ∧ reads (wg 3 4 2 0x08) (.vpopc np ⟨4, 2, 0, 0⟩) ∧
    reads (wg 4 4 2 0x08) (.vclz np ⟨4, 2, 0, 0⟩) ∧ reads (wg 5 4 2 0x08) (.vbrev np ⟨4, 2, 0, 0⟩) ∧
    reads (wg 8 4 2 0x09) (.vand np ⟨8, 4, 2, 0, 0⟩) ∧ reads (wg 8 4 2 0x0A) (.vor np ⟨8, 4, 2, 0, 0⟩) ∧
    reads (wg 8 4 2 0x0B) (.vxor np ⟨8, 4, 2, 0, 0⟩) ∧ reads (wg 8 4 2 0x0C) (.vshl np ⟨8, 4, 2, 0, 0⟩) ∧
    reads (wg 8 4 2 0x0D) (.vshr np ⟨8, 4, 2, 0, 0⟩) ∧ reads (wg 8 4 2 0x0E) (.vsra np ⟨8, 4, 2, 0, 0⟩) ∧
    reads (wg 8 4 2 0x0F) (.vrot np ⟨8, 4, 2, 0, 0⟩) := by decide
theorem test_decode_vector_fields :
    reads (wg 8 4 2 0x10) (.vbfe np ⟨8, 4, 2, 0, 0⟩) ∧ reads (wg 8 4 2 0x11) (.vbfi np ⟨8, 4, 2, 0, 0⟩) ∧
    reads (wg 8 4 2 0x14) (.vsat np ⟨8, 4, 2, 0, 0⟩) ∧ reads (wg 8 4 2 0x16) (.vlea np ⟨8, 4, 2, 0, 0⟩) ∧
    reads (wg 8 4 2 0x1B) (.vdot4 np ⟨8, 4, 2, 0, 0⟩) ∧
    reads2 (pre0 6 0x1F 0 0 0) (wg 8 4 2 0x12) (.vsel ⟨some ⟨6, 0, 0, 0x1F, 0, 0, 0⟩, none⟩ ⟨8, 4, 2, 0, 0⟩) ∧
    reads2 0x0A0980FF 0x1820402B (.vaddc ⟨some ⟨5, 0, 0, 0x13, 0, 0, 0⟩, none⟩ ⟨12, 8, 8, 0, 0⟩) ∧
    reads 0x0E0D1027 (.vcmp np ⟨7, 3, 2, 2, 0⟩) := by decide
theorem test_decode_vector_lanes :
    reads (wg 8 4 2 0x17) (.vshf np ⟨8, 4, 2, 0, 0⟩) ∧ reads (wg 8 4 2 0x18) (.vbcast np ⟨8, 4, 2, 0, 0⟩) ∧
    reads (wg 1 4 2 0x19) (.vreduce np ⟨1, 4, 2, 0, 0⟩) ∧ reads (wg 1 4 2 0x1A) (.vscan np ⟨1, 4, 2, 0, 0⟩) ∧
    reads (77 * 2 ^ 18 + 2 * 2 ^ 11 + 1024 + 0x1C * 2 + 1) (.vmovi np 77 2 1 0) := by decide
theorem test_decode_float_arithmetic :
    reads (wg 8 4 2 0x20) (.fadd np ⟨8, 4, 2, 0, 0⟩) ∧ reads (wg 8 4 2 0x21) (.fsub np ⟨8, 4, 2, 0, 0⟩) ∧
    reads (wg 8 4 2 0x22) (.fmul np ⟨8, 4, 2, 0, 0⟩) ∧ reads (wg 8 4 2 0x23) (.ffma np ⟨8, 4, 2, 0, 0⟩) ∧
    reads (wg 8 4 2 0x24) (.fmin np ⟨8, 4, 2, 0, 0⟩) ∧ reads (wg 8 4 2 0x25) (.fmax np ⟨8, 4, 2, 0, 0⟩) ∧
    reads (wg 8 4 2 0x26) (.fsgn np ⟨8, 4, 2, 0, 0⟩) ∧ reads (wg 8 4 2 0x2C) (.fscale np ⟨8, 4, 2, 0, 0⟩) ∧
    reads (wg 8 4 2 0x2E) (.fdot2 np ⟨8, 4, 2, 0, 0⟩) ∧ reads 0x0E0D104F (.fcmp np ⟨7, 3, 2, 2, 0⟩) := by decide
theorem test_decode_float_functions :
    reads (wg 0 4 2 0x28) (.fclass np ⟨4, 2, 0, 0⟩) ∧ reads (wg 1 4 2 0x28) (.frcp np ⟨4, 2, 0, 0⟩) ∧
    reads (wg 2 4 2 0x28) (.frsq np ⟨4, 2, 0, 0⟩) ∧ reads (wg 3 4 2 0x28) (.fsqrt np ⟨4, 2, 0, 0⟩) ∧
    reads (wg 4 4 2 0x28) (.fexp2 np ⟨4, 2, 0, 0⟩) ∧ reads (wg 5 4 2 0x28) (.flog2 np ⟨4, 2, 0, 0⟩) ∧
    reads (wg 6 4 2 0x28) (.fsin np ⟨4, 2, 0, 0⟩) ∧ reads (wg 7 4 2 0x28) (.fcos np ⟨4, 2, 0, 0⟩) ∧
    reads (wg 8 4 2 0x28) (.ftanh np ⟨4, 2, 0, 0⟩) ∧ reads (wg 0 4 2 0x2D) (.frnd np ⟨4, 2, 0, 0⟩) := by decide
theorem test_decode_float_conversions :
    reads (wg 0x02 4 2 0x29) (.fcvt np 0 2 4 2 0 0) ∧ reads 0x0A1CA05F (.fmxs np 5 7 20 0 0) ∧
    reads2 0x060F88FF 0x28201855 (.fpack ⟨some ⟨3, 0, 0, 0x1F, 0, 1, 0⟩, none⟩ ⟨20, 8, 3, 0, 0⟩) ∧
    reads (wg 8 4 4 0x2B) (.funpack np ⟨8, 4, 4, 0⟩) ∧ reads (wg 8 4 4 0x30) (.fwcvt np ⟨8, 4, 4, 0, 0⟩) ∧
    reads (wg 8 12 4 0x31) (.fwadd np ⟨8, 12, 4, 0, 0⟩) := by decide
theorem test_decode_scalar :
    reads (ws 0 2 1 3 0x34) (.sadd np ⟨2, 1, 3, 0⟩) ∧ reads (ws 1 2 1 3 0x34) (.ssub np ⟨2, 1, 3, 0⟩) ∧
    reads (ws 2 2 1 3 0x34) (.smul np ⟨2, 1, 3, 0⟩) ∧ reads (ws 3 2 1 3 0x34) (.sand np ⟨2, 1, 3, 0⟩) ∧
    reads (ws 4 2 1 3 0x34) (.sor np ⟨2, 1, 3, 0⟩) ∧ reads (ws 5 2 1 3 0x34) (.sxor np ⟨2, 1, 3, 0⟩) ∧
    reads (ws 6 2 1 3 0x34) (.sshl np ⟨2, 1, 3, 0⟩) ∧ reads (ws 7 2 1 3 0x34) (.sshr np ⟨2, 1, 3, 0⟩) ∧
    reads (ws 0 2 1 3 0x35) (.ssra np ⟨2, 1, 3, 0⟩) ∧ reads (ws 1 2 1 3 0x35) (.smin np ⟨2, 1, 3, 0⟩) ∧
    reads (ws 2 2 1 3 0x35) (.smax np ⟨2, 1, 3, 0⟩) := by decide
theorem test_decode_scalar_immediates :
    reads (ws 3 2 1 0 0x35) (.scmp np 2 1) ∧ reads (0x1FF * 2 ^ 23 + ws 0 0 1 3 0x36) (.saddi np 0x1FF 1 3 0) ∧
    reads (0x3FFF * 2 ^ 18 + 3 * 2 ^ 11 + 0x37 * 2 + 1) (.smovi np 0x3FFF 3 0) := by decide
theorem test_decode_predicates :
    reads 0x61001871 (.pandn np 2 0 3) ∧ reads 0xA0002871 (.pset np 0 5) ∧ reads (ws 0 2 1 3 0x38) (.pand np 2 1 3) ∧
    reads (ws 1 2 1 3 0x38) (.por np 2 1 3) ∧ reads (ws 2 2 1 3 0x38) (.pxor np 2 1 3) ∧
    reads (ws 4 0 1 3 0x38) (.pnot np 1 3) ∧ reads (ws 6 0 1 3 0x38) (.pget np 1 3) ∧
    reads 0x00000891 (.elect np 0 0 1) := by decide
theorem test_decode_registers :
    reads (wg 8 0 2 0x39) (.mov np ⟨8, 0, 2, 0, 0⟩) ∧ reads 0x06042875 (.movix np ⟨3, 1, 5, 0⟩) ∧
    reads (wg 3 1 5 0x3B) (.stix np ⟨3, 1, 5, 0⟩) ∧ reads 0x0E002879 (.ixset np 7 1 1 0) ∧
    reads2 0x0000A1FF 0x20000879 (.ixset ⟨none, some 0x50⟩ 0x10 0 1 0) ∧ reads (wg 3 9 5 0x3D) (.park np 3 9 5 0) ∧
    reads (wg 3 9 5 0x3E) (.unpark np 3 9 5 0) ∧ reads (wg 4 6 5 0x3F) (.winrd np 4 6 5 0) := by decide
theorem test_decode_control :
    reads (3 * 2 ^ 16 + 1 * 2 ^ 11 + 0x40 * 2 + 1) (.br np 3 1) ∧
    reads (3 * 2 ^ 16 + 2 ^ 15 + 2 * 2 ^ 11 + 0x41 * 2 + 1) (.brp np 3 1 2) ∧ reads 0x00001885 (.jmp np 3) ∧
    reads (3 * 2 ^ 11 + 0x43 * 2 + 1) (.call np 3) ∧ reads 0x00FC0089 (.ret np 63) ∧
    reads2 0x000011FF 0x2840388B (.split ⟨none, some 8⟩ 10 1 7) ∧ reads 0x0050008D (.join np 20) ∧
    reads (3 * 2 ^ 11 + 0x47 * 2 + 1) (.meetset np 3) ∧ reads 0x00000093 (.exit np) ∧
    reads 0x00000001 (.nop np) := by decide
theorem test_decode_loads_and_stores :
    reads (wm 0 9 4 2 0x50) (.ldG np ⟨0, 9, 4, 2, 0⟩) ∧ reads (wm 0 9 4 2 0x51) (.ldSp np ⟨0, 9, 4, 2, 0⟩) ∧
    reads (wm 0 9 4 2 0x52) (.ldCl np ⟨0, 9, 4, 2, 0⟩) ∧ reads (wm 0 9 4 2 0x53) (.ldCh np ⟨0, 9, 4, 2, 0⟩) ∧
    reads (wm 0 9 4 2 0x54) (.ldLn np ⟨0, 9, 4, 2, 0⟩) ∧ reads (wm 0 9 4 2 0x55) (.stG np ⟨0, 9, 4, 2, 0⟩) ∧
    reads (wm 0 9 4 2 0x56) (.stSp np ⟨0, 9, 4, 2, 0⟩) ∧ reads (wm 0 9 4 2 0x57) (.stCl np ⟨0, 9, 4, 2, 0⟩) ∧
    reads (wm 0 9 4 2 0x58) (.stCh np ⟨0, 9, 4, 2, 0⟩) ∧ reads (wm 0 9 4 2 0x59) (.stLn np ⟨0, 9, 4, 2, 0⟩) ∧
    reads 0x091010A1 (.ldG np ⟨0, 9, 4, 2, 0⟩) := by decide
theorem test_decode_gathers_and_atomics :
    reads (wa 0 3 4 6 0x5A) (.gather np ⟨0, 3, 4, 6, 0⟩) ∧ reads (wa 0 3 4 6 0x5B) (.scatter np ⟨0, 3, 4, 6, 0⟩) ∧
    reads 0x001430B9 (.atom np ⟨0, 0, 5, 6, 0⟩) ∧ reads (wa 1 3 4 6 0x5D) (.atomr np ⟨1, 3, 4, 6, 0⟩) ∧
    reads (wa 1 0 4 6 0x5E) (.cas np 1 4 6 0) ∧ reads 0xB01818BF (.lda np ⟨3, 0, 6, 3, 0⟩) ∧
    reads (wm 1 0x30 6 3 0x60) (.strel np ⟨3, 0, 6, 3, 0⟩) ∧ reads 0x000C00C3 (.fence np 0 3) ∧
    reads (wg 0 9 0 0x62) (.acqPromote np 9) ∧ reads (wm 1 9 4 1 0x63) (.pref np 1 9 4 1 0) ∧
    reads (wm 1 9 4 2 0x64) (.cflush np 1 9 4 2 0) := by decide
theorem test_decode_tiles :
    reads 0x000C0099 (.tcfg np 3) ∧ reads 0x0008409B (.tclaim np 2 8) ∧ reads 0x0400409B (.tclaimAny np 2 8) ∧
    reads 0x0020009D (.trel np 8) ∧ reads 0x0200289F (.tstatr np 1 5) ∧ reads 0x801048CB (.tfill np 1 0 4 9 0) ∧
    reads (wg 8 4 0 0x66) (.trow np ⟨8, 4, 0, 0⟩) := by decide
theorem test_decode_queues :
    reads 0x080010CF (.qpush np ⟨4, 0, 2, 0⟩) ∧ reads 0x120411CF (.qpush np ⟨9, 1, 2, 1⟩) ∧
    reads 0x060030D1 (.qpop np ⟨3, 0, 6, 0⟩) ∧ reads 0x120410D3 (.qtry np ⟨9, 1, 2, 0⟩) ∧
    reads 0x060038D5 (.qstat np 3 7) := by decide
theorem test_decode_barriers :
    reads 0x7FFF00D7 (.wait np 31 31 31 0) ∧ reads 0x0C0828D9 (.barinit np 6 2 5) ∧ reads 0x000028DB (.bararr np 5) ∧
    reads 0x022428DB (.bararrN np 9 5) ∧ reads 0x001028DD (.barexp np 4 5) ∧ reads 0x000C28DF (.barwait np 3 5) ∧
    reads 0x0A0C38E1 (.bartest np 5 3 7) ∧ reads 0x000000E3 (.gbar np) := by decide
theorem test_decode_system :
    reads (0x5A * 2 ^ 23 + 0x72 * 2 + 1) (.trap np 0x5A) ∧ reads (0x73 * 2 + 1) (.tfence np) ∧
    reads 0x000000E9 (.rett np) ∧ reads 0x080020EB (.sprr np 0x010 4) ∧
    reads (0x005 * 2 ^ 23 + 4 * 2 ^ 17 + 0x76 * 2 + 1) (.sprw np 0x005 4) ∧ reads (0x77 * 2 + 1) (.yield np) ∧
    reads (wg 0 4 0 0x78) (.sleep np 4) ∧ reads 0x000238F3 (.getid np 0 1 7) ∧
    reads (wg 2 4 0 0x7A) (.replace np 2 4) := by decide
theorem test_decode_short_forms :
    reads 0x48A4 (.vaddShort 9 5) ∧ reads 0x1822 (.vmoviShort 3 1) ∧ reads 0x0028 (.vmulShort 0 1) ∧
    reads 0x282A (.vaddi 5 1) ∧ reads 0x0820 (.nop16 1) ∧ reads (wh 9 5 0x0) (.vmov 9 5) ∧
    reads (wh 9 5 0x3) (.vsubShort 9 5) ∧ reads (wh 9 5 0x6) (.vandShort 9 5) ∧ reads (wh 9 5 0x7) (.vorShort 9 5) ∧
    reads (wh 9 5 0x8) (.vxorShort 9 5) ∧ reads (wh 9 5 0x9) (.vshlI 9 5) ∧ reads (wh 9 5 0xA) (.vshrI 9 5) ∧
    reads (wh 9 5 0xB) (.faddShort 9 5) ∧ reads (wh 9 5 0xC) (.fsubShort 9 5) ∧ reads (wh 9 5 0xD) (.fmulShort 9 5) ∧
    reads (wh 9 5 0xE) (.fmaxShort 9 5) ∧ reads (wh 9 5 0xF) (.fminShort 9 5) := by decide
theorem test_decode_prefixed_add :
    reads2 0x080A02FF 0x0C142003 (.vadd ⟨some ⟨4, 0, 0, 0x14, 0, 0, 1⟩, none⟩ ⟨6, 5, 4, 0, 0⟩) ∧
    reads2 0x00061BFF 0x40041003 (.vadd ⟨none, some 0x30D⟩ ⟨0x20, 1, 2, 0, 0⟩) := by decide

/-! ## Well-formedness: for each check a term it refuses -/

/-- A kernel of 16 registers and 8 lanes, without a grid barrier, outside a handler. -/
def small : KCtx := ⟨16, 8, false, false⟩
/-- A kind-0 prefix with a register, a type, a rounding mode and XO. -/
def p0 (rc : BitVec 7) (ty : BitVec 5) (rm : BitVec 3) (xo : BitVec 2) : Pfx := ⟨some ⟨rc, 0, 0, ty, rm, 0, xo⟩, none⟩

theorem test_wf_accepts : WellFormed small (.vadd np ⟨8, 4, 2, 0, 0⟩) ∧ WellFormed small (.vaddShort 9 5) ∧
    WellFormed small (.vadd ⟨none, some 5⟩ ⟨0, 4, 15, 1, 3⟩) ∧ WellFormed anyKernel (.gbar np) := by
  unfold WellFormed; decide
theorem test_wf_prefix_fields : wfCheck small (.vadd (p0 2 0x1F 1 0) ⟨8, 4, 2, 0, 0⟩) = some .badExt ∧
    wfCheck small (.vadd (p0 3 0x1F 0 0) ⟨8, 4, 2, 0, 0⟩) = some .badExt ∧
    wfCheck small (.vadd (p0 2 0x1F 0 0) ⟨8, 4, 2, 0, 1⟩) = some .badExt ∧
    wfCheck small (.vsat ⟨none, some 5⟩ ⟨8, 4, 2, 0, 0⟩) = some .badExt ∧
    wfCheck small (.split np 2 1 0) = some .badExt := by decide
theorem test_wf_reserved_fields : wfCheck small (.vlea np ⟨8, 5, 2, 0, 0⟩) = some .reservedField ∧
    wfCheck small (.qpush np ⟨4, 2, 2, 0⟩) = some .reservedField ∧
    wfCheck small (.smovi (p0 3 0x1F 0 2) 0 3 0) = some .reservedField ∧
    wfCheck small (.vsel np ⟨8, 4, 2, 0, 0⟩) = some .reservedField ∧
    wfCheck small (.vsat np ⟨33, 4, 2, 0, 0⟩) = some .reservedField ∧
    wfCheck small (.pand np 1 2 0) = some .reservedField := by decide
theorem test_wf_types : wfCheck small (.vand (p0 2 0x00 0 0) ⟨8, 4, 2, 0, 0⟩) = some .badType ∧
    wfCheck small (.fadd (p0 2 0x00 5 0) ⟨8, 4, 2, 0, 0⟩) = some .badRound ∧
    wfCheck small (.atom np ⟨5, 0, 4, 2, 0⟩) = some .badSpace := by decide
theorem test_wf_ranges : wfCheck small (.vadd np ⟨8, 4, 16, 0, 0⟩) = some .registerRange ∧
    wfCheck small (.vaddShort 9 16) = some .registerRange ∧ wfCheck small (.gbar np) = some .notGridsync ∧
    wfCheck small (.rett np) = some .notHandler := by decide
theorem test_wf_words : wfCheck small (.vadd ⟨none, some 0x7FFFFF⟩ ⟨0, 4, 2, 0, 0⟩) = some .onesWord ∧
    wfCheck small (.vmov 3 3) = some .reservedField ∧ wfCheck small (.vmov 0 0) = some .zeroWord ∧
    wfCheck small (.kill 0 1) = some .undefOp := by decide

/-! ## A small machine -/

/-- The next state; the reset state where there is none. -/
def nx (o : Out) : State := match o with | .next t => t | _ => State.reset
/-- A group of eight lanes at the entry, with s1 = 0x401000, s2 = 5, p2 = 0x0F and, in lane 0, v4 = 7 and v8 = 9. -/
def tinyGroup : Group :=
  { firstGroup 3 false with
    width := 8
    lanes := (List.range 8).map fun l => (l, firstLane firstPc)
    copies := [(0, ⟨[(1, 0x401000#64), (2, 5#64)], 0, [(2, 0x0F#64)]⟩)]
    v := [(vk 0 4, 7#32), (vk 0 8, 9#32)] }
/-- It is group 4 of team 3, launch 2 and content 1, in bank 0 of core 0; lane 0 issues. -/
def tiny : State :=
  { firstFetch State.reset (leBytes 1 12) false with
    cur := ⟨4, 1#64, BitVec.ofNat 57 firstPc, 4⟩
    groups := [(4, tinyGroup)] }
/-- The machine with a changed group. -/
def tinyG (f : Group → Group) : State := { tiny with groups := [(4, f tinyGroup)] }
/-- Format G operands v2, v4, v8. -/
abbrev gf : GForm := ⟨8, 4, 2, 0, 0⟩
abbrev uf : UForm := ⟨4, 2, 0, 0⟩

/-! ## Results, against values worked by hand from the rules -/

/-- Register r of lane 0 after the instruction. -/
def v0 (i : Instr) (r : Nat) (s : State := tiny) : Nat := ((nx (exec i s)).g.rdV 0 r).toNat
/-- Scalar register r after it. -/
def s0 (i : Instr) (r : Nat) (s : State := tiny) : Nat := (rs (nx (exec i s)) r).toNat
/-- The machine with v4 and v8 of lane 0. -/
def ab (x y : Word) : State := tinyG fun G => { G with v := [(vk 0 4, x), (vk 0 8, y)] }

theorem test_vadd_wraps : v0 (.vadd np gf) 2 (ab 0xFFFFFFFF 2) = 1 := by decide
theorem test_vadd_saturates : v0 (.vadd (p0 2 0x1F 0 1) gf) 2 (ab 0x7FFFFFFF 2) = 0x7FFFFFFF := by decide
theorem test_vsub : v0 (.vsub np gf) 2 (ab 1 2) = 0xFFFFFFFF := by decide
theorem test_vmulh : v0 (.vmulh np gf) 2 (ab 0xFFFFFFFF 2) = 0xFFFFFFFF := by decide
theorem test_vshl_by_width : v0 (.vshl np gf) 2 (ab 1 32) = 0 := by decide
theorem test_vsra_by_more : v0 (.vsra np gf) 2 (ab 0x80000000 40) = 0xFFFFFFFF := by decide
theorem test_vclz_zero : v0 (.vclz np uf) 2 (ab 0 0) = 32 := by decide
theorem test_fadd : v0 (.fadd np gf) 2 (ab 0x3F800000 0x40000000) = 0x40400000 := by decide
theorem test_fsub_nan : v0 (.fsub np gf) 2 (ab 0x7F800000 0x7F800000) = 0x7FC00000 := by decide
theorem test_fmin_zero : v0 (.fmin np gf) 2 (ab 0x00000000 0x80000000) = 0x80000000 := by decide
theorem test_fcmp_window : v0 (.fsqrt np uf) 2 (ab 0x40800000 0) = 0x40000000 := by decide
theorem test_sadd : s0 (.sadd np ⟨2, 2, 3, 0⟩) 3 = 10 := by decide
theorem test_sadd_s0 : s0 (.sadd np ⟨2, 2, 0, 0⟩) 0 = 0 := by decide
theorem test_smovi_negative : s0 (.smovi np 0x3FFF 3 0) 3 = 0xFFFFFFFFFFFFFFFF := by decide
theorem test_pget : s0 (.pget np 2 3) 3 = 0x0F := by decide
theorem test_pget_p0 : s0 (.pget np 0 3) 3 = 1 := by decide
/-- The worked branch of R79: from 0x00400100 by −16 halfwords to 0x004000E0. -/
theorem test_br_target : ((nx (exec (.br np 0xFFF0 14) { tiny with cur := { tiny.cur with pc := 0x400100 } })).g.lane 0).pc.toNat
    = 0x4000E0 := by decide
theorem test_call_link : s0 (.call np 8) 63 = 0x400004 := by decide
/-- A window-only result is read by the next instruction and does not reach the bank (R107). -/
theorem test_window_only : let t := nx (exec (.vadd np ⟨8, 4, 2, 1, 0⟩) tiny)
    (t.g.rdV 0 2).toNat = 16 ∧ rget t.g.v (vk 0 2) = 0 := by decide
/-- A store enters the write path, and the next load of the group sees it (R209, R230). -/
theorem test_store_then_load : let t := nx (exec (.stG np ⟨1, 0, 1, 8, 0⟩) tiny)
    ((nx (exec (.ldG np ⟨1, 0, 1, 6, 0⟩) { t with cur := tiny.cur })).g.pend.flatMap fun e => e.2.words.map (·.val)) = [9#32] := by
  decide
theorem test_trap_without_handler : (nx (exec (.trap np 1) tiny)).groups = [] := by decide
theorem test_trap_cause : let t := nx (exec (.trap np 1) (tinyG fun G => { G with thand := 0x400100#57 }))
    (t.g.frame.map fun f => (f.cause, f.tva)) = some (0x80#8, 1#64) ∧ (t.g.lane 0).pc = 0x400100#57 := by decide
/-- Power-on leaves a partial write of a poisoned sector undone (R226). -/
theorem test_poisoned_partial_write :
    (putSector { tiny with psn := [(7, 1)] } (7, [(224, 1#8)])).2 = false := by decide

/-! ## Witnesses: for every statement with hypotheses, states and operands that meet them all -/

/-- The hypotheses of a lane-wise statement. -/
def LaneHyp (i : Instr) (e : Pfx) (p : BitVec 2) (d : BitVec 7) (n : Nat) (s : State) : Prop :=
  CanIssue (landFor (srcRegs i) s) ∧ d.toNat + n ≤ 128 ∧
  consumed (landFor (srcRegs i) s).g (lanesOf (landFor (srcRegs i) s).g.width (activeMask e p s)) (srcRegs i) = none
/-- Format G operands whose destination is the last register. -/
abbrev gl : GForm := ⟨8, 4, 127, 0, 0⟩
abbrev ul : UForm := ⟨4, 127, 0, 0⟩

theorem witness_VectorIntegerArithmeticResults :
    (∀ i ∈ [Instr.vadd np gl, .vsub np gl, .vmul np gl, .vmulh np gl, .vmin np gl, .vmax np gl, .vmad np gl],
      LaneHyp i np 0 127 (tyWords (effTy i)) tiny) ∧
    (∀ i ∈ [Instr.vabs np ul, .vneg np ul], LaneHyp i np 0 127 (tyWords (effTy i)) tiny) ∧
    LaneHyp (.vadd (p0 2 0x12 0 0) ⟨8, 4, 126, 0, 0⟩) (p0 2 0x12 0 0) 0 126 2 tiny := by
  unfold LaneHyp CanIssue; decide
theorem witness_VectorBitResults :
    (∀ i ∈ [Instr.vand np gl, .vor np gl, .vxor np gl, .vshl np gl, .vshr np gl, .vsra np gl, .vrot np gl],
      LaneHyp i np 0 127 (tyWords (effTy i)) tiny) ∧
    ∀ i ∈ [Instr.vnot np ul, .vpopc np ul, .vclz np ul, .vbrev np ul], LaneHyp i np 0 127 1 tiny := by
  unfold LaneHyp CanIssue; decide
theorem witness_VectorFieldAndSelectResults :
    (∀ i ∈ [Instr.vbfe np gl, .vbfi np gl, .vsat np gl, .vsel np gl, .vdot4 np gl, .mov np ⟨8, 0, 127, 0, 0⟩,
        .mov np ⟨1, 1, 127, 0, 0⟩], LaneHyp i np 0 127 (tyWords (effTy i)) tiny) ∧
    LaneHyp (.vlea np ⟨8, 4, 126, 0, 0⟩) np 0 126 2 tiny ∧ LaneHyp (.vmovi np 5 127 0 0) np 0 127 1 tiny := by
  unfold LaneHyp CanIssue; decide
theorem witness_VectorCompareAndCarryResults :
    ∀ i ∈ [Instr.vcmp np ⟨8, 4, 0, 1, 0⟩, .fcmp np ⟨8, 4, 0, 1, 0⟩, .vaddc np gl], LaneHyp i np 0 127 1 tiny := by
  unfold LaneHyp CanIssue; decide
theorem witness_CrossLaneResults : CanIssue (landFor (regs (.vshf np gf)) tiny) ∧
    (tinyG fun G => { G with pz := [(vk 3 5, 1)] }).g.markOf 0 4 = 0 ∧
    (∀ j < 8, tiny.g.markOf j 4 = 0) := by
  unfold CanIssue; decide
theorem witness_VectorFloatArithmeticResults :
    ∀ i ∈ [Instr.fadd np gl, .fsub np gl, .fmul np gl, .fmin np gl, .fmax np gl, .fsgn np gl, .ffma np gl],
      LaneHyp i np 0 127 (tyWords (effTy i)) tiny := by
  unfold LaneHyp CanIssue; decide
theorem witness_VectorFloatFunctionResults :
    (∀ i ∈ [Instr.frcp np ul, .frsq np ul, .fsqrt np ul, .fexp2 np ul, .flog2 np ul, .fsin np ul, .fcos np ul, .ftanh np ul,
      .frnd np ul, .fclass np ul], LaneHyp i np 0 127 (tyWords (effTy i)) tiny) ∧
    LaneHyp (.fscale np gl) np 0 127 1 tiny := by
  unfold LaneHyp CanIssue; decide
theorem witness_VectorConversionResults :
    (∀ i ∈ [Instr.fcvt np 0 0x00 4 127 0 0, .fmxs np 0x00 4 127 0 0, .fdot2 np gl], LaneHyp i np 0 127 1 tiny) ∧
    LaneHyp (.fpack (p0 2 0x02 0 0) gl) (p0 2 0x02 0 0) 0 127 1 tiny ∧
    LaneHyp (.funpack (p0 2 0x02 0 0) ⟨8, 4, 126, 0⟩) (p0 2 0x02 0 0) 0 126 (epr 0x02) tiny ∧
    LaneHyp (.fwcvt np ⟨2, 4, 124, 0, 0⟩) np 0 124 4 tiny ∧
    LaneHyp (.fwcvt (p0 2 0x1F 0 1) ⟨2, 4, 127, 0, 0⟩) (p0 2 0x1F 0 1) 0 127 1 tiny ∧
    LaneHyp (.fwadd np ⟨8, 4, 124, 0, 0⟩) np 0 124 4 tiny := by
  unfold LaneHyp CanIssue; decide
theorem witness_ShortFormResults :
    ∀ i ∈ [Instr.vmov 31 63, .vmoviShort 31 63, .vaddShort 31 63, .vsubShort 31 63, .vmulShort 31 63, .vaddi 31 63,
      .vandShort 31 63, .vorShort 31 63, .vxorShort 31 63, .vshlI 31 63, .vshrI 31 63, .faddShort 31 63, .fsubShort 31 63,
      .fmulShort 31 63, .fmaxShort 31 63, .fminShort 31 63], LaneHyp i np 0 63 1 tiny := by
  unfold LaneHyp CanIssue; decide

/-- The instructions of scalar registers, control, divergence, special registers and queries ask only that the sub-group
can issue; in this state the group has no handler and no frame. -/
theorem witness_CanIssue : CanIssue tiny ∧ waiting tiny = none ∧ tiny.g.frame = none ∧ (kget tiny.groups tiny.cur.grp).isSome := by
  unfold CanIssue; decide
theorem witness_ScalarArithmeticResults : CanIssue tiny := witness_CanIssue.1
theorem witness_PredicateResults : CanIssue tiny := witness_CanIssue.1
theorem witness_SpecialRegisterResults : CanIssue tiny := witness_CanIssue.1
theorem witness_ScalarRegistersRule : CanIssue tiny ∧ kget State.reset.groups 1 = none := by unfold CanIssue; decide
theorem witness_GridBarrierNeedsDeclaration :
    let s : State := { tiny with launches := tiny.launches.map fun e => (e.1, { e.2 with desc := { e.2.desc with gs := false } }) }
    let h : State := { s with groups := [(4, { tinyGroup with thand := 0x400100 })] }
    CanIssue s ∧ (s.launchOf s.cur.grp).desc.gs = false ∧ s.g.thand = 0 ∧
    CanIssue h ∧ (h.launchOf h.cur.grp).desc.gs = false ∧ h.g.thand ≠ 0 ∧ h.g.frame = none := by
  unfold CanIssue; decide
/-- Index register 0 of lane 0: `n` registers from v4 on, cursor j. -/
def ixed (x : Word) : State := tinyG fun G => { G with ix := [(0, x)] }
abbrev nf : NForm := ⟨0, 0, 2, 0⟩
/-- What an index register and an offset select, in a kernel of `n` registers, as the statement has it. -/
def sel (n : Nat) (x : Word) (b : BitVec 7) : IxSel :=
  let j : Int := sextNat 16 (bf x 31 16) + b.toInt
  if j < 0 ∨ (bf x 7 0 : Int) ≤ j then .bad
  else if n ≤ bf x 14 8 + j.toNat then .far
  else .reg (bf x 14 8 + j.toNat)
/-- The three clauses of MOVIX and STIX: a register; no register of the range, at its first excluded offset and below it; a
register outside the kernel's, and the last inside it. -/
theorem witness_IndexedRegisterResults :
    CanIssue (ixed 0x00000401) ∧ (ixed 0x00000401).g.nregs = 128 ∧ lanesOf tiny.g.width (activeMask np 0 tiny) = [0] ∧
    sel 128 0x00000401 0 = .reg 4 ∧ sel 128 0x00010401 0 = .bad ∧ sel 128 0xFFFF0401 0 = .bad ∧
    sel 4 0x00000401 0 = .far ∧ sel 5 0x00000401 0 = .reg 4 ∧ (ixed 0x00000401).g.markOf 0 4 = 0 ∧
    (∀ i ∈ [Instr.stix np nf, .ixset np 2 0 0 0], LaneHyp i np 0 2 1 (ixed 0x00000401)) := by
  unfold LaneHyp CanIssue; decide
/-- The machine with changed condition codes and p1. -/
def ccd (c : BitVec 4) (p1 : Dword) : State := tinyG fun G => { G with copies := [(0, ⟨[(63, 0x400101#64)], c, [(1, p1)]⟩)] }
/-- Taken and not taken; a target in the last halfword of the code range, and the first one outside it. -/
theorem witness_ControlTransferResults :
    CanIssue (ccd 4 1) ∧ brCond 1 (ccd 4 1).sc.cc = true ∧ brCond 1 (ccd 0 1).sc.cc = false ∧
    (predVal (ccd 0 1) 1 &&& (ccd 0 1).cur.mask) ≠ 0#64 ∧ (predVal (ccd 0 2) 1 &&& (ccd 0 2).cur.mask) = 0#64 ∧
    inCode tiny 4 (0x400000 + (tiny.launchOf 4).desc.codesz - 2) 2 = true ∧ inCode tiny 4 (0x400000 + (tiny.launchOf 4).desc.codesz) 2 = false := by
  unfold CanIssue; decide
theorem witness_DivergenceResults : CanIssue tiny ∧ LaneHyp (.join np 4) np 0 4 2 tiny := by unfold LaneHyp CanIssue; decide

/-- All eight lanes issue; p1 selects none. -/
def tiny8 : State := { tiny with cur := { tiny.cur with mask := 0xFF } }
abbrev e1 (x : Dword) : QEntry := ⟨x, 0, 0⟩
/-- QPUSH: a run longer than queue 6, an empty run, a run behind a full queue 7, a run that fits exactly; one entry for
queues 2, 4 and 6. -/
theorem witness_QueueInstructionResults :
    (∀ i ∈ [Instr.qpush np ⟨4, 0, 6, 0⟩, .qpush np ⟨4, 0, 7, 0⟩], LaneHyp i np 0 0 1 tiny8 ∧ waiting tiny8 = none) ∧
    qCap 6 < (lanesOf 8 (activeMask np 0 tiny8)).length ∧ activeMask np 1 tiny8 = 0#64 ∧
    (lanesOf 8 (activeMask np 0 tiny8)).length = 8 ∧ qCap 7 = 8 ∧ qFree tiny8 4 7 = 8 ∧
    (let s : State := { tiny8 with groups := [(4, { tinyGroup with q7 := [e1 1] })] }
     qFree s 4 7 < 8 ∧ waiting s = none) ∧
    1 ≤ qFree tiny 4 2 ∧ 1 ≤ qFree tiny 4 4 ∧ 1 ≤ qFree tiny 4 6 ∧ 1 ≤ qFree tiny 4 0 := by
  unfold LaneHyp CanIssue; decide
/-- QPOP and QTRY: 32 lanes from queue 5, a queue with too few entries, one with enough and without marks. -/
theorem witness_QueuePops :
    (let s : State := { tinyG (fun G => { G with width := 32 }) with cur := { tiny.cur with mask := 0xFFFFFFFF } }
     CanIssue s ∧ qCap 5 < (lanesOf s.g.width (activeMask np 0 s)).length) ∧
    CanIssue tiny ∧ (popQ tiny 4 1).length < 1 ∧
    (let s : State := tinyG fun G => { G with q1 := [e1 6] }
     CanIssue s ∧ popQ s 4 1 = [e1 6] ∧ (e1 6).mark = 0) := by
  unfold CanIssue; decide
/-- The team's barrier objects, the last in error. -/
def errBar : State := { tiny with teams := tiny.teams.map fun e => (e.1, { e.2 with bars := kput e.2.bars 3 { (e.2.bar 3) with err := true } }) }
/-- WAIT: no operation outstanding, no report, and a report in handler mode; one load outstanding against a threshold of
zero. The barrier instructions: the last object of the team, the number past it, and an object in error. -/
theorem witness_WaitAndBarrierResults :
    CanIssue tiny ∧ (∀ k < 4, (tiny.g.ocOf k).value = 0) ∧ waitReport tiny.g [0, 0, 0, 0] [(0, 0), (1, 0), (2, 0), (3, 0)] = none ∧
    (let s : State := tinyG fun G => { G with
       fails := [⟨0, 0x10, 7⟩], frame := some ⟨0x80, 1, 1, 0, 0, 1, 0, true, false, 0, false, [], [], 0⟩ }
     CanIssue s ∧ s.g.frame ≠ none) ∧
    ((tinyG fun G => G.enterOp 0 1).g.ocOf 0).value = 1 ∧ tiny.barCount 3 = 4 ∧ ((tiny.team 3).bar 3).err = false ∧
    ((tiny.team 3).bar 3).done 0xFFFFFFFF = true ∧ ((tiny.team 3).bar 3).done 1 = false ∧
    CanIssue errBar ∧ ((errBar.team 3).bar 3).err = true ∧ errBar.barCount 3 = 4 := by
  unfold CanIssue; decide
/-- The group with an older load that waits at its issue. -/
def behind : State := tinyG fun G => { G with blocks := [(1, ⟨.ldG np ⟨1, 0, 1, 6, 0⟩, 2, 0x400000, 4, [], 0, []⟩)] }
/-- The state of GBAR after it has arrived, as the statement has it. -/
def arrived (s : State) : State :=
  let l := (s.teamOf s.cur.grp).launch
  let data : List Nat := [1, (s.launch l).gen]
  let w := stall (.gbar np) data (drainCore (s.coreOf s.cur.grp) s)
  let b := (w.g.lane (lowBit s.cur.mask)).blk
  (w.modG fun G => { G with blocks := kmod G.blocks b fun y => { y with data := data } }).modLaunch l
    fun L => { L with arrivals := L.arrivals + popcount s.cur.mask }
/-- GBAR that must wait for an older load, that arrives first of eight lanes, and that arrives with all of them. -/
theorem witness_GridBarrierAndSleep :
    let l := (tiny.teamOf 4).launch
    let live (s : State) : Nat := (launchGroups (arrived s) l).foldl (fun n g => n + ((arrived s).grp g).live) 0
    CanIssue tiny ∧ (tiny.launch l).desc.gs = true ∧ gbarFree tiny = true ∧
    CanIssue behind ∧ (behind.launch l).desc.gs = true ∧ gbarFree behind = false ∧
    ((arrived tiny).launch l).arrivals < live tiny ∧
    CanIssue tiny8 ∧ gbarFree tiny8 = true ∧ live tiny8 ≤ ((arrived tiny8).launch l).arrivals ∧
    ((arrived tiny8).launch l).arrivals ≠ 0 ∧ (kget (arrived tiny8).launches l).isSome = true ∧
    (∀ x ∈ (arrived tiny8).groups, ∀ y ∈ x.2.pend, y.2.om = []) ∧
    (rs tiny 0).toNat % 2 ^ 32 = 0 ∧ (rs tiny 2).toNat % 2 ^ 32 ≠ 0 := by
  unfold CanIssue; decide
theorem witness_BarrierPhases :
    let b : Bar := ⟨0, 4, 0, 0, 9, 0, false, false⟩
    let c : Bar := { b with ca := 3 }
    let d : Bar := { b with err := true }
    b.sat = false ∧ b.err = false ∧ b.at_ ≠ 0 ∧ b.bt = 0 ∧ b.bt0 = 0 ∧ c.ca.toNat < c.at_.toNat ∧ d.err = true ∧
    b.upd.phase = 2 ∧ b.upd.ca = 1 := by decide

/-! ### Memory -/

/-- The lane's check passed. -/
def passes : LaneR → Bool
  | .global _ => true
  | .keys _ => true
  | _ => false
theorem clear_of {k sp n perm : Nat} {al : Bool} {acc : List LaneAcc} {s : State} (h : (s.g.ocOf k).value < 255)
    (p : ((checked s sp n perm al acc).all fun x => passes x.2) = true) : Clear k sp n perm al acc s := by
  refine ⟨h, fun x hx => ?_⟩
  have := List.all_eq_true.mp p x hx
  cases hr : x.2 with
  | global ps => exact .inl ⟨ps, rfl⟩
  | keys ks => exact .inr ⟨ks, rfl⟩
  | fail c v t => rw [hr] at this; cases this
  | wait => rw [hr] at this; cases this
/-- An access of lane 0 at address 0x401000 in .G, or 0 in another space. -/
abbrev at0 : List LaneAcc := [⟨0, 0x401000, 7, 9⟩]
/-- The machine with the same address in v4 and v5, and zero in s1. -/
def tinyA : State := tinyG fun G => { G with v := [(vk 0 4, 0x401000)], copies := [(0, ⟨[], 0, []⟩)] }

/-- It, of a kernel with team storage, lane storage and a chip window. -/
def tinyS : State :=
  { tinyA with
    launches := tiny.launches.map fun e => (e.1, { e.2 with desc := { e.2.desc with ls := 1, sc := 1, ec := 1 } })
    devs := [(0, { tiny.dev 0 with
      layA := ⟨[(0, 0x8000#16)], kput firstRows 3 (rget firstRows 3 + (1#64 <<< 39))⟩
      asid := [(4, 0x100001#64), (6, 0x80#64)] })] }

/-- The same state with an older store that waits at its issue. -/
def behindOf (s : State) : State :=
  { s with groups := s.groups.map fun e => (e.1, { e.2 with blocks := [(1, ⟨.stG np ⟨1, 0, 1, 8, 0⟩, 2, 0x400000, 4, [], 0, []⟩)] }) }
/-- The access of a load, of load number 0 where it is a store, as the statements name it. -/
def held (i : Instr) (k pend perm : Nat) (al : Bool) (s : State) : Held :=
  ⟨s.uid, i, (s.g.ocOf k).iss.toNat, pend, checked s 0 4 perm al at0⟩
/-- Whether it is free right after its issue. -/
def loadHeldFree (i : Instr) (perm : Nat) (al : Bool) (s : State) : Bool :=
  let h := held i 0 s.uid perm al s
  heldFree 4 h (openLoad i 0 0 (openWords 0 6 4 ⟨0, 0x401000, 7, 9⟩) [] [] h.acc s)
def storeHeldFree (i : Instr) (perm : Nat) (al : Bool) (s : State) : Bool :=
  let h := held i 1 0 perm al s
  heldFree 4 h (openStore i 0 h.acc s)
theorem checks_pass : ∀ s ∈ [tiny, behindOf tiny, tinyA, behindOf tinyA], ∀ x ∈ [(1, false), (2, false), (5, false), (5, true), (2, true), (3, true)],
    ((checked s 0 4 x.1 x.2 at0).all fun y => passes y.2) = true ∧ (∀ k < 2, (s.g.ocOf k).value < 255) ∧ s.g.defer = [] ∧
    s.uid = 5 ∧ waiting s = none ∧ (kget s.groups s.cur.grp).isSome = true := by decide
theorem clear_at {s : State} {k perm : Nat} {al : Bool} (hs : s ∈ [tiny, behindOf tiny, tinyA, behindOf tinyA])
    (hx : (perm, al) ∈ [(1, false), (2, false), (5, false), (5, true), (2, true), (3, true)]) (hk : k < 2) :
    Clear k 0 4 perm al at0 s :=
  clear_of ((checks_pass s hs _ hx).2.1 k hk) (checks_pass s hs _ hx).1
theorem clear_in {k sp perm : Nat} (hk : k < 2) (hp : perm = 1 ∨ perm = 2) (h : sp ∈ [1, 2, 3, 4]) :
    Clear k sp 4 perm false [⟨0, 0, 0, 0⟩] tinyS := by
  have h2 : ∀ sp ∈ [1, 2, 3, 4], ∀ perm ∈ [1, 2], ((checked tinyS sp 4 perm false [⟨0, 0, 0, 0⟩]).all fun x => passes x.2) = true := by
    decide
  have h3 : ∀ k < 2, (tinyS.g.ocOf k).value < 255 := by decide
  exact clear_of (h3 k hk) (h2 sp h perm (by simpa using hp))

/-- LD and LDA that are made at once, and behind an older store; LD in every space. -/
theorem witness_LoadInstructionResults :
    LaneHyp (.ldG np ⟨1, 0, 1, 6, 0⟩) np 0 6 1 tiny ∧ waiting tiny = none ∧ tiny.uid ≠ 0 ∧ tiny.g.defer = [] ∧
    (∀ s ∈ [tiny, behindOf tiny], CanIssue s ∧ loadReady (checked s 0 4 1 false at0) s = true ∧
      loadReady (checked s 0 4 5 true at0) s = true) ∧
    loadHeldFree (.ldG np ⟨1, 0, 1, 6, 0⟩) 1 false tiny = true ∧
    loadHeldFree (.ldG np ⟨1, 0, 1, 6, 0⟩) 1 false (behindOf tiny) = false ∧
    loadHeldFree (.lda np ⟨3, 0, 1, 6, 0⟩) 5 true tiny = true ∧
    loadHeldFree (.lda np ⟨3, 0, 1, 6, 0⟩) 5 true (behindOf tiny) = false := by
  unfold LaneHyp CanIssue; decide
theorem witness_LoadChecks : (∀ s ∈ [tiny, behindOf tiny], Clear 0 0 4 1 false at0 s ∧ Clear 0 0 4 5 true at0 s) ∧
    ∀ sp ∈ [1, 2, 3, 4], Clear 0 sp 4 1 false [⟨0, 0, 0, 0⟩] tinyS := by
  refine ⟨fun s hs => ?_, fun sp h => clear_in (by decide) (.inl rfl) h⟩
  have : s ∈ [tiny, behindOf tiny, tinyA, behindOf tinyA] := by
    simp only [List.mem_cons, List.not_mem_nil, or_false] at hs ⊢; exact hs.elim .inl fun h => .inr (.inl h)
  exact ⟨clear_at this (by decide) (by decide), clear_at this (by decide) (by decide)⟩
/-- ST and STREL that are made at once, and behind an older store; ST in every space. -/
theorem witness_StoreInstructionResults :
    LaneHyp (.stG np ⟨1, 0, 1, 8, 0⟩) np 0 8 1 tiny ∧ LaneHyp (.strel np ⟨3, 0, 1, 8, 0⟩) np 0 8 1 tiny ∧
    (∀ s ∈ [tiny, behindOf tiny], CanIssue s ∧ storeReady (checked s 0 4 2 false at0) s = true ∧
      storeReady (checked s 0 4 2 true at0) s = true) ∧
    storeHeldFree (.stG np ⟨1, 0, 1, 8, 0⟩) 2 false tiny = true ∧
    storeHeldFree (.stG np ⟨1, 0, 1, 8, 0⟩) 2 false (behindOf tiny) = false ∧
    storeHeldFree (.strel np ⟨3, 0, 1, 8, 0⟩) 2 true tiny = true ∧
    storeHeldFree (.strel np ⟨3, 0, 1, 8, 0⟩) 2 true (behindOf tiny) = false := by
  unfold LaneHyp CanIssue; decide
theorem witness_StoreChecks : (∀ s ∈ [tiny, behindOf tiny], Clear 1 0 4 2 false at0 s ∧ Clear 1 0 4 2 true at0 s) ∧
    ∀ sp ∈ [1, 2, 3, 4], Clear 1 sp 4 2 false [⟨0, 0, 0, 0⟩] tinyS := by
  refine ⟨fun s hs => ?_, fun sp h => clear_in (by decide) (.inr rfl) h⟩
  have : s ∈ [tiny, behindOf tiny, tinyA, behindOf tinyA] := by
    simp only [List.mem_cons, List.not_mem_nil, or_false] at hs ⊢; exact hs.elim .inl fun h => .inr (.inl h)
  exact ⟨clear_at this (by decide) (by decide), clear_at this (by decide) (by decide)⟩
/-- GATHER and SCATTER of the lane at 0x401000: bitmap 0 free and in use by an older GATHER; with .RS, of a lane that is not
done; made at once and behind an older store. -/
theorem witness_GatherScatterResults :
    (∀ i ∈ [Instr.gather np ⟨0, 0, 2, 6, 0⟩, .scatter np ⟨0, 8, 2, 6, 0⟩], ∀ s ∈ [tinyA, behindOf tinyA],
      LaneHyp i np 0 6 1 s ∧ s.g.rdWords 0 4 2 = 0x401000 ∧ cbBusy s 4 0 = false ∧ s.uid ≠ 0 ∧ s.g.defer = [] ∧
      waiting s = none ∧ (rget s.g.cb 0).getLsbD 0 = false) ∧
    (let s : State := tinyG fun G => { G with blocks := [(1, ⟨.gather np ⟨0, 0, 2, 6, 0⟩, 2, 0x400000, 4, [], 0, []⟩)] }
     LaneHyp (.gather np ⟨0, 0, 2, 6, 0⟩) np 0 6 1 s ∧ LaneHyp (.scatter np ⟨0, 0, 2, 6, 0⟩) np 0 6 1 s ∧
     cbBusy s 4 0 = true ∧ waiting s = none) ∧
    loadHeldFree (.gather np ⟨0, 0, 2, 6, 0⟩) 1 false tinyA = true ∧
    loadHeldFree (.gather np ⟨0, 0, 2, 6, 0⟩) 1 false (behindOf tinyA) = false ∧
    storeHeldFree (.scatter np ⟨0, 0, 2, 6, 0⟩) 2 false tinyA = true ∧
    storeHeldFree (.scatter np ⟨0, 0, 2, 6, 0⟩) 2 false (behindOf tinyA) = false := by
  unfold LaneHyp CanIssue; decide
/-- The checks of GATHER, SCATTER, ATOM, ATOMR and CAS there. -/
theorem witness_GatherAtomicChecks : ∀ s ∈ [tinyA, behindOf tinyA],
    Clear 0 0 4 1 false at0 s ∧ Clear 1 0 4 2 false at0 s ∧ Clear 0 0 4 3 true at0 s ∧ Clear 1 0 4 3 true at0 s ∧
    loadReady (checked s 0 4 1 false at0) s = true ∧ storeReady (checked s 0 4 2 false at0) s = true ∧
    atomReady true (checked s 0 4 3 true at0) s = true ∧ atomReady false (checked s 0 4 3 true at0) s = true := by
  intro s hs
  have hm : s ∈ [tiny, behindOf tiny, tinyA, behindOf tinyA] := by
    simp only [List.mem_cons, List.not_mem_nil, or_false] at hs ⊢; exact .inr (.inr hs)
  refine ⟨clear_at hm (by decide) (by decide), clear_at hm (by decide) (by decide), clear_at hm (by decide) (by decide),
    clear_at hm (by decide) (by decide), ?_⟩
  have h : ∀ s ∈ [tinyA, behindOf tinyA], loadReady (checked s 0 4 1 false at0) s = true ∧
    storeReady (checked s 0 4 2 false at0) s = true ∧ atomReady true (checked s 0 4 3 true at0) s = true ∧
    atomReady false (checked s 0 4 3 true at0) s = true := by decide
  exact h s hs
/-- The atomics, made at once and behind an older store; and the keys of one of them. -/
theorem witness_AtomicInstructionResults :
    (∀ i ∈ [Instr.atom np ⟨0, 0, 2, 8, 0⟩, .atomr np ⟨0, 0, 2, 6, 0⟩, .cas np 0 2 6 0], ∀ s ∈ [tinyA, behindOf tinyA],
      LaneHyp i np 0 6 1 s ∧ s.uid ≠ 0 ∧ s.g.defer = [] ∧ waiting s = none) ∧
    storeHeldFree (.atom np ⟨0, 0, 2, 8, 0⟩) 3 true tinyA = true ∧
    storeHeldFree (.atom np ⟨0, 0, 2, 8, 0⟩) 3 true (behindOf tinyA) = false ∧
    loadHeldFree (.atomr np ⟨0, 0, 2, 6, 0⟩) 3 true tinyA = true ∧
    loadHeldFree (.cas np 0 2 6 0) 3 true tinyA = true ∧ loadHeldFree (.cas np 0 2 6 0) 3 true (behindOf tinyA) = false ∧
    Safe tinyA ∧ (∀ j < 4, kget tinyA.psn ((gk 0 0 0 0 + j) / 32) = none ∧ gkSpace (gk 0 0 0 0 + j) ≠ 4) ∧
    memLe tinyA.mem (gk 0 0 0 0) 4 ≠ 7 := by
  unfold LaneHyp CanIssue Safe; decide
/-- A FENCE made at once and behind an older store; ACQ.PROMOTE of core 0, free and behind an older store, and of the number past
the last core; PREF behind an access still to be made; CFLUSH made at once and behind an older store. -/
theorem witness_FenceAndCacheResults :
    let c := tiny.contOf 4
    let fence : Instr := .fence np 0 3
    let fenced (s : State) : State := finish fence {} ((s.modG fun G => { G with defer := [⟨s.uid, fence, 0, 0, []⟩] }).fresh)
    let pend : State := tinyG fun G => { G with defer := [⟨1, fence, 0, 0, []⟩] }
    CanIssue tiny ∧ CanIssue (behindOf tiny) ∧ heldFree 4 ⟨5, fence, 0, 0, []⟩ (fenced tiny) = true ∧
    heldFree 4 ⟨5, fence, 0, 0, []⟩ (fenced (behindOf tiny)) = false ∧
    (tiny.dev c.d).ncores c.p ≤ (rs tiny 1).toNat ∧ (rs tiny 0).toNat < (tiny.dev c.d).ncores c.p ∧
    olderMem tiny.g tiny.uid = false ∧ (∀ k ∈ tiny.coresOf 0 0, wpReady tiny k = true) ∧ olderMem (behindOf tiny).g 5 = true ∧
    CanIssue pend ∧ pend.g.defer ≠ [] ∧
    (∀ s ∈ [tiny, behindOf tiny], LaneHyp (.cflush np 1 0 1 0 0) np 0 0 1 s ∧ s.g.defer = [] ∧ waiting s = none) ∧
    storeHeldFree (.cflush np 1 0 1 0 0) 5 false tiny = true ∧
    storeHeldFree (.cflush np 1 0 1 0 0) 5 false (behindOf tiny) = false := by
  unfold LaneHyp CanIssue; decide
theorem witness_FlushChecks : Clear 1 0 4 5 false at0 tiny ∧ Clear 1 0 4 5 false at0 (behindOf tiny) :=
  ⟨clear_at (by simp) (by decide) (by decide), clear_at (by simp) (by decide) (by decide)⟩
/-- The machine whose bank holds the claimed slots of a mask. -/
def claimed (m : BitVec 16) : State := { tiny with conts := tiny.conts.map fun e => (e.1, { e.2 with claims := m }) }
/-- Its group has issued a TFILL of slot 2 that has not read yet. -/
def filling (m : BitVec 16) : State :=
  { claimed m with groups := [(4, { tinyGroup with pend := [(1, ⟨0, false, [], [], [], [(32768, 0, 0)], 0, 0⟩)] })] }
/-- TCFG with and without a claim; TREL of s2 = 5, slots 0 and 2: one unclaimed, both claimed, and one to be written yet;
claims in a safe state. -/
theorem witness_ClaimInstructionResults :
    CanIssue tiny ∧ Safe tiny ∧ tiny.cc.claims = 0 ∧ ((List.range 4).any tiny.cc.regionBusy) = false ∧
    (kget tiny.conts tiny.ccId).isSome ∧ CanIssue (claimed 1) ∧ (claimed 1).cc.claims ≠ 0 ∧
    CanIssue (claimed 5) ∧ (rs (claimed 5) 2) = 5 ∧ (claimed 1).cc.claimed 2 = false ∧
    (∀ k ∈ [0, 2], (claimed 5).cc.claimed k = true ∧ relBusy (claimed 5) k = false) ∧
    CanIssue (filling 5) ∧ (∀ k ∈ [0, 2], (filling 5).cc.claimed k = true) ∧ relBusy (filling 5) 2 = true := by
  unfold CanIssue Safe; decide
/-- All slots claimed but slot 0, and s3 = x; the same in region 0 with slot 0 claimed too. -/
def rowed (x : Dword) : State := { claimed 0xFFFE with groups := [(4, { tinyGroup with copies := [(0, ⟨[(1, 0x401000#64), (3, x)], 0, []⟩)] })] }
/-- PARK and UNPARK of one row: the last row of slot 0, a claimed slot, a field above the row number, two rows across two slots,
and a row of the accumulator. -/
theorem witness_ParkedRows :
    LaneHyp (.park np 0 3 4 0) np 0 4 1 (rowed 63) ∧ LaneHyp (.unpark np 0 3 4 0) np 0 4 1 (rowed 63) ∧
    waiting (rowed 63) = none ∧ (∀ x ∈ [63, 64, 2048, 1087], (rs (rowed (BitVec.ofNat 64 x)) 3).toNat = x) ∧
    (63 / 64 = (63 + 0) / 64 ∧ 63 / 64 ≠ (63 + 1) / 64) ∧ 2048 / 2 ^ 11 ≠ 0 ∧
    ((rowed 63).cc.claimed 0 || (rowed 63).cc.slotBusy 0) = false ∧ (rowed 64).cc.claimed 1 = true ∧
    (rowed 63).cc.regionBusy 0 = false := by
  unfold LaneHyp CanIssue; decide
/-- The window entry that WINRD reads: none, and a vector result of v6, as a frame saves them. -/
def savedWin (w : List WinEntry) : State :=
  tinyG fun G => { G with frame := some ⟨0x80, 1, 1, 0, 0, 1, 0, true, false, 0, false, w, [], 0⟩ }
theorem witness_SavedWindow :
    (∀ w ∈ [[], [(⟨true, false, 0, false, 6, 0, 1, [(vk 0 6, 7)], 0, 0⟩ : WinEntry)]],
      LaneHyp (.winrd np 4 0 127 0) np 0 127 1 (savedWin w) ∧ waiting (savedWin w) = none) ∧
    savedEntry (savedWin []).g 0 = none ∧
    (savedEntry (savedWin [⟨true, false, 0, false, 6, 0, 1, [(vk 0 6, 7)], 0, 0⟩]).g 0).any (fun w => w.late = 0 && w.wr) = true := by
  unfold LaneHyp CanIssue; decide
/-- TFILL and TROW.OM: the last offset of the operand store, one past it, a misaligned one, one in the unclaimed slot, and one
that an older TFILL has still to write. -/
theorem witness_StorageInstructionResults :
    (∀ i ∈ [Instr.tfill np 1 0 1 3 0, .trow np ⟨4, 3, 6, 0⟩], LaneHyp i np 0 6 1 (rowed 0x3FFE0)) ∧
    waiting (rowed 0x3FFE0) = none ∧
    (∀ x ∈ [0x3FFE0, 0x3FFE4, 0x3FFC2, 0], (rs (rowed (BitVec.ofNat 64 x)) 3).toNat = x) ∧
    0x3FFE0 + 8 * 4 = 2 ^ 18 ∧ 0x3FFC2 % 4 ≠ 0 ∧ (rowed 0x3FFE0).cc.claimed (0x3FFE0 / 2 ^ 14) = true ∧
    (rowed 0).cc.claimed (0 / 2 ^ 14) = false ∧ rowBusy (rowed 0x3FFE0) 4 [0x3FFE0] = false ∧
    (landRows 4 [0x3FFE0] (rowed 0x3FFE0)).groups = (rowed 0x3FFE0).groups ∧ (rowed 0x3FFE0).g.defer = [] := by
  unfold LaneHyp CanIssue; decide
theorem witness_StorageWaits :
    let s : State := { filling 0xFFFF with groups := (filling 0xFFFF).groups.map fun e =>
      (e.1, { e.2 with copies := [(0, ⟨[(1, 0x401000#64), (3, 32768)], 0, []⟩)] }) }
    LaneHyp (.tfill np 1 0 1 3 0) np 0 6 1 s ∧ LaneHyp (.trow np ⟨4, 3, 6, 0⟩) np 0 6 1 s ∧ waiting s = none ∧
    (rs s 3).toNat = 32768 ∧ s.cc.claimed (32768 / 2 ^ 14) = true ∧ rowBusy s 4 [32768] = true := by
  unfold LaneHyp CanIssue; decide
theorem witness_FillChecks : Clear 0 0 4 5 false at0 (rowed 0x3FFE0) := clear_of (by decide) (by decide)
/-- A TFILL that is made at once, and behind an older store; TROW from a region of the accumulator that is free, and one that an
operation is to write. -/
theorem witness_TileRows :
    (∀ s ∈ [rowed 0x3FFE0, behindOf (rowed 0x3FFE0)], loadReady (checked s 0 4 5 false at0) s = true ∧
      rowBusy s 4 [0x3FFE0] = false ∧ CanIssue s) ∧
    loadHeldFree (.tfill np 1 0 1 3 0) 5 false (rowed 0x3FFE0) = true ∧
    loadHeldFree (.tfill np 1 0 1 3 0) 5 false (behindOf (rowed 0x3FFE0)) = false ∧
    LaneHyp (.trow (p0 2 0x1F 0 1) ⟨4, 3, 6, 0⟩) (p0 2 0x1F 0 1) 0 6 1 (rowed 0) ∧ (rowed 0).cc.regionBusy 0 = false ∧
    (let s : State := { rowed 0 with conts := (rowed 0).conts.map fun e => (e.1, { e.2 with
       mq := [(5, ⟨4, 0, 0x401000, .products, [0x10000010#64, 0x42#64, 0, 0, 0, 0, 0, 0], 0, 0, 0, [], 0, 0, false⟩)] }) }
     LaneHyp (.trow (p0 2 0x1F 0 1) ⟨4, 3, 6, 0⟩) (p0 2 0x1F 0 1) 0 6 1 s ∧ s.cc.regionBusy 0 = true) := by
  unfold LaneHyp CanIssue; decide
/-! ### Traps -/

/-- The group with a handler and a frame. -/
def trapped : State := nx (exec (.trap np 1) (tinyG fun G => { G with thand := 0x400100#57 }))
theorem witness_TrapEntrySavesAndStarts :
    let h : State := tinyG fun G => { G with thand := 0x400100#57 }
    (kget tiny.groups 4).isSome = true ∧ (h.grp 4).thand ≠ 0 ∧ (h.grp 4).frame = none ∧ (tiny.grp 4).thand = 0 ∧
    (trapped.grp 4).frame ≠ none := by decide
/-- A frame of TRAP (retired or not, decoded). -/
def framed (d : BitVec 16) (r : Bool) : State :=
  tinyG fun G => { G with frame := some ⟨0x70, 1, 0, 0x400004, d, 1, 0x400008, true, r, 0x400000, false, [], [], 0⟩ }
/-- TFENCE with and without an enabled flag; the four instructions outside a handler and in one. -/
theorem witness_TrapInstructionResults :
    CanIssue tiny ∧ tiny.g.frame = none ∧ CanIssue trapped ∧ trapped.g.frame ≠ none ∧
    (tinyG fun G => { G with aflags := 1, aen := 1 }).g.aflags &&& 1#6 ≠ 0#6 ∧ tiny.g.aflags = 0#6 := by
  unfold CanIssue; decide
/-- REPLACE of a vector word, of a scalar register, with no destination, and after an instruction that has retired: the lanes
in which it reads va, and their words. -/
theorem witness_ReplaceReads :
    (∀ x ∈ [((0x8005 : BitVec 16), false, 1), (0xC002, false, 1), (0x0000, false, 0), (0x8005, true, 0)],
      let s := framed x.1 x.2.1
      CanIssue (landFor (srcRegs (.replace np 0 4)) s) ∧ (0x8005#16).toNat % 128 + 0 < 128 ∧
      consumed (landFor (srcRegs (.replace np 0 4)) s).g
        (lanesOf s.g.width (maskOf ((lanesOf s.g.width 1#64).take x.2.2))) (srcRegs (.replace np 0 4)) = none) ∧
    lanesOf (framed 0x8005 false).g.width 1#64 = [0] := by
  unfold CanIssue; decide
theorem witness_MarkedSourceTraps :
    let m : State := tinyG fun G => { G with pz := [(vk 0 4, 2)] }
    waiting m = none ∧
    (∀ i ∈ [Instr.vadd np gf, .vmad np gf, .vand np gf, .vshl np gf, .vsel np gf, .fadd np gf, .ffma np gf, .fscale np gf,
        .vabs np uf, .frcp np uf, .stG np ⟨0, 0, 1, 4, 0⟩, .stSp np ⟨0, 0, 1, 4, 0⟩, .join np 4, .ixset np 4 0 0 0,
        .qpush np ⟨4, 0, 7, 0⟩],
      (consumed (landFor (srcRegs i) m).g (lanesOf 8 1#64) (srcRegs i)) = some (2, 1#64)) := by decide
/-- A marked word of s1, which SADD reads; a marked entry in the queue from which QPOP takes one. -/
theorem witness_MarkedScalarsAndEntries :
    (let s : State := tinyG fun G => { G with smk := [(smKey 0 2 0, 1)] }
     ∃ z ∈ smReads s (.sadd np ⟨2, 1, 3, 0⟩), (kget s.g.smk z).isSome = true) ∧
    (let s : State := tinyG fun G => { G with q1 := [⟨6, 2, 0x402000⟩] }
     let ls := popLanes s.g.width false (activeMask np 0 s)
     let bad := (ls.zip (popQ s 4 1)).filter fun x => x.2.mark ≠ 0
     CanIssue s ∧ ls.length = 1 ∧ (popQ s 4 1).length = 1 ∧ qCap 1 = 32 ∧ (∃ x ∈ bad, x.2.mark = 2) ∧ (∀ x ∈ bad, 2 ≤ x.2.mark) ∧
      (bad.find? fun x => x.2.mark = 2).map (fun x => x.2.va) = some 0x402000#64) := by
  unfold CanIssue; decide

/-! ### Fetch and issue -/

/-- An instruction that issues in an even turn, in a group without marked words. -/
theorem witness_StepRunsDecodedInstruction :
    let s := firstFetch State.reset (leBytes (wg 8 4 2 0x01) 4) false
    inputStep (tick s) = none ∧ s.turn % 2 = 0 ∧ (s.grp 4).smk = [] ∧
      (pick (tick s)).map (fun x => (x.1, x.2.1, x.2.2 = .ok (.vadd np gf) 4)) = some (4, 0, True) := by
  refine ⟨by decide, by decide, by decide, ?_⟩
  simp only [Option.map_eq_some_iff]
  refine ⟨(4, 0, .ok (.vadd np gf) 4), by decide, by simp⟩
/-- Halfwords of a sequence, more to come; the code range's end; a page whose translation the host has still to answer. -/
theorem witness_FetchReadsInstruction :
    let s := firstFetch State.reset (leBytes (wg 8 4 2 0x01) 4) false
    fetchHalf s 4 0x400000 = .half 0x1003#16 ∧ fetchHalf s 4 0x400002 = .half 0x1010#16 ∧
    decode (kctxOf s 4) [0x1003#16] = .more ∧ decode (kctxOf s 4) [0x1003#16, 0x1010#16] = .ok (.vadd np gf) 2 ∧
    decode (kctxOf s 4) [0x0000#16] = .bad .zeroWord 1 ∧
    inCode s 4 (0x400000 + (s.launchOf 4).desc.codesz) 2 = false := by decide
theorem witness_FetchWaits :
    let s := firstFetch State.reset (leBytes (wg 8 4 2 0x01) 4) false
    fetchHalf { s with
      parts := [(0, { Part.reset with tlb := [{ firstTlb with pbase := 2 * 2 ^ 52 + firstPc }] })]
      devs := [(0, { firstDev with asid := firstDev.asid ++ [(5, 1#64 <<< 30)] })] } 4 0x400000 = .wait := by decide
theorem witness_IssueOrder :
    (pickGroup tiny [4]).isSome = true ∧ pickGroup tiny [] = none := by decide
theorem witness_IllegalAndFetchFaultResults : (kget tiny.groups tiny.cur.grp).isSome = true := by decide
/-- An event at the head of the agenda that can happen, an event that cannot, an instruction there, an empty agenda with an
enabled event in an odd turn, and the reset state with none. -/
theorem witness_InputAndEventStep :
    let a : State := { State.reset with agenda := [.kill 0 3] }
    let b : State := { State.reset with agenda := [.nop np] }
    isEvent (.kill 0 3) = true ∧ a.agenda = [.kill 0 3] ∧
    exec (.kill 0 3) { tick a with agenda := [] } = .next (nx (exec (.kill 0 3) { tick a with agenda := [] })) ∧
    b.agenda = [.nop np] ∧ isEvent (.nop np) = false ∧
    pick (tick State.reset) = none ∧ firstCand (tick State.reset) (cands (tick State.reset)) = none := by
  refine ⟨by decide, rfl, ?_, by decide, by decide, by decide, by decide⟩
  rfl
theorem witness_BlockedInput : isEvent (.byteCredit 0) = true ∧
    ∀ t, exec (.byteCredit 0) { tick State.reset with agenda := [] } ≠ .next t := by
  refine ⟨by decide, fun t h => ?_⟩
  cases h
theorem witness_EventInOddTurn :
    let s : State := { nx (exec (.stG np ⟨1, 0, 1, 8, 0⟩) tiny) with turn := 1 }
    inputStep (tick s) = none ∧ s.turn % 2 = 1 ∧ (firstCand (tick s) (cands (tick s))).isSome = true := by decide
/-! ### Events -/

/-- Memory with doublewords at 0x401000. -/
def holding (s : State) (ws : List Dword) : State :=
  { s with mem := putBytes s.mem (gk 0 0 0 0x401000) (ws.flatMap fun w => leBytes w.toNat 8) }
/-- A graph node that stands at 0x401000. -/
def node9 (st : Option Nat) : GNode := ⟨0, 0, 1, 0, 0, 0x401000, 0, 0, 0, 0, 0, st, 0⟩
/-- The number and body of the instruction that the group waits in. -/
def waitsIn (s : State) (p : Block → Bool) : Bool :=
  (kget (s.grp 4).blocks 5).any fun x => decide (waiting (atBlock 4 5 s) = some (5, x)) && atBoundary s 4 && p x
/-- After SLEEP of five units the time has come; WAIT whose load has retired; QPOP whose entry came, into a vector and into a
scalar register. -/
theorem witness_WaitsEnd :
    waitsIn { nx (exec (.sleep np 2) tiny) with time := 5 } (fun x => x.instr = .sleep np 2 && x.data = [0, 5]) = true ∧
    (let w := nx (exec (.wait np 0 0 0 0) (tinyG fun G => G.enterOp 0 1))
     let s : State := { w with groups := [(4, (w.grp 4).doneOp 0 ((w.grp 4).ocOf 0).ret.toNat)] }
     let thr : List (Nat × Nat) := [(0, 0), (1, 0), (2, 0), (3, 0)]
     waitsIn s (fun x => x.instr = .wait np 0 0 0 0 && waitMet (s.grp 4) x.data thr && waitReport (s.grp 4) x.data thr = none)
      = true) ∧
    (∀ f ∈ [(⟨1, 0, 127, 0⟩ : NForm), ⟨1, 1, 3, 0⟩],
      let w := nx (exec (.qpop np f) tiny)
      let s : State := { w with groups := [(4, { w.grp 4 with q1 := [e1 6] })] }
      waitsIn s (fun x => x.instr = .qpop np f && x.data = [1] && (decide (f.a = 0) || decide (x.sdst ≠ 0))) = true ∧
      popQ s 4 1 = [e1 6] ∧ popLanes (s.grp 4).width (decide (f.a ≠ 0#7)) 1 = [0] ∧ (e1 6).mark = 0) := by decide
/-- QPUSH of one entry behind a full queue that has been emptied: queue 7, queue 2, and a queue of the team. -/
theorem witness_PushesEnd :
    (let w := nx (exec (.qpush np ⟨4, 0, 7, 0⟩) (tinyG fun G => { G with q7 := List.replicate 8 (e1 1) }))
     let s : State := { w with groups := [(4, { w.grp 4 with q7 := [] })] }
     waitsIn s (fun x => x.instr = .qpush np ⟨4, 0, 7, 0⟩ && x.data = [1, 7]) = true ∧ 1 ≤ qRoom s 4 7 ∧
      olderPush s 4 7 5 = false) ∧
    (let w := nx (exec (.qpush np ⟨4, 0, 2, 0⟩) (tinyG fun G => { G with q2 := List.replicate 16 ⟨1, 0, [], 0⟩ }))
     let s : State := { w with groups := [(4, { w.grp 4 with q2 := [] })] }
     waitsIn s (fun x => x.instr = .qpush np ⟨4, 0, 2, 0⟩ && x.data = [1, 7]) = true ∧ 1 ≤ qRoom s 4 2 ∧
      olderPush s 4 2 5 = false) ∧
    (let full : State := { tiny with teams := tiny.teams.map fun e => (e.1, { e.2 with tq := [(9, List.replicate (qCap 9) (e1 1))] }) }
     let s : State := { nx (exec (.qpush np ⟨4, 0, 9, 0⟩) full) with teams := tiny.teams }
     waitsIn s (fun x => x.instr = .qpush np ⟨4, 0, 9, 0⟩ && x.data = [1, 7]) = true ∧ 1 ≤ qRoom s 4 9 ∧
      olderPush s 4 9 5 = false ∧ (kget s.teams (s.grp 4).team).isSome = true) := by decide
/-- A credit of the last object of a team and of the number past it; of a team that is gone; one that lands at the slot of a
team, and at a slot without one. -/
theorem witness_Credits :
    (let s (t o : Nat) : State := { tiny with credits := [⟨t, o, 32, 0, none⟩] }
     (kget (s 3 3).teams 3).isSome = true ∧ (s 3 3).barCount 3 = 4 ∧ kget (s 9 0).teams 9 = none) ∧
    teamAt tiny 0 0 0 0 0 = some (0, 3) ∧ teamAt tiny 0 0 0 0 1 = none ∧ tiny.mlog = [] := by decide

/-- Every lane has exited. -/
def exited (f : Group → Group) : State := tinyG fun G => f { G with lanes := G.lanes.map fun e => (e.1, { e.2 with st := .exited }) }
/-- A launch that waits for its first team, the device's banks EMPTY. -/
def launching (f : Launch → Launch := id) : State :=
  { tiny with
    groups := [], teams := [], conts := [], cores := [(0, Core.reset)]
    launches := [(2, f { tiny.launch 2 with placed := 0, desc := { (tiny.launch 2).desc with gs := false, clw := 0, clh := 0 } })]
    parts := [(0, { tiny.part 0 0 with launchq := [2] })] }
/-- A watch report at a boundary; a group that retires with a report of a failed store and without one; with an empty q7 and with
a node's address in it; the other conditions. -/
theorem witness_TrapEntryRetirementPlacement :
    (let s := tinyG fun G => { G with thand := 0x400100, lostRep := [1] }
     atBoundary s 4 = true ∧ (firstTrap (boundaryTraps (s.grp 4))).any (fun t => !waitGoes (s.grp 4) t) = true) ∧
    (∀ s ∈ [exited id, exited (fun G => { G with fails := [⟨0, 0x11, 7⟩], xmask := 1 }), exited fun G => { G with q7 := [e1 0x401001] }],
      atBoundary s 4 = true ∧ (s.grp 4).frame = none ∧ (∀ e ∈ (s.grp 4).lanes, e.2.st = .exited) ∧
      retFree s (s.launchOf 4) = true ∧ (s.grp 4).defer = [] ∧ (s.grp 4).pend = [] ∧ coreWrites s 4 = false ∧
      ((s.grp 4).q7 = [] ∨ rootReady 4 s = true) ∧ (∀ k < 4, ((s.grp 4).ocOf k).value = 0)) ∧
    retireReport ((exited id).grp 4) = none ∧
    (retireReport ((exited fun G => { G with fails := [⟨0, 0x11, 7⟩] }).grp 4)).isSome = true := by decide
/-- The last group of a team and one of two; the last team of a launch of a node and of a task, and one of two. -/
theorem witness_Retirement :
    (tiny.team 3).groups.filter (fun x => x ≠ 4) = [] ∧ (kget tiny.teams 3).isSome = true ∧ (tiny.team 3).launch = 2 ∧
    (let s : State := { tiny with teams := tiny.teams.map fun e => (e.1, { e.2 with groups := [4, 9] }) }
     (s.team 3).groups.filter (fun x => x ≠ 4) ≠ []) ∧
    teamBusy tiny 3 = false ∧ (tiny.launch 2).retired + 1 = (tiny.launch 2).nteams ∧
    (let s : State := { tiny with nodes := [(0, node9 none)] }
     kget s.launches 2 = some (s.launch 2) ∧ (s.launch 2).task = none ∧ kget s.nodes (s.launch 2).node = some (node9 none)) ∧
    (let s : State := { tiny with
       launches := tiny.launches.map fun e => (e.1, { e.2 with task := some 7, nteams := 2 })
       cmds := [(7, mkCmd 4 4 (partyOf tiny 4) 0 0 0 ⟨0, 0, [], 0⟩)] }
     (s.launch 2).task = some 7 ∧ (kget s.cmds 7).isSome = true ∧ (s.launch 2).retired + 1 ≠ (s.launch 2).nteams) := by decide
/-- The dealer's head: a launch whose place is ready, a `.gridsync` launch, a descriptor that cannot be read, one of zeros, and a
good one. -/
theorem witness_Placement :
    (let s := launching
     (s.dev 0).partOk 0 = true ∧ (s.dev 0).lockout = false ∧ (s.dev 0).applied = true ∧
     (queueHead s 0 0).map (fun x => x.2.2) = some (.inl 2) ∧ (s.launch 2).desc.rg ≠ 0 ∧ (s.launch 2).desc.gs = false ∧
     (s.launch 2).d = 0 ∧ (s.launch 2).p = 0 ∧ (kget s.launches 2).isSome = true ∧
     (findSpot s 0 0 ((s.launch 2).desc.clw + 1) ((s.launch 2).desc.clh + 1) (seekerOf s (s.launch 2)) [0, 1]).any
       (fun y => spotReady s y) = true) ∧
    ((tiny.core 0).bank 0).st = .active := by decide
theorem witness_GridPlacement :
    let s := launching fun L => { L with desc := { L.desc with gs := true } }
    (queueHead s 0 0).map (fun x => x.2.2) = some (.inl 2) ∧ (s.launch 2).desc.gs = true ∧
    (placeAll 2 0 s (s.launch 2).nteams s).map Prod.snd = some true := by decide
theorem witness_LaunchDescriptors :
    let un (a : Dword) : State := launching fun L => { L with daddr := a, desc := { L.desc with rg := 0 } }
    let good : List Dword := [0x400000, 0x100000, 0x1000, 0, 0, 0, 0, 0]
    readDesc (un 0x401008) ((un 0x401008).launch 2) = some none ∧
    readDesc (un 0x401000) ((un 0x401000).launch 2) = some (some [0, 0, 0, 0, 0, 0, 0, 0]) ∧
    descOk [0, 0, 0, 0, 0, 0, 0, 0] = false ∧
    readDesc (holding (un 0x401000) good) ((un 0x401000).launch 2) = some (some good) ∧ descOk good = true ∧
    launchStatus (tiny.dev 0) ((un 0x401000).launch 2) (descOf good) = 0 := by decide
/-- A released image of class 5 is the head, and a bank of a context of class 0 is there to be taken for it. -/
def waitingImage : State :=
  { tiny with
    teams := tiny.teams.map fun e => (e.1, { e.2 with cls := 5 })
    cores := [(0, { Core.reset with b0 := ⟨.active, 20⟩, b1 := ⟨.inactive, 21⟩ })]
    conts := tiny.conts.map (fun e => (e.1, { e.2 with loc := .slot 0 })) ++
      [(20, { blankCont with asid := 2, loc := .bank 0 0 }), (21, { blankCont with asid := 2, loc := .bank 0 1 })]
    devs := [(0, { tiny.dev 0 with ctx := [(2, { Ctx.reset with save := 2 })] })] }
theorem witness_ImagePlacement : (queueHead waitingImage 0 0).map (fun x => x.2.2) = some (.inr 1) ∧
    (dealContext 0 0 1 waitingImage).isSome = true := by decide
/-- A placement that makes a group. -/
theorem witness_PlacedGroup : kget launching.groups launching.uid = none ∧
    ((List.range 4).any fun j => (kget (nx (exec (.teamPlacement 0 0) launching)).groups (launching.uid + j)).isSome) = true := by
  decide

/-- Page tables of ASID 1 that map the first GiB by one entry of the third level (R316, R318). -/
def paged : State :=
  { tiny with mem := putBytes (putBytes (putBytes [] (gk 0 0 0 0x100000) (leBytes 0x101001 8)) (gk 0 0 0 0x101000)
      (leBytes 0x102001 8)) (gk 0 0 0 0x102000) (leBytes 0x1E 8) }
/-- A fault-ring entry, and the record of the lanes that wait on it. -/
def faulted : State :=
  { tiny with
    parts := [(0, { tiny.part 0 0 with fseq := 1, fents := [⟨0, 1, 0x800000, false, 0, false, false, false, 0, 0, 0⟩] })]
    groups := [(4, { tinyGroup with
      lanes := kput tinyGroup.lanes 0 { firstLane firstPc with st := .parked }
      recs := [(0, ⟨1, 1, 0x400000, 4, 0, 0x800000, 0, false, false, some 0, none, false, false⟩)], nrec := 1 })] }
theorem witness_TranslationEvents :
    (paged.dev 0).asidOk 1 = true ∧ (paged.dev 0).asidPart 1 = 0 ∧ (2 ^ 30 - 1 < 2 ^ 57) ∧
    walkFrom paged 0 0 (2 ^ 30 - 1) 5 ((paged.dev 0).root 1) = .leaf 0 (2 ^ 30) 0 7 false ∧
    walkFrom paged 0 0 (2 ^ 30) 5 ((paged.dev 0).root 1) = .fault ∧
    ((faulted.part 0 0).fents.find? fun x => x.seq % 2 ^ 56 = bf 0#64 63 8).isSome = true ∧ 4 ∈ groupsIn faulted 0 0 ∧
    ((faulted.part 0 0).fents.find? fun x => x.seq % 2 ^ 56 = bf 0x100#64 63 8) = none ∧
    (0x800000000000000C#64).getLsbD 63 = true ∧ bf 0x800000000000000C#64 5 0 = 12 ∧ bf 0x8000000000000039#64 5 0 = 57 ∧
    (tiny.dev 0).asidPart (bf 0x800000000000000C#64 55 47) = 0 ∧ (tiny.part 0 0).xbusy = false ∧
    (tiny.part 0 0).xwbusy = false := by decide
/-- Commands that wait for that entry, one whose data has begun to move; the record that waits for it; the other answers. -/
theorem witness_FaultReplies :
    (∀ b ∈ [true, false],
      let c : Cmd := { mkCmd 2 4 (partyOf tiny 4) 0 0 0 ⟨0x401000, 0, [], 0⟩ with stage := .faulted, seq := some 0, begun := b }
      let s : State := { faulted with cmds := [(5, c)] }
      kget s.cmds 5 = some c ∧ c.d = 0 ∧ c.p = 0 ∧ c.begun = b) ∧
    (kget (faulted.grp 4).recs 0).any (fun r => r.woken = false && r.seq = some 0 && r.lanes.getLsbD 0) = true ∧
    (kget (faulted.grp 4).lanes 0).any (fun x => x.st = .parked) = true ∧
    bf 0#64 7 2 = 0 ∧ bf 0#64 1 0 = 0 ∧ bf 1#64 1 0 = 1 ∧ bf 2#64 1 0 = 2 ∧ bf 3#64 1 0 = 3 ∧ bf 4#64 7 2 ≠ 0 := by decide
/-- XINV of an ASID of another partition, and one that completes; XWINV while one runs. -/
theorem witness_Invalidations :
    (let s : State := { tiny with parts := [(0, { tiny.part 0 0 with xbusy := true, xwbusy := true })] }
     (s.part 0 0).xbusy = true ∧ drainOk s 0 0 = true ∧ (s.part 0 0).xwbusy = true) ∧
    (0x8000000000000000#64).getLsbD 63 = true ∧ bf 0x8000000000000000#64 5 0 < 12 ∧ 57 < bf 0x800000000000003A#64 5 0 ∧
    (0x800000000000000C#64).getLsbD 46 = false ∧
    (let s : State := { tiny with devs := [(0, { tiny.dev 0 with asid := (tiny.dev 0).asid ++ [(1, 1#64 <<< 26)] })] }
     (s.dev 0).asidPart (bf 0x800000000000000C#64 55 47) ≠ 0) := by decide

/-- Migration entry 15: one folio from 0x200000 to 0x300000 of local memory. -/
def moving (st : Nat) : State :=
  { tiny with parts := [(0, { tiny.part 0 0 with
      mig := [(60, 0x200000), (61, 0x300000), (62, 0x100000001), (63, BitVec.ofNat 64 st)] })] }
theorem witness_MigrationAndAtsEvents :
    (moving 0 |>.part 0 0).migState 15 = 0 ∧ (moving 2 |>.part 0 0).migState 15 = 2 ∧ bf 1#64 1 0 = 1 ∧ bf 0#64 1 0 = 0 ∧
    migReady (moving 1) 0 0 15 = true ∧ (migTarget (moving 1) 0 0 15).isSome = true ∧
    migTarget { moving 1 with parts := [(0, { (moving 1).part 0 0 with
      mig := kput ((moving 1).part 0 0).mig 61 0x80000000 })] } 0 0 15 = none ∧
    Memory.wf (moving 1).mem = true ∧ (migTarget (moving 1) 0 0 15).any (fun k => k / 256 ≠ gk 0 0 0 0x200000 / 256) = true ∧
    lineKind (moving 1) (gk 0 0 0 0x200000 / 256) ≠ 3 ∧ lineKind (moving 1) (gk 0 0 0 0x200000 / 256) ≠ 4 ∧
    (kget tiny.devs 0).isSome = true ∧
    (let s : State := { tiny with devs := [(0, { tiny.dev 0 with atsInv := [(7, (0, 0, 4096))], prs := [(7, ⟨1, 0, 0⟩)] })] }
     (kget (s.dev 0).atsInv 7).isSome = true ∧ (∀ r ∈ partsOf s 0, drainOk s 0 r = true) ∧
     kget (s.dev 0).prs 7 = some ⟨1, 0, 0⟩ ∧ (s.dev 0).asidPart 1 = 0) := by decide
/-- A command and a record that wait for page request 7. -/
theorem witness_PageRequests :
    (∀ b ∈ [true, false],
      let c : Cmd := { mkCmd 2 4 (partyOf tiny 4) 0 0 0 ⟨0x401000, 0, [], 0⟩ with stage := .faulted, pri := some 7, begun := b }
      let s : State := { tiny with cmds := [(5, c)] }
      kget s.cmds 5 = some c ∧ c.d = 0 ∧ c.p = 0) ∧
    (let r : Rec := ⟨1, 1, 0x400000, 4, 0, 0x800000, 0, false, false, none, some 7, false, false⟩
     let s : State := tinyG fun G => { G with recs := [(0, r)], nrec := 1 }
     kget (s.grp 4).recs 0 = some r ∧ 4 ∈ groupsIn s 0 0) := by decide
/-- Bank content 1 with one matrix operation, of block address `val`; claims of slots 0 and 1. -/
def mop (st : MStage) (val : Dword) (blk : List Dword) (mark : Nat := 0) (quiet : Bool := false) : State :=
  { tiny with conts := tiny.conts.map fun e =>
      (e.1, { e.2 with claims := 3, mq := [(5, ⟨4, 0, val, st, blk, 0, 0, 0, [], 0, mark, quiet⟩)] }) }
/-- The operation of that content. -/
def theOp (s : State) (p : MOp → Bool) : Bool := (kget (s.cont 1).mq 5).any p
/-- A block of one by one elements and K = 16 in format 0x02, slots 0 and 1; and with a drain to .G at 0x401100. -/
def mblk : List Dword := [0x10000010#64, 0x42#64, 0, 0, 0, 0, 0, 0]
def dblk : List Dword := [0x10000010#64, 0x100042#64, 0x401100, 0x20, 0, 0, 0, 0]
/-- The same, added to the destination. -/
def ablk : List Dword := dblk.set 1 0x500042
/-- Without a drain, the result going to operand slot 0. -/
def bblk : List Dword := mblk.set 1 0x200042
/-- Block read: a good block, a block of zeros (no slot claimed for it), an unmapped and an ill-formed value, poison. -/
theorem witness_MatrixEngineEvents :
    (let r (s : State) : Blk := (kget (s.cont 1).mq 5).elim .wait fun o =>
       readBlk s (o.party s) (grpCore s o.grp) (valSp o.val) (valAddr o.val) 64
     let st (s : State) : Nat := (kget (s.cont 1).mq 5).elim 0 fun o => blockStatus s (s.cont 1) { o with blk := ((s.cont 1).mq.flatMap fun _ =>
       match r s with | .ok ws => ws | _ => []) }
     let good := holding (mop .pushed 0x401000 []) mblk
     (good.cont 1).at? = some (0, 0) ∧ (good.cont 1).waitingOps < 32 ∧ theOp good (fun o => o.mark = 0) = true ∧
     theOp (mop .pushed 0x401000 [] 2) (fun o => o.mark ≠ 0) = true ∧ r good = .ok mblk ∧ st good = 0 ∧
     (((good.cont 1).mq.find? fun e => e.2.stage = .pushed).map Prod.fst = some 5) ∧
     st (mop .pushed 0x401000 []) ≠ 0 ∧ r (mop .pushed 0x800000 []) = .fault ∧
     theOp (mop .pushed 0x401008 []) (fun o => !valOk o.val) = true ∧
     (match r { good with psn := [(gk 0 0 0 0x401000 / 32, 1)] } with | .poison _ _ _ => true | _ => false) = true) ∧
    (let s := mop .queued 0x401000 mblk
     arrayFree s 0 = true ∧ (startPick s 0).map (fun x => (x.1, x.2.1, x.2.2.1)) = some (0, 1, 5) ∧
     theOp s (fun o => (startStatus s 1 o).1 = 0) = true ∧ (kget s.conts 1).isSome = true) ∧
    (let s := mop .products 0x401000 mblk
     (opIn s 0 .products).map (fun x => (x.1, x.2.1)) = some (1, 5) ∧ Memory.wf s.mem = true ∧
      theOp s (fun o => o.core = 0 && decide (o.n ≤ 128)) = true) ∧
    (∀ b ∈ [mblk, dblk, ablk, bblk], drainReady (mop .convert 0x401000 b) 0 = true ∧
      (opIn (mop .convert 0x401000 b) 0 .convert).map (fun x => (x.1, x.2.1)) = some (1, 5)) ∧
    (let s := mop .finished 0x401000 mblk
     (opComplete 0 5 s).map Prod.fst = some 1 ∧ theOp s (fun o => accErrOf (s.cont 1) o = none) = true ∧
      (kget s.groups 4).isSome = true) := by decide
/-- Drains: none, a plain one, an adding one, and a result for an operand slot; an operation that an audit has ended; one whose
operand is poisoned. -/
theorem witness_Drains :
    theOp (mop .convert 0x401000 mblk) (fun o => !o.dr && !o.bypass && !o.quiet) = true ∧
    theOp (mop .convert 0x401000 dblk) (fun o => o.dr && !o.aos) = true ∧
    theOp (mop .convert 0x401000 ablk) (fun o => o.dr && o.aos) = true ∧
    theOp (mop .convert 0x401000 bblk) (fun o => !o.dr && o.bypass && decide ((o.n * tyWidth o.dt + 7) / 8 ≤ 128)) = true ∧
    theOp (mop .finished 0x401000 mblk 0 true) (fun o => o.quiet) = true ∧
    (opComplete 0 5 (mop .finished 0x401000 mblk 0 true)).map Prod.fst = some 1 ∧
    (let s : State := { mop .queued 0x401000 mblk with psn := [(operandKey 1 0 / 32, 1)] }
     theOp s (fun o => (startStatus s 1 o).1 ≠ 0) = true ∧ (startPick s 0).isSome = true ∧
     ∀ g ∈ s.groupsOf 1, ∀ e ∈ (s.grp g).pend, e.2.om = []) := by decide

/-- A command of queue 2 of group 4, number 5, with a block. -/
def cmdOf (st : CStage) (blk : List Dword) (f : Cmd → Cmd := id) : State :=
  { tiny with cmds := [(5, f { mkCmd 2 4 (partyOf tiny 4) 0 0 0 ⟨0x401000, 0, [], 0⟩ with stage := st, blk := blk })] }
def theCmd (s : State) (p : State → Cmd → Bool) : Bool := (kget s.cmds 5).any (p s)
/-- The group's q2, q4 and q6 hold a value, and memory a block. -/
def pushing (v : Dword) (ws : List Dword) (mark : Nat := 0) : State :=
  holding (tinyG fun G => { G with q2 := [⟨v, 0, [], mark⟩], q4 := [⟨v, 0, [], mark⟩], q6 := [⟨v, 0, [], mark⟩] }) ws
/-- First doubleword of a block: opcode, ARG, and CNT (or BE). -/
def w0 (o arg : Nat) (be : Bool := false) : Dword := BitVec.ofNat 64 (o + arg * 2 ^ 8 + (if be then 2 ^ 35 else 2 ^ 34))
/-- A COPY of four elements of type 0x10 between spaces; READ or WRITE of 64 bytes; their remote side is kitty memory. -/
def copyBlk (ssp dsp : Nat) : List Dword :=
  [w0 0 0, BitVec.ofNat 64 (0x401000 + ssp), BitVec.ofNat 64 (0x401100 + dsp), 0x4210#64, 0, 0, 0, 0, 4, 4, 4, 0]
def kitty : Dword := 0x80000000000000#64
def moveBlk (o : Nat) : List Dword := [w0 o 0, kitty, 0x401000, 64, 0, 0, 0, 0]
/-- The kitty allocation of tenant 0 at offset 0. -/
def shared (s : State) : State := { s with allocs := [⟨0, 0, 2 ^ 21, []⟩] }
/-- What the block read finds. -/
def blkOf (v : Dword) (s : State) : Blk := readBlk s (partyOf s 4) (grpCore s 4) (valSp v) (valAddr v) 64
/-- Block reads of 64 bytes: a good block and one refused, an unmapped and an ill-formed value, poison, a marked entry; from queues
2 and 6. -/
theorem witness_CommandEvents :
    (let s := pushing 0x401000 [w0 7 0, 0, 0, 0, 0, 0, 0, 0]
     (kget s.groups 4).isSome = true ∧ (∀ q ∈ [2, 6], headPush (s.grp 4) q = some ⟨0x401000, 0, [], 0⟩) ∧ valOk 0x401000 = true ∧
      blkOf 0x401000 s = .ok [w0 7 0, 0, 0, 0, 0, 0, 0, 0] ∧ blkOf 0x800000 s = .fault ∧ valOk 0x401008 = false ∧
      (match blkOf 0x401000 { s with psn := [(gk 0 0 0 0x401000 / 32, 1)] } with | .poison _ _ _ => true | _ => false) = true) ∧
    headPush ((pushing 0x401000 [] 2).grp 4) 2 = some ⟨0x401000, 0, [], 2⟩ ∧
    theCmd (cmdOf .queued [w0 7 0, 0, 0, 0, 0, 0, 0, 0]) (fun _ c => decide (ckBlock 2 c = 0)) = true ∧
    theCmd (cmdOf .queued [w0 9 0, 0, 0, 0, 0, 0, 0, 0]) (fun _ c => decide (ckBlock 2 c ≠ 0)) = true := by decide
/-- The rest of a COPY's block of 96 bytes: clean, poisoned, and over the end of the page; and the block of a graph node's
command. -/
theorem witness_BlockTails :
    (let s := pushing 0x401000 (copyBlk 0 0)
     let rd (s : State) (v : Dword) (n : Nat) : Blk := readBlk s (partyOf s 4) (grpCore s 4) (valSp v) (valAddr v) n
     blockLen (w0 0 0) 0x4210 = 96 ∧ (match rd s 0x401000 96 with | .ok vs => vs.length | _ => 0) = 12 ∧
     (match rd { s with psn := [(gk 0 0 0 0x401040 / 32, 1)] } 0x401000 96 with | .poison _ _ _ => true | _ => false) = true ∧
     (match rd s 0x5FFFC0 64 with | .ok _ => true | _ => false) = true ∧ rd s 0x5FFFC0 96 = .fault) ∧
    (let c : Cmd := { mkCmd 0 0 (partyOf tiny 4) 0 0 9 ⟨0x401000, 0, [], 0⟩ with cnt := false }
     let s : State := { holding tiny [w0 7 0, 0, 0, 0, 0, 0, 0, 0] with cmds := [(5, c)] }
     kget s.cmds 5 = some c ∧ c.src = 0 ∧ c.stage = .queued ∧ (loadCmd s 0 none c).isSome = true) := by decide
/-- A COPY with BE whose destination is mapped to kitty memory, and one whose destination is not mapped. -/
def credited (dst : Dword) : State :=
  let s := cmdOf .block (((copyBlk 0 0).set 2 dst).set 0 (w0 0 0 true))
  { s with parts := [(0, { s.part 0 0 with tlb := [firstTlb, { firstTlb with vbase := 0x600000, pbase := 8 * 2 ^ 52 }] })] }
/-- No other command of its engine goes first: a command can begin whichever engine it has. -/
def begins (s : State) (c : Cmd) : Bool := beginsNow s 5 c && s.cmds.all fun e => decide (e.2.cls ≤ c.cls)
theorem begins_ready {s : State} {c : Cmd} (h : begins s c = true) : beginReady s 5 c = true := by
  simp only [begins, Bool.and_eq_true, List.all_eq_true, decide_eq_true_eq] at h
  have : outranked s 5 c = false := by
    simp only [outranked, List.any_eq_false, Bool.and_eq_true, decide_eq_true_eq]
    intro e he hc
    have := h.2 e he
    omega
  simp [beginReady, h.1, this]
/-- Commands that begin: in their spaces; with a source and with a destination outside; off the device; unmapped; with a bitmap;
a READ, WRITE and REDUCE. -/
theorem witness_Beginnings :
    (∀ x ∈ [(0, 0, true, true), (1, 0, false, true), (0, 1, true, false)],
      theCmd (cmdOf .block (copyBlk x.1 x.2.1)) (fun s c => c.opc = 0 && c.blk ≠ [] && c.stage = .block && begins s c && !c.cbe &&
        !placesOff (beScan s c) && placesLost (beScan s c) = none &&
        rangesIn s c c.srcAll = x.2.2.1 && rangesIn s c c.dstAll = x.2.2.2) = true) ∧
    theCmd (credited 0x600000) (fun s c => begins s c && placesOff (beScan s c)) = true ∧
    theCmd (credited 0x800000) (fun s c => begins s c && !placesOff (beScan s c) && (placesLost (beScan s c)).isSome) = true ∧
    theCmd (cmdOf .block ((copyBlk 0 0).set 0 (w0 0 0 + 2#64 ^ 44))) (fun s c => begins s c && c.cbe && (kget s.groups c.grp).isSome)
      = true ∧
    (∀ o ∈ [1, 2, 5], theCmd (shared (cmdOf .block (moveBlk o))) (fun s c => c.opc = o && begins s c) = true) := by decide
/-- A COPY that moves between .G ranges, one inside team storage, and one whose source is not mapped. -/
theorem witness_CopyMoves :
    theCmd (cmdOf .run (copyBlk 0 0)) (fun s c => c.blk ≠ [] && (planMove s c (moveUnits c 4) 0).2.1 = 4 &&
      (planMove s c (moveUnits c 4) 0).2.2 = none) = true ∧
    theCmd (cmdOf .run ((copyBlk 0 0).set 1 0x800000)) (fun s c => (planMove s c (moveUnits c 4) 0).2.2.any fun x => x ≠ .wait) = true ∧
    (let s : State := { cmdOf .run (((copyBlk 0 0).set 1 1).set 2 0x21) with
       launches := tiny.launches.map fun e => (e.1, { e.2 with desc := { e.2.desc with ls := 1, sc := 1 } }) }
     theCmd s (fun s c => let j := joinMoves (planMove s c (moveUnits c 4) 0).1
       c.ssp = 1 && c.dsp = 1 && j.1.length = 16 && decide ((j.1.map ECell.key).Nodup) && j.1.all fun x => gkSpace x.key ≠ 4 && gkSpace x.key ≠ 8)
      = true) := by decide
/-- READ and WRITE: a span that moves, a local side that is not mapped, and one outside its space; spans before and at the eighth
failure. -/
theorem witness_SpanMoves :
    (∀ o ∈ [1, 2], theCmd (shared (cmdOf .run (moveBlk o))) (fun s c => c.stage = .run && c.opc = o && moveStop s c = none) = true) ∧
    (∀ o ∈ [1, 2], theCmd (shared (cmdOf .run ((moveBlk o).set 2 0x800000)))
      (fun s c => match moveStop s c with | some (.fault _ _ _ _) => true | _ => false) = true) ∧
    (∀ o ∈ [1, 2], theCmd (shared (cmdOf .run ((moveBlk o).set 2 0x400001)))
      (fun s c => match moveStop s c with | some (.out _) => true | _ => false) = true) := by decide
theorem witness_SpanTags :
    ∀ n ∈ [6, 7], theCmd (cmdOf .run (moveBlk 1) fun c =>
        { c with spans := [(3, ⟨[⟨gk 0 0 0 0x401000, 0x401000, 2, 5, 0⟩], [], n, false, []⟩)] })
      (fun s c => (kget c.spans 3).any fun x => x.fails = n && (cellSectors x.cells).all (engSectorFree s c.party)) = true := by decide
/-- A whole sector for kitty memory in a core's write path. -/
def farStore : State :=
  let k := pkey 0 0 (8 * 2 ^ 52)
  let w : WLine := ⟨k / 256, 2, 3, [⟨4, 0, 0, (List.range 32).map fun j => (k + j, 0#8), true⟩]⟩
  shared { tiny with cores := [(0, { tiny.core 0 with wp := [w] })] }
theorem witness_FarStores : (farEntry farStore 3).any (fun x => x.1 = 0 && lineReady farStore x.1 x.2 && farSectors x.2 ≠ []) = true := by
  decide

/-- The commands of the stitcher and SIGNAL: an atomic in order; a REDUCE that can go on, one whose element is poisoned, and one
whose local side is outside its space. -/
theorem witness_RemoteCommandEvents :
    (∀ b ∈ [[w0 3 0x10, kitty, 1, 0, 0, 0, 0, 0], [w0 4 0x1B, kitty, 1, 0, 0, 0, 0, 0]], theCmd (shared (cmdOf .run b))
      (fun s c => c.stage = .run && (c.opc = 3 || c.opc = 4) && inOrder s 5 c && remoteFree s c (c.w 1).toNat && atomOrder s 5 c) = true) ∧
    (let s := shared (cmdOf .run [w0 5 0x10, kitty, 0x401000, 2, 0, 0, 0, 0])
     let q : State := { s with psn := [(gk 0 0 0 0x401000 / 32, 1)] }
     theCmd s (fun s c => c.opc = 5 && firstStop s c.party 1 0 [reduceSrc s c] = none && remoteFree s c (reduceDst c) &&
       (ebBad (engBytes s c.party none (reduceSrc s c))).isNone) = true ∧
     theCmd q (fun s c => firstStop s c.party 1 0 [reduceSrc s c] = none && (ebBad (engBytes s c.party none (reduceSrc s c))).isSome)
      = true) ∧
    (let s := shared (cmdOf .run [w0 5 0x10, kitty, 0x400001, 2, 0, 0, 0, 0])
     theCmd s (fun s c => match firstStop s c.party 1 0 [reduceSrc s c] with | some (.out _) => true | _ => false) = true) ∧
    (theCmd (cmdOf .run [w0 8 0 true, 32, 0, 0, 0, 0, 0, 0]) fun s c => c.opc = 8 && c.be &&
      !s.cmds.any fun e => decide (e.1 < 5) && e.2.src = 2 && e.2.grp = c.grp) = true := by decide
/-- KALLOC within and beyond the quota, and on a zone whose switch is lost; KFREE of an allocation and of none. -/
theorem witness_Allocator :
    (let s := cmdOf .run [w0 6 0, BitVec.ofNat 64 (2 ^ 21), 0, 0, 0, 0, 0, 0]
     let q : State := { s with quota := (List.range 64).flatMap fun w =>
       [(qkey w 0 0, BitVec.ofNat 64 (2 ^ 32)), (qkey w 0 1, BitVec.ofNat 64 (2 ^ 16)), (qkey w 0 2, 1#64 <<< 63)] }
     let ok (s : State) (b l : Bool) : Bool := theCmd s fun s c =>
       let ch := chargesOf (zoneOf c.arg).1 (c.w 1).toNat
       c.opc = 6 && inOrder s 5 c && switchesKnown s c.d (ch.map Prod.fst) && (ch.any fun x => s.swLost x.1) = l &&
       (l || (ch.all fun x => quotaOk s 0 x) = b) && firstFit (c.w 1).toNat (zoneOf c.arg).2 (usedIn s c.arg) = some 0
     let lost : State := { q with
       sw := (List.range 64).map fun w => (w, true)
       devs := q.devs.map fun e => (e.1, { e.2 with lostSw := List.range 64 }) }
     ok s false false = true ∧ ok q true false = true ∧ ok lost true true = true) ∧
    (∀ b ∈ [((0 : Nat), true), (1, false)], theCmd (shared (cmdOf .run [w0 7 0, BitVec.ofNat 64 b.1, 0, 0, 0, 0, 0, 0]))
      (fun s c => c.opc = 7 && inOrder s 5 c &&
       (s.allocs.find? fun a => decide (a.tenant = (s.dev c.d).tenant c.p) && decide (a.base = (c.w 1).toNat)).isSome = b.2) = true) := by
  decide
/-- Completion with and without a failure, with a record asked for, of a command that an audit has ended, and of a node. -/
theorem witness_Completions :
    (∀ x ∈ [(0, false, 2), (0x0D, false, 2), (0, true, 2), (0, false, 0)],
      let s : State := { cmdOf .finished [w0 2 0, kitty, 0, 64, 0, 0, 0, 0] fun c =>
        { c with status := x.1, cnt := true, quiet := x.2.1, src := x.2.2, node := 9 } with nodes := [(9, node9 none)] }
      theCmd s (fun s c => c.stage = .finished && c.src ≠ 4 && c.spans = [] && c.status = x.1 && c.quiet = x.2.1 && !c.nt && !c.rv && c.cnt &&
        s.credits = [] && s.mlog = [] && (kget s.groups 4).isSome && c.reason ≠ 3 && (kget s.nodes c.node).isSome) = true) := by decide

/-- A task packet to node 1: version and length fields zero, one team. -/
def packet : List Dword := [BitVec.ofNat 64 (2 ^ 25), 0, 1, 0, 0, 0, 0, 0, 0, 0, 0, 0, 0, 0, 0, 0]
/-- The command of queue 4 that holds the packet. -/
def packetCmd (st : CStage) (blk : List Dword) : Cmd := { mkCmd 4 4 (partyOf tiny 4) 0 0 0 ⟨0x401000, 0, [], 0⟩ with stage := st, blk := blk }
/-- Two devices with a session of tenant 0, and a command of queue 4 that holds the packet. -/
def twoNodes (st : CStage) (x : Sess) (blk : List Dword) (f : Cmd → Cmd := id) : State :=
  { tiny with
    devs := [(0, { tiny.dev 0 with sess := [(sessKey 0 1, x)] }),
             (1, { tiny.dev 0 with sess := [(sessKey 0 0, x)], codes := [(0, 0, 1, 0x401000)] })]
    cmds := [(5, f (packetCmd st blk))] }
def sess0 (n : Nat) : Sess := { key := 7, nextSeq := 1, high := n, seen := [n], live := true }
/-- Node 1 is lost to device 0. -/
def peerLost (s : State) : State := { s with devs := s.devs.map fun e => (e.1, { e.2 with lostPeer := [1] }) }
/-- The packet with number n, and its authentication. -/
def sealed (n : Dword) : List Dword :=
  let m := taskAuth 7 (packetCmd .run (packet.set 1 n))
  ((packet.set 1 n).set 10 (m.extractLsb' 0 64)).set 11 (m.extractLsb' 64 64)
theorem halves_of_auth (m : BitVec 128) : (m.extractLsb' 64 64 ++ m.extractLsb' 0 64 : BitVec 128) = m := by
  ext i hi
  simp only [BitVec.getElem_append, BitVec.getElem_extractLsb']
  split
  · simp [BitVec.getLsbD_eq_getElem hi]
  · have : 64 + (i - 64) = i := by omega
    simp [this, BitVec.getLsbD_eq_getElem hi]
/-- The packet's own check succeeds, whatever the authentication is. -/
theorem sealed_auth (n : Dword) : let c := packetCmd .run (sealed n)
    taskAuth 7 c = (c.w 11 ++ c.w 10 : BitVec 128) := by
  refine Eq.trans ?_ (halves_of_auth _).symm
  rfl
/-- The packet that the head of q4 names, as its read leaves it. -/
def headPacket (s : State) (p : Cmd → Bool) : Bool :=
  (s.grp 4).q4.head?.any fun e =>
    (taskRead s (grpCore s 4)
      { mkCmd 4 4 (partyOf s 4) ((s.dev 0).ctxOf 1).gen (s.teamOf 4).cls 0 e with cnt := true }).any p
/-- A packet at the head of q4: with and without a session, with the target absent, and lost; one whose value is not legal, and one
that is marked. -/
theorem witness_PacketsSent :
    (let s : State := { twoNodes .queued (sess0 0) [] with
       groups := (pushing 0x401000 packet).groups
       cmds := []
       mem := (pushing 0x401000 packet).mem }
     let block (s : State) (q : Cmd → Bool) : Bool := headPacket s fun c => c.stage = .block && c.target = 1 && q c
     (4 ≠ s.uid) ∧ kget s.cmds 4 = none ∧ (kget s.groups 4).isSome = true ∧
     block s (fun c => (taskSess s c.d 0 c.target).isSome && (s.dev c.d).lostPeer = [] && (kget s.devs c.target).isSome) = true ∧
     (let t := peerLost s; block t (fun c => (taskSess t c.d 0 c.target).isSome && (t.dev c.d).lostPeer.contains c.target) = true) ∧
     (let t : State := { s with devs := s.devs.take 1 }
      block t (fun c => (taskSess t c.d 0 c.target).isSome && (kget t.devs c.target).isNone) = true) ∧
     (let t : State := { s with devs := s.devs.map fun e => (e.1, { e.2 with sess := [] }) }
      block t (fun c => (taskSess t c.d 0 c.target).isNone) = true)) ∧
    (∀ s ∈ [pushing 0x401008 packet, pushing 0x401000 packet 2], headPacket s (fun c => c.stage ≠ .block) = true) := by decide
/-- A packet of a graph node that the stitcher has queued: one that can be read, and one that cannot. -/
theorem witness_NodePackets :
    ∀ x ∈ [((0x401000 : Nat), true), (0x800000, false)],
      let c : Cmd := { mkCmd 4 0 (partyOf tiny 4) 0 0 9 ⟨BitVec.ofNat 64 x.1, 0, [], 0⟩ with cnt := false }
      let s : State := { holding tiny packet with cmds := [(5, c)], uid := 20 }
      (5 ≠ s.uid ∧ c.src = 4 ∧ c.stage = .queued) ∧ (taskRead s none c).any (fun y => decide (y.stage = .block) = x.2) = true := by decide
set_option exponentiation.threshold 400 in
/-- A packet at the target: lost, without a session, too old, seen before; and authentic and new: with no partition, with no such
code, and launched. -/
theorem witness_PacketArrivals :
    theCmd (peerLost (twoNodes .run (sess0 0) packet)) (fun s c => c.stage = .run && (s.dev c.d).lostPeer.contains c.target) = true ∧
    (let s := twoNodes .run (sess0 0) packet
     let s : State := { s with devs := s.devs.map fun e => (e.1, { e.2 with sess := [] }) }
     theCmd s (fun s c => c.stage = .run && !(s.dev c.d).lostPeer.contains c.target && (taskSess s 1 0 c.d).isNone) = true) ∧
    theCmd (twoNodes .run (sess0 64) packet) (fun s c => taskSess s 1 0 c.d = some (sess0 64) &&
      decide ((c.w 1).toNat + 64 ≤ (sess0 64).high)) = true ∧
    theCmd (twoNodes .run (sess0 1) (packet.set 1 1)) (fun s c => taskSess s 1 0 c.d = some (sess0 1) &&
      (sess0 1).seen.contains (c.w 1).toNat && decide ((c.w 1).toNat ≤ (sess0 1).high)) = true ∧
    (∀ n ∈ [0, 2], theCmd (twoNodes .run (sess0 n) (sealed 1)) (fun s c => c.src = 4 && c.stage = .run && c.target = 1 &&
       taskSess s 1 0 c.d = some (sess0 n) && (decide (n < (c.w 1).toNat) || decide (n < (c.w 1).toNat + 64) && !(sess0 n).seen.contains (c.w 1).toNat) &&
       tenantPart s 1 0 = some 0 &&
       ((s.dev 1).codes.find? fun e => decide (e.1 = c.codeHash) && decide (e.2.1 = 0)).isSome) = true) ∧
    (let s := twoNodes .run (sess0 0) (sealed 1)
     let none_ : State := { s with devs := s.devs.map fun e => (e.1, { e.2 with codes := [] }) }
     theCmd none_ (fun s c => c.stage = .run && tenantPart s 1 0 = some 0 && (s.dev 1).codes = []) = true) := by decide
/-- A tenant without a partition on a device. -/
theorem witness_NoTenant : tenantPart tiny 0 5 = none := by decide
/-- A packet without arguments has its place, whatever the place is; and a home is never busy for it. -/
theorem witness_ArgumentPlace (u : Nat) : engChk tiny ⟨0, 0, 1, 0⟩ 6 0 (taskPlace u) 0 = .glob [] ∧
    engFree tiny ⟨0, 0, 1, 0⟩ 6 (.glob []) = true := ⟨rfl, rfl⟩
/-- A reply: to a group, with a status of the target and without; to a group that an audit has told; to a graph node. -/
theorem witness_PacketReplies :
    (∀ x ∈ [(0x10, false, 4), (0x0F, false, 4), (0, true, 4), (0, false, 0)],
      let f (c : Cmd) : Cmd := { c with status := x.1, quiet := x.2.1, grp := x.2.2, node := 9 }
      let s : State := { twoNodes .replied (sess0 0) packet f with nodes := [(9, node9 none)] }
      theCmd s (fun s c => c.src = 4 && c.stage = .replied && !(s.dev c.d).lostPeer.contains c.target && c.quiet = x.2.1 &&
        c.grp = x.2.2 && (c.grp = 0 || (kget s.groups c.grp).isSome) && (kget s.nodes c.node).isSome && c.blk ≠ [] && !c.taskRv) = true) ∧
    theCmd (peerLost (twoNodes .replied (sess0 0) packet fun c => { c with status := 0x0F })) (fun s c =>
      (s.dev c.d).lostPeer.contains c.target && !targetStatus c.status) = true := by decide

/-- Inbound window 0 of node 1: one page at 0x401000, readable and writable. -/
def windowed : State :=
  { tiny with parts := [(0, { tiny.part 0 0 with
      inb := [(1, 1)], winc := [(64, [0x40100F, 1, 0, 0])] })] }
/-- The window with landing credit for object 0 of a team. -/
def crediting : State :=
  { windowed with parts := [(0, { windowed.part 0 0 with winc := [(64, [0x40100F, 1, BitVec.ofNat 64 (2 ^ 16), 0])] })] }
/-- Reads, writes, spans and atomics at the end of the window, admitted, and one byte further, not. -/
theorem witness_InboundRequests :
    (∀ k ∈ [0, 1, 2, 3, 547, 548], inboundFree windowed 0 0 1 0 0 4092 k 4 false = true ∧
      (admitted windowed 0 0 1 0 0 4092 4 (inboundPerm k)).isSome = true ∧
      (∀ j < 4, (inboundPlace windowed 0 0 1 0 0 4092 k 4 false j).any (fun x => kget windowed.psn (x.key / 32) = none &&
        gkSpace x.key ≠ 4 && (decide (j ≠ 0) || decide (x.key % 32 + 4 ≤ 32))) = true) ∧
      admitted windowed 0 0 1 0 0 4093 4 (inboundPerm k) = none) ∧
    ((List.range 4).map fun j => (inboundPlace windowed 0 0 1 0 0 4092 1 4 false j).map (·.key)) =
      (List.range 4).map (fun j => some (gk 0 0 0 0x401FFC + j)) ∧
    inboundPlace windowed 0 0 1 0 0 0 3 4 true 0 = none ∧ Memory.wf windowed.mem = true ∧
    inboundCredit crediting 0 0 1 0 4 ≠ [] ∧ inboundFree crediting 0 0 1 0 0 0 2 4 false = true := by decide
/-- A read over a poisoned sector. -/
theorem witness_InboundPoison : let s : State := { windowed with psn := [(gk 0 0 0 0x401FE0 / 32, 1)] }
    inboundFree s 0 0 1 0 0 4092 0 4 false = true ∧ (s.dev 0).lockout = false ∧
    (inboundPlace s 0 0 1 0 0 4092 0 4 false 0).any (fun x => (homeByte s x).2 ≠ 0) = true := by decide
/-- A node's words: of a kind, with a fourth to seventh word. -/
def nodeWs (k : Nat) (d e f : Dword := 0) : List Dword := [BitVec.ofNat 64 k, 0, 0, 0, d, e, f, 0]
/-- Virtual interface 0 enabled or not and armed; a node at 0x401000 of the words given, in q7 and in the walk queue; the page at
0x600000 is hardware-coherent. -/
def graphed (ws : List Dword) (n : GNode := node9 none) (en : Bool := true) (v : Dword := 0x401000) (mark : Nat := 0) : State :=
  { holding (tinyG fun G => { G with q7 := [⟨v, mark, 0⟩] }) ws with
    uid := 20
    devs := [(0, { tiny.dev 0 with vif := [(0, ⟨en, 6, 0x401000, false⟩)] })]
    nodes := [(9, n)]
    parts := [(0, { tiny.part 0 0 with walkq := [9], tlb := [firstTlb, { firstTlb with vbase := 0x600000, pbase := 0x600000, kind := 3 }] })] }
/-- What the stitcher reads for the value at the head of q7. -/
def rootRead (s : State) : Blk :=
  let r := s.modGrp 4 fun G => { G with q7 := [] }
  readBlk r { partyOf s 4 with team := 0 } (grpCore r 4) 0 0x401000 64
/-- Root pushes: a good root, roots with predecessors and of an interface that accepts none, one at an address that is not
mapped, not aligned, marked. -/
theorem witness_RootPushes :
    (∀ x ∈ [(nodeWs 0, true, true), (nodeWs (2 ^ 32), true, false), (nodeWs 0, false, false)],
      let s := graphed x.1 (node9 none) x.2.1
      (s.grp 4).q7 = [⟨0x401000, 0, 0⟩] ∧ (kget s.groups 4).isSome = true ∧ bf 0x401000#64 5 0 = 0 ∧ rootRead s = .ok x.1 ∧
      (decide (((s.dev 0).vifOf 0).en = true) && decide (bf (nw x.1 0) 63 32 = 0)) = x.2.2) ∧
    (let s := graphed (nodeWs 0) (node9 none) true 0x800000
     readBlk s { partyOf s 4 with team := 0 } (grpCore s 4) 0 0x800000 64 = .fault) ∧
    (((graphed [] (node9 none) true 0x401001).grp 4).q7.all fun x => decide (bf x.val 5 0 ≠ 0)) = true ∧
    (((graphed [] (node9 none) true 0x401000 2).grp 4).q7.all fun x => decide (x.mark ≠ 0)) = true := by decide
/-- A node of each kind at the head of the walk queue, good. -/
theorem witness_NodesReady :
    ∀ ws ∈ [nodeWs 0 0x400000 0 1, nodeWs 1 0x401000, nodeWs 2 0x401000, nodeWs 3 0x401100 5, nodeWs 4 0x600000, nodeWs 5 0x401000],
      let s := graphed ws
      let s1 : State := s.modPart 0 0 fun q => { q with walkq := [] }
      (s.part 0 0).walkq = [9] ∧ kget s.nodes 9 = some (node9 none) ∧ 9 < s.uid ∧ nodeDue s 0 0 = true ∧
        readOwn s1 (node9 none) = .ok ws ∧ headBad 0x401000 ws = false ∧ bodyBad s1 (node9 none) ws = false := by decide
/-- Bad nodes: a reserved field, a bad body, a node that cannot be read. -/
theorem witness_NodesRefused :
    (let s := graphed (nodeWs 6); nodeDue s 0 0 = true ∧ headBad 0x401000 (nodeWs 6) = true) ∧
    (let s := graphed (nodeWs 0); nodeDue s 0 0 = true ∧ headBad 0x401000 (nodeWs 0) = false ∧ bodyBad s (node9 none) (nodeWs 0) = true) ∧
    (let n : GNode := { node9 none with addr := 0x800000 }
     nodeDue (graphed [] n) 0 0 = true ∧ readOwn (graphed [] n) n = .fault) := by decide
/-- Nodes that complete: with a failure, and with success. -/
theorem witness_NodesDone : ∀ st ∈ [0x10, 0x02],
    (nodeDone? (graphed (nodeWs 0) (node9 (some st))) 0 0).map (fun x => (x.1, x.2.2)) = some (9, st) := by decide
/-- The armed line, empty and with a root at 0x401040; a line that is held, and one that is not, is let go. -/
theorem witness_ArmedLineEmpty : let s := graphed [0, 0]
    (kget s.devs 0).isSome = true ∧ armedDue s 0 0 = true ∧ (armedRead s 0 0).map Prod.snd = some [0, 0] ∧
      ((s.dev 0).vifOf 0).held = false := by decide
theorem witness_ArmedLineSubmits : let s := graphed [0x401040, 0]
    armedDue s 0 0 = true ∧ (armedRead s 0 0).map Prod.snd = some [0x401040, 0] := by decide
theorem witness_ArmedLineHeld : let s := graphed []
    let h : State := { s with devs := s.devs.map fun e => (e.1, { e.2 with vif := [(0, ⟨true, 6, 0x401000, true⟩)] }) }
    ((h.dev 0).vifOf 0).held = true := by decide
/-- A core of tiny with other fields. -/
def cored (f : Core → Core) : State := { tiny with cores := [(0, f (tiny.core 0))] }
/-- Content 1 at a place; the save area of ASID 1 has two slots. -/
def located (l : Loc) (f : Core → Core) : State :=
  { cored f with
    conts := tiny.conts.map fun e => (e.1, { e.2 with loc := l })
    devs := [(0, { tiny.dev 0 with ctx := [(1, { Ctx.reset with save := 2 })] })] }
/-- A swap to the other bank and to the active one, alone in its unit. -/
theorem witness_Swaps : ∀ b ∈ [0, 1],
    let s := cored fun c => { c with act := 0, swap := some b }
    (s.core 0).act = 0 ∧ (s.core 0).swap = some b ∧ swapReady s 0 = true ∧ swapUnit s 0 b = [(0, b)] := by decide
/-- A slice that ends with an INACTIVE bank of the same class beside it, and with an EMPTY one. -/
theorem witness_Slices :
    (let s := cored fun c => { c with ts := [(0, 1)], b1 := ⟨.inactive, 1⟩ }
     (s.core 0).act = 0 ∧ bf (rget (s.core 0).ts 0) 31 0 ≠ 0 ∧ ((s.core 0).bank 1).st ≠ .empty ∧ unitHere s 1 = true ∧
     contClass s ((s.core 0).bank 0).cont ≤ contClass s ((s.core 0).bank 1).cont) ∧
    (let s := cored fun c => { c with ts := [(0, 1)] }
     bf (rget (s.core 0).ts 0) 31 0 ≠ 0 ∧ ((s.core 0).bank 1).st = .empty) := by decide
theorem witness_Spills :
    (let s := cored fun c => { c with b0 := ⟨.inactive, 1⟩ }
     ((s.core 0).bank 0).st = .inactive ∧ (s.core 0).store = 0) ∧
    (let t := cored fun c => { c with b0 := ⟨.spilling, 1⟩ }
     ((t.core 0).bank 0).st = .spilling ∧ opRunning t 1 = false ∧ accessesOpen t 1 = false) := by decide
/-- A fill that starts; one that ends on the same core; one that ends on another, whose writes can perform. -/
theorem witness_Fills :
    (let s := located (.store 0) fun c => { c with b0 := ⟨.empty, 0⟩, store := 1 }
     fillStarts s 0 0 = true) ∧
    (∀ l ∈ [0, 1], let s := located (.store 0) fun c => { c with b0 := ⟨.filling, 1⟩, store := 1 }
     let s : State := { s with conts := s.conts.map fun e => (e.1, { e.2 with last := l }) }
     ((s.core 0).bank 0).st = .filling ∧ (s.cont (s.core 0).store).last = l ∧ (kget s.conts (s.core 0).store).isSome = true ∧
     wpReady s (s.cont (s.core 0).store).last = true ∧ mirrorsDone s (s.core 0).store = true) := by decide
theorem witness_ImageCopies :
    (let s := located (.store 0) fun c => { c with b0 := ⟨.empty, 0⟩, store := 1 }
     (kget s.conts (s.core 0).store).isSome = true ∧ copyOutSlot s 0 = some 0) ∧
    copyInOk (located (.slot 1) fun c => { c with b0 := ⟨.empty, 0⟩ }) 1 0 = true := by decide
/-- ASID 1's MIGCTL; the second device takes it, with a save area. -/
def migrating (x : Dword) (stat : Dword := 1#64 <<< 62) : State :=
  { tiny with devs := [(0, { tiny.dev 0 with ctx := [(1, { Ctx.reset with migctl := x, mdst := x, stat := stat })] }),
                       (1, { tiny.dev 0 with ctx := [(1, { Ctx.reset with save := 2 })] })] }
/-- GO, with the destination's node, its partition 0, and its address space. -/
def migNode (n a : Nat) : Dword := BitVec.ofNat 64 (2 ^ 63 + n * 2 ^ 40 + a * 2 ^ 27)
/-- A context with KILL, and with a reason kept or not; a launch node of it that runs, and one that has finished. -/
theorem witness_ContextEnds :
    (∀ b ∈ [((1 : Nat), false), (3, true)],
      let x := ((migrating 0 (BitVec.ofNat 64 b.1 <<< 62)).dev 0).ctxOf 1
      (kget (migrating 0 (BitVec.ofNat 64 b.1 <<< 62)).devs 0).isSome = true ∧ x.stat.getLsbD 62 = true ∧ x.stat.getLsbD 63 = b.2) ∧
    ∀ st ∈ [none, some 0x02],
      let s : State := { migrating 0 with nodes := [(9, { node9 st with st := 1 })] }
      (kget s.nodes 9).any (fun n => n.d = 0 && n.asid = 1 && n.gen = ((s.dev 0).ctxOf 1).gen && n.st ≠ 0 && n.kind = 0 &&
        n.status = st) = true := by decide
/-- Audits: nothing lost; a permit of a queue link; one of an internal link, with a command that uses it. -/
theorem witness_Audits :
    ((tiny.dev 0).audEn = true ∧ lostLinks tiny 0 = [] ∧ lostOf (tiny.dev 0).ilost = []) ∧
    (∀ k ∈ [1, 2, 3, 4, 5, 6, 7], lostLinks (tinyG fun G => { G with lost := [(k, 1)] }) 0 = [(true, 4, k)]) ∧
    (let s := twoNodes .run (sess0 0) packet
     let s : State := { s with devs := s.devs.map fun e => (e.1, { e.2 with ilost := [(16 * 33, 1)] }) }
     lostLinks s 0 = [] ∧ lostOf (s.dev 0).ilost = [16 * 33 + 0] ∧ (s.dev 0).audEn = true ∧
       theCmd s (fun s c => innerSources s 0 0 33 (5, c)) = true) := by decide
/-- A move that starts and one under way, to a destination that takes it and to one that does not. -/
theorem witness_Moves :
    ((migrating 0 |>.dev 0).ctxOf 1).migctl.getLsbD 63 = false ∧
    ((migrating (migNode 1 1) |>.dev 0).ctxOf 1).migctl.getLsbD 63 = true ∧
    (migNode 1 1).getLsbD 63 = true ∧
    destOk (migrating (migNode 1 1)) 0 1 = true ∧ destOk (migrating (migNode 1 2)) 0 1 = false ∧
    (∀ k ∈ contsOfCtx (migrating 0) 0 1, opRunning (migrating 0) k = false ∧ k ∈ unsent (migrating 0) 0 1) ∧
    (∀ k ∈ unsent (migrating (migNode 1 1)) 0 1, opRunning (migrating (migNode 1 1)) k = false) := by decide
/-- The device of tiny with other fields. -/
def deved (f : Dev → Dev) : State := { tiny with devs := [(0, f (tiny.dev 0))] }
/-- The page from 0x200000 to 0x3FFFFF of local memory is a folio of a kind, for nodes 0 to 3 where that kind names nodes;
its first line has a tag, and a request in flight. -/
def coh (kind : Nat) (t : Word) (h : KV HReq := []) : State :=
  { tiny with
    parts := [(0, { tiny.part 0 0 with folio := [(0, BitVec.ofNat 64 (2 ^ 21 + 2 * kind + 1)), (1, 1#64 <<< 32),
      (2, if kind = 3 then 3#64 <<< 16 else 0)] })]
    tags := if t = 0 then [] else [(gk 0 0 0 0x200000 / 256, t)]
    home := h }
/-- The home line, as a node names it. -/
def hline : Nat := gk 0 0 0 0x200000 / 256
theorem witness_FabricEvents :
    (kget tiny.devs 0).isSome = true ∧ Memory.wf tiny.mem = true ∧ (tiny.dev 0).planes.getLsbD 63 = true ∧
    ((tiny.dev 0).link 63).expect = 0 ∧ (((tiny.dev 0).link 63).recent tiny.time.toNat).length < 2 ∧
    (let v := (deved fun v => { v with links := [(63, { send := 5, acked := 2, expect := 0, retrains := [0, 0], buf := [2, 3, 4], nak := false })] }).dev 0
     2 ≤ ((v.link 63).recent tiny.time.toNat).length ∧ (4 - (v.link 63).acked).toNat < ((v.link 63).send - (v.link 63).acked).toNat ∧
      ((v.link 63).send - (v.link 63).acked).toNat ≤ (5 - (v.link 63).acked).toNat ∧
      v.planes.getLsbD 63 = true ∧ (fallback { v with planes := v.planes &&& ~~~(1#64 <<< 63) } 63).isSome = true) ∧
    tiny.home = [] ∧
    (let s := coh 3 (mkTag 3 1 0)
     gkSpace (hline * 256) = 0 ∧ gkDev (hline * 256) = 0 ∧ lineKind s hline = 3 ∧ tagST (rget s.tags hline) = 3 ∧
     tagOWN (rget s.tags hline) = 1) ∧
    (let v := (deved fun v => { v with lostPeer := [1] }).dev 0
     v.lostPeer.contains 1 = true) ∧
    (let s : State := { tiny with mlog := [⟨0, 1, [(gk 5 0 1 0, 7)], (0, 0)⟩] }
     mirrorTurn s 0 = true ∧ kget s.psn (gk 5 0 1 0 / 32) = none) ∧
    tiny.swLost 63 = false ∧ ({ tiny with sw := [(63, true)] } : State).swLost 63 = true ∧
    (let v := (deved fun v => { v with fit := true }).dev 0
     v.fit = true ∧ extentOk v 0 0 0x200000 0x200000 = true ∧ extentOk v 0 0 0x200001 0x200000 = false) ∧
    (let s := deved fun v => { v with dc := [(0, ⟨0, 0, 0x200000, 0x200000, true⟩)] }
     extentIdle s 0 ⟨0, 0, 0x200000, 0x200000, true⟩ = true) := by decide
theorem witness_HostAndLayoutEvents :
    (kget tiny.devs 0).isSome = true ∧ Memory.wf tiny.mem = true ∧ (0x8000000000200000#64).getLsbD 63 = true ∧
    (tiny.part 0 0).lgo = false ∧ 0x200000 + 256 ≤ (tiny.dev 0).capacity 0 ∧ (tiny.dev 0).capacity 0 < 0x80000000 + 256 ∧
    (let s := nx (exec (.lineclrGo 0 0 0x8000000000200000) tiny)
     clearReady s 0 0 = true ∧ (kget s.home (clearLine s 0 0)).any (fun h => h.waiting = []) = true ∧ (s.part 0 0).lgo = true) ∧
    (tiny.dev 0).step ≤ 5 ∧ (tiny.dev 0).thAt = none ∧
    (let v := (deved fun v => { v with step := 1, thAt := some (2 ^ 63) }).dev 0
     v.thAt = some (2 ^ 63) ∧ tiny.time.toNat < 2 ^ 63 + 100000 ∧ v.step < 5) ∧ measureOk 2 (List.replicate 48 0) = true ∧ (let v := (deved fun v => { v with step := 1 }).dev 0; v.step ≠ 0) ∧ (95#8).toNat ≤ 95 ∧
    110 ≤ (110#8).toNat ∧ (tiny.dev 0).bootDone = true ∧ (tiny.dev 0).phase = false ∧ (tiny.dev 0).applied = true ∧
    (let v := (deved fun v => { v with phase := true, applied := true }).dev 0; v.phase = true ∧ v.applied = true) ∧
    (let v := (deved fun v => { v with applied := false }).dev 0; v.applied = false) ∧
    (tiny.dev 0).shadow = (tiny.dev 0).lay ∧ 328 < 336 ∧ 208 ≤ 328 ∧ 206 < 208 ∧
    regOwn tiny 0 0 0 0x3FF8 5 = false ∧ (tiny.dev 0).partOk 0 = true ∧ 0x3FF8 % 8 = 0 ∧ 0x2000 ≤ 0x3FF8 ∧ 0x3FF8 < 0x4000 ∧
    regOwn tiny 0 0 0 (0x10000 + 64 * 1 + 0x18) 5 = false ∧ (tiny.dev 0).ownsAsid 0 1 = true := by decide
theorem witness_BootAndSpdmEvents :
    (kget tiny.devs 0).isSome = true ∧ Memory.wf tiny.mem = true ∧ (tiny.dev 0).bootDone = true ∧ (tiny.dev 0).lockout = false ∧
    (let v := (deved fun v => { v with bootFail := 1 }).dev 0; v.bootFail ≠ 0) ∧ (tiny.dev 0).spdmVer ≠ 1 ∧
    (let v := (deved fun v => { v with
       spdmVer := 2, spdmAlg := true, spdm := [(3, ⟨7, true, 0, 0⟩)], lockout := false, attKey := true }).dev 0
     v.spdmVer = 2 ∧ v.spdmAlg = true ∧ v.attKey = true ∧ v.spdm.length < 64 ∧ (kget v.spdm 3).any (fun x => x.ready) = true) ∧
    (let v := (deved fun v => { v with spdmVer := 1 }).dev 0; v.spdmVer = 1) ∧
    (let v := (deved fun v => { v with lockout := true }).dev 0; v.lockout = true) ∧ kget (tiny.dev 0).spdm 3 = none ∧
    bf (tiny.dev 0).alarmCfg 1 0 = 1 ∧ bf (tiny.dev 0).alarmCfg 3 2 = 1 ∧ bf (tiny.dev 0).alarmCfg 5 4 = 0 ∧
    bf (tiny.dev 0).alarmCfg 7 6 = 2 := by decide

/-- A ring of `n` entries: none, one that covers, and a full one. -/
theorem witness_FaultRingAndPoisonRules :
    (let f : FEnt := ⟨0, 1, 0x800008, false, 0, false, false, false, 0, 0, 0⟩
     let q := faulted.part 0 0
     let n := (faulted.dev 0).fqn 0
     (∃ e ∈ q.fents, e.asid = f.asid ∧ e.va.toNat / 4096 = f.va.toNat / 4096 ∧ e.perm = f.perm ∧ e.kind = f.kind) ∧
     (∀ e ∈ q.fents, ¬(e.va.toNat / 4096 = 0x900000 / 4096)) ∧ q.fents.length < n ∧ (∀ e ∈ q.fents, e.seq % n ≠ q.fseq % n) ∧
     n ≤ ((List.range n).map fun i => { f with seq := i }).length) ∧
    (let s : State := { tiny with psn := [(7, 1)] }
     kget s.psn 7 ≠ none ∧ [(224, (1 : Byte))].length ≠ 32 ∧ kget s.psn 8 = none ∧ Memory.wf s.mem = true) := by
  refine ⟨⟨by decide, by decide, by decide, by decide, by simp⟩, by decide⟩
/-- The last word of the last lane. -/
theorem witness_StoreErrors :
    (kget tiny.groups 4).isSome = true ∧ 7 < (tiny.grp 4).width ∧ 127 < (tiny.grp 4).nregs ∧ vk 7 127 < 2 ^ 64 ∧
    (kget tiny.devs 0).isSome = true ∧ (16 * 33 + 15) / 16 < 34 := by decide
/-- A load into v127; a store in the write path, at a clean home and at one outside the device; sweeps; a miss of the
metadata cache. -/
theorem witness_ReturnsStoresAndSweeps :
    (let s := nx (exec (.ldG np ⟨1, 0, 1, 127, 0⟩) tiny)
     (kget (s.grp 4).pend 5).any (fun p => p.made && p.words.all fun w => !w.dead && decide (w.reg < 128) && p.words.length = 1) = true ∧
     (kget s.groups 4).isSome = true) ∧
    (let s := nx (exec (.stG np ⟨1, 0, 1, 8, 0⟩) tiny)
     (s.core 0).wp.any (fun w => lineReady s 0 w && w.recs.all fun r => (bySector r.cells).all fun x =>
       let pl := place s 0 0 w.kind 2 (gkOff (32 * x.1))
       pl.bad = 0 && pl.key % 32 = 0 && kget s.psn (pl.key / 32) = none) = true ∧
     (s.core 0).wp.any (fun w => ((s.core 0).wp.find? fun x => x.seq = w.seq).isSome && w.recs.length = 1) = true) ∧
    (let s := cored fun c => { c with swp := true }; (s.core 0).swp = true) ∧
    (let s : State := { tiny with parts := [(0, { tiny.part 0 0 with dswp := true, sswp := true })] }
     (s.part (0 / 16) (0 % 16)).dswp = true ∧ (s.part (0 / 16) (0 % 16)).sswp = true) ∧
    (let s := nx (exec (.ldG np ⟨1, 0, 1, 127, 0⟩) tiny)
     let line := gk 0 0 0 0x401000 / 256
     ((fetchDone 0 0 line s).part 0 0).mscLack line (pendingWant s 0 0 line) ≠ 0#8) := by decide

/-- Tags of every state that a clause names, a poisoned tag, a line in flight; host coherence. -/
theorem witness_HomeRequests :
    ([0#32, 1#32 <<< 25, mkTag 1 2 2, mkTag 1 1 2, mkTag 2 2 0, mkTag 3 2 0, mkTag 4 2 1, mkTag 5 0 0].all fun w =>
      rget (coh 3 w).tags hline = w && kget (coh 3 w).home hline = none && !tagPoison w) = true ∧
    tagPoison (1#32 <<< 23) = true ∧ reqLine (coh 3 (mkTag 2 2 0)) hline = some hline := by decide
/-- The lowest and the highest node of the domain. -/
theorem witness_HomeRequestNodes :
    reqOk (coh 3 0) .rdsh 4 hline = false ∧ reqOk (coh 3 0) .rdsh 0 hline = true ∧ reqOk (coh 3 0) .rdsh 3 hline = true ∧ reqOk (coh 4 0) .host 0 hline = true ∧
    (kget (coh 3 0 [(hline, ⟨.rdsh, 2, [], [], true, []⟩)]).home hline).isSome = true := by decide
theorem witness_HomeRequestCopies :
    tagCopies (coh 4 0) hline 0 = [] ∧ tagCopies (coh 4 (mkTag 2 0 0)) hline (mkTag 2 0 0) ≠ [] ∧
    ((tagCopies (coh 3 (mkTag 3 2 0)) hline (mkTag 3 2 0)).filter fun n => n ≠ 1) ≠ [] := by decide
theorem witness_HomeAnswersAndHostAccess :
    let h (b : Bool) (i : List Nat) : HReq := ⟨.rdown, 2, [0], i, b, []⟩
    kget (coh 3 0 [(hline, h false [0])]).home hline = some (h false [0]) ∧ 0 ∈ (h false [0]).inv ∧ 1 ∉ (h false [0]).inv ∧
    0 ∈ (h false []).acks ∧ 0 ∉ (h false []).inv ∧ (h false []).acks.filter (fun n => n ≠ 0) = [] ∧ (h true []).bi = true ∧
    (h true []).acks ≠ [] ∧ (⟨.rdsh, 2, [], [], true, []⟩ : HReq).acks = [] := by decide
/-- A host access of two bytes on each side of a line's end. -/
theorem witness_HostAccess :
    hostFree (coh 4 0) 0 0 0x2000FE 4 = true ∧ hostReaches (coh 4 0) 0 0 0x2000FE 4 = true ∧
    hostReaches tiny 0 0 0x2000FE 4 = false ∧ (tiny.dev 0).bootDone = true ∧
    measureOk 14 (List.replicate 48 7) = true ∧ ((coh 4 0).dev 0).lockout = false ∧ Memory.wf (coh 4 0).mem = true := by decide
theorem witness_HostBytes : ∀ o ∈ [0x2000FE, 0x200101],
    (placeLocal (coh 4 0) 0 0 4 2 (coh 4 0).migFuel 0 0 o).bad = 0 ∧ (placeLocal (coh 4 0) 0 0 4 2 (coh 4 0).migFuel 0 0 o).key = gk 0 0 0 o := by decide
theorem witness_HostByteValues :
    (homeByte (coh 4 0) (placeLocal (coh 4 0) 0 0 4 1 (coh 4 0).migFuel 0 0 0x2000FE)).2 = 0 ∧
    (homeByte { coh 4 0 with psn := [(gk 0 0 0 0x2000E0 / 32, 1)] } (placeLocal (coh 4 0) 0 0 4 1 (coh 4 0).migFuel 0 0 0x2000FE)).2 ≠ 0 := by
  decide
/-- A general core at the end of its partition's memory, and beyond it. -/
theorem witness_GeneralCoreAccess :
    generalFree (coh 4 0) 0 0 0x2000FE 4 false = true ∧ 0x2000FE + 4 ≤ ((coh 4 0).dev 0).capacity 0 ∧
    generalFree tiny 0 0 (2 ^ 50) 4 false = true ∧ (tiny.dev 0).capacity 0 < 2 ^ 50 + 4 ∧
    (homeByte (coh 4 0) (place (coh 4 0) 0 0 4 1 0x2000FE)).2 = 0 := by decide
/-- A general core whose line the host holds: the request that it needs. -/
theorem witness_GeneralCoreRequest : let s := coh 4 (1#32 <<< 25)
    generalFree s 0 0 0x200000 4 false = false ∧ (generalWant s 0 0 0x200000 4 false).isSome = true := by decide
/-- Two bytes whose places are writable and different. -/
theorem witness_HostWriteKeys : ∀ i < 2, ∀ j < 2,
    let k (n : Nat) : Nat := (placeLocal (coh 4 0) 0 0 4 2 (coh 4 0).migFuel 0 0 (0x2000FE + n)).key
    (k i = k j → i = j) ∧ kget (coh 4 0).psn (k i / 32) = none := by decide

/-! ### Whole-machine statements -/

theorem witness_MemoryCanonicalStep : Safe State.reset ∧ step State.reset = .next (nx (step State.reset)) := by
  unfold Safe; exact ⟨by decide, rfl⟩
theorem witness_DecodeEncodeRoundTrip : WellFormed small (.vadd (p0 2 0x1F 0 1) gf) ∧ WellFormed anyKernel (.vmov 31 63) := by
  unfold WellFormed; decide
theorem witness_IllegalEncodings : (0x0000003B#32).getLsbD 0 = true ∧ (0x0000003B#32).extractLsb' 1 7 = 0x1D#7 ∧
    (0x0C000011#32).getLsbD 0 = true ∧ (0x0C000011#32).extractLsb' 1 7 = 0x08#7 ∧ 6 ≤ ((0x0C000011#32).extractLsb' 25 7).toNat ∧
    CanIssue tiny ∧ (0#23) ≠ 0x7FFFFF#23 ∧ (2#16).getLsbD 0 = false ∧ (2#16) ≠ 0#16 ∧
    isExt 0x0000003B#32 = false ∧ (0x0000003B#32) ≠ 0xFFFFFFFF#32 := by unfold CanIssue; decide
theorem witness_InstructionsGoOn : isEvent (.nop np) = false := by decide
theorem witness_ResetState : kget State.reset.parts (0 * 16 + 0) = none := by decide

end Sys2Proof.Tests
end

section
/-! PROOFS. Special registers and identities (O44): SPRR, SPRW and GETID. -/

namespace Sys2Proof.Machine
open Sys2Proof

/-! ### Completion after a change of the group's own registers

An instruction without results of its own may change fields of the group before it completes. While the change spares the
lanes and the waiting instructions, the laws of completion hold of the changed state. -/

/-- A change of a group that spares its lanes and its waiting instructions. -/
def KeepsLanes (f : Group → Group) : Prop := ∀ G, (f G).lanes = G.lanes ∧ (f G).blocks = G.blocks

theorem modG_cid (s : State) (f : Group → Group) (hf : KeepsLanes f) (h : (kget s.groups s.cur.grp).isSome = true) :
    (s.modG f).cid = s.cid := by
  simp only [State.cid, State.g_modG s f h, State.modG_cur, Group.copyId, Group.lane, (hf s.g).1]

theorem modG_canIssue (s : State) (f : Group → Group) (hf : KeepsLanes f) (h : CanIssue s) : CanIssue (s.modG f) := by
  obtain ⟨hg, hw⟩ := h
  refine ⟨(State.isSome_modG s f _).trans hg, ?_⟩
  have hl : (s.modG f).g.lane (lowBit (s.modG f).cur.mask) = s.g.lane (lowBit s.cur.mask) := by
    simp only [State.g_modG s f hg, State.modG_cur, Group.lane, (hf s.g).1]
  rw [← hw, waiting, hl, State.g_modG s f hg, (hf s.g).2]
  rfl

theorem bankPart_no_words (i : Instr) (s : State) (r : Res) (h : r.vws = []) : bankPart i s r = s.g := by
  simp only [bankPart, h]
  split <;> rfl

/-- An instruction without vector results keeps the whole bank, not only the registers of `BankKept`. -/
theorem finishAt_bank (i : Instr) (r : Res) (a : BitVec 57) (s : State) (h : CanIssue s) (hr : r.vws = []) :
    (finishAt i r a s).g.v = s.g.v := by
  obtain ⟨-, hv, -⟩ := doneGroup_parts i s r
  rw [finishAt_g i r a s h]
  refine (congrArg Group.v (moveTo_go (doneGroup i s r) s.cur.mask s.cur.pc a).1).trans ?_
  rw [← bankPart_no_words i s r hr]; exact hv

theorem copyAfter_nil (w : Bool) (full : Dword) (C : SCopy) : copyAfter w full C {} = C := by cases w <;> rfl

/-- The special registers that SPRW can write, but for CC, are alike in two groups. -/
def SameSpecials (G H : Group) : Prop :=
  H.frame = G.frame ∧ H.thand = G.thand ∧ H.tsa = G.tsa ∧ H.tsb = G.tsb ∧ H.aflags = G.aflags ∧ H.aen = G.aen ∧
    H.watch = G.watch

theorem wrote_sameSpecials {i : Instr} {s t : State} {r : Res} {a : BitVec 57} (h : Wrote i s t r a) (hr : r.fl = 0#6) :
    SameSpecials s.g t.g := by
  obtain ⟨⟨-, ⟨hres, -, -⟩, -, -, -, -⟩, -, -, hfl⟩ := h
  rw [hr, BitVec.or_zero] at hfl
  exact ⟨(congrArg Group.frame hres :), (congrArg Group.thand hres :), (congrArg Group.tsa hres :),
    (congrArg Group.tsb hres :), hfl, (congrArg Group.aen hres :), (congrArg Group.watch hres :)⟩

theorem simple_congr {i : Instr} {r q : State → Res} (h : Simple i r) (hrq : ∀ s, r s = q s) : Simple i q :=
  funext hrq ▸ h

/-! ### Masks as bit ranges -/

theorem getLsbD_not_ones (w k j : Nat) :
    (~~~(BitVec.ofNat w (2 ^ k - 1))).getLsbD j = (decide (j < w) && !decide (j < k)) := by
  rw [BitVec.getLsbD_not, BitVec.getLsbD_ofNat, Nat.testBit_two_pow_sub_one]
  by_cases h : j < w <;> simp [h]

theorem evenPc_eq (x : Dword) : evenPc x = x.extractLsb' 1 56 ++ 0#1 := by
  apply BitVec.eq_of_getLsbD_eq
  intro j hj
  rw [evenPc, BitVec.getLsbD_append, BitVec.getLsbD_and, show 1#57 = BitVec.ofNat 57 (2 ^ 1 - 1) from rfl,
    getLsbD_not_ones]
  by_cases h : j < 1
  · simp [h]
  · simp [h, hj, show 1 + (j - 1) = j by omega, show j - 1 < 56 by omega]

theorem clearLow5_eq (x : Dword) : x &&& ~~~0x1F#64 = x.extractLsb' 5 59 ++ 0#5 := by
  apply BitVec.eq_of_getLsbD_eq
  intro j hj
  rw [BitVec.getLsbD_append, BitVec.getLsbD_and, show 0x1F#64 = BitVec.ofNat 64 (2 ^ 5 - 1) from rfl, getLsbD_not_ones]
  by_cases h : j < 5
  · simp [h]
  · simp [h, hj, show 5 + (j - 5) = j by omega, show j - 5 < 59 by omega]

/-- The writable bits of AENABLE: EN and FZ (R185). -/
theorem aenMask_getLsbD (x : Dword) (j : Nat) :
    (x.extractLsb' 0 9 &&& 0x13F#9).getLsbD j = (x.getLsbD j && decide (j ≤ 5 ∨ j = 8)) := by
  have hm : ∀ j < 9, (0x13F#9).getLsbD j = decide (j ≤ 5 ∨ j = 8) := by decide
  by_cases hj : j < 9
  · rw [BitVec.getLsbD_and, hm j hj, BitVec.getLsbD_extractLsb']
    simp [hj]
  · rw [BitVec.getLsbD_of_ge _ _ (by omega)]
    simp [show ¬(j ≤ 5 ∨ j = 8) by omega]

/-! ### Reading and writing a special register -/

theorem not_watchNumber {n : Nat} (h0 : n ≠ 0x020) (h1 : n ≠ 0x021) (h2 : n ≠ 0x022) (h3 : n ≠ 0x023) :
    ¬(0x020 ≤ n ∧ n ≤ 0x023) := by omega

/-- The four watchpoints are one case, and a trap register reads zero outside a handler (R182, R183). -/
theorem sprRead_eq (s : State) (n : Nat) : sprRead s n =
    let fr (f : Frame → Dword) : Dword := (s.g.frame.map f).getD 0#64
    if n = 0x000 then fr (fun f => f.cause.zeroExtend 64) else if n = 0x001 then fr Frame.tlanes
    else if n = 0x002 then fr Frame.tva else if n = 0x003 then fr (fun f => f.treta.zeroExtend 64)
    else if n = 0x004 then fr (fun f => f.tdest.zeroExtend 64) else if n = 0x005 then s.g.thand.zeroExtend 64
    else if n = 0x006 then s.g.tsa else if n = 0x007 then s.g.tsb
    else if n = 0x010 then s.g.aflags.zeroExtend 64 else if n = 0x011 then s.g.aen.zeroExtend 64
    else if n = 0x012 then s.sc.cc.zeroExtend 64 else if n = 0x018 then s.cc.tstat
    else if n = 0x019 then winmap s.g 0 else if n = 0x01A then winmap s.g 4
    else if 0x020 ≤ n ∧ n ≤ 0x023 then rget s.g.watch (n - 0x020)
    else if n = 0x030 then s.time - (s.dev (s.contOf s.cur.grp).d).t0 else 0#64 := by
  have hframe (f : Frame → Dword) :
      (match s.g.frame with | some x => f x | none => 0#64) = (s.g.frame.map f).getD 0#64 := by
    cases s.g.frame <;> rfl
  unfold sprRead
  split
  case h_1 | h_2 | h_3 | h_4 | h_5 => exact hframe _
  case h_20 =>
    have hwatch : ¬(0x020 ≤ n ∧ n ≤ 0x023) := not_watchNumber ‹_› ‹_› ‹_› ‹_›
    repeat rw [if_neg ‹_›]
  all_goals rfl

/-- Each field of the group after SPRW, by the number written. -/
theorem sprWrite_eq (copy n : Nat) (x : Dword) (G : Group) :
    sprWrite copy n x G =
      { G with
        frame := if n = 0x003 then G.frame.map fun f => if f.retire then f else { f with treta := evenPc x } else G.frame
        thand := if n = 0x005 then evenPc x else G.thand
        tsa := if n = 0x006 then x else G.tsa
        tsb := if n = 0x007 then x else G.tsb
        aflags := if n = 0x010 then x.extractLsb' 0 6 else G.aflags
        aen := if n = 0x011 then x.extractLsb' 0 9 &&& 0x13F#9 else G.aen
        copies := if n = 0x012 then (G.wrCC copy (x.extractLsb' 0 4)).copies else G.copies
        watch := if 0x020 ≤ n ∧ n ≤ 0x023 then kput G.watch (n - 0x020) (x &&& ~~~0x1F#64) else G.watch } := by
  unfold sprWrite
  split
  case h_12 =>
    have hwatch : ¬(0x020 ≤ n ∧ n ≤ 0x023) := not_watchNumber ‹_› ‹_› ‹_› ‹_›
    repeat rw [if_neg ‹_›]
  all_goals rfl

theorem sprWrite_keepsLanes (copy n : Nat) (x : Dword) : KeepsLanes (sprWrite copy n x) := fun G => by
  simp only [sprWrite_eq, and_self]

theorem sprWrite_copyIs (copy n : Nat) (x : Dword) (G : Group) :
    CopyIs G (sprWrite copy n x G) copy
      { G.copyOf copy with cc := if n = 0x012 then x.extractLsb' 0 4 else (G.copyOf copy).cc } := by
  have hcopies : (sprWrite copy n x G).copies =
      if n = 0x012 then (G.wrCC copy (x.extractLsb' 0 4)).copies else G.copies := by rw [sprWrite_eq]
  simp only [CopyIs, Group.copyOf, hcopies]
  split
  · exact wrCC_copyIs (copyIs_refl G copy) _
  · exact copyIs_refl G copy

theorem sprWrite_aen (copy n : Nat) (x : Dword) (G : Group) (j : Nat) : (sprWrite copy n x G).aen.getLsbD j =
    if n = 0x011 then (x.getLsbD j && decide (j ≤ 5 ∨ j = 8)) else G.aen.getLsbD j := by
  rw [sprWrite_eq, ← aenMask_getLsbD]
  exact apply_ite (fun y : BitVec 9 => y.getLsbD j) _ _ _

theorem sprWrite_watch (copy n : Nat) (x : Dword) (G : Group) (k : Nat) (hk : k < 4) :
    rget (sprWrite copy n x G).watch k = if n = 0x020 + k then x.extractLsb' 5 59 ++ 0#5 else rget G.watch k := by
  rw [sprWrite_eq, ← clearLow5_eq]
  by_cases hn : n = 0x020 + k
  · simp [hn, rget_kput, show 32 + k ≤ 35 by omega]
  · simp only [if_neg hn]
    split
    · rw [rget_kput, if_neg (by omega)]
    · rfl

/-! ### The three instructions -/

theorem sprr_simple (e : Pfx) (n : BitVec 9) (d : BitVec 6) :
    Simple (.sprr e n d) (fun s => { sws := [(d.toNat, sprRead s n.toNat)] }) :=
  simple_of (fun _ => rfl) (fun _ h => absurd rfl h) (fun _ _ => by simp [sdst])

/-- SPRW completes; the group differs from the written one by the completion only. -/
theorem sprw_next (e : Pfx) (n : BitVec 9) (a : BitVec 6) (s : State) (h : CanIssue s) :
    let W := sprWrite s.cid n.toNat (rs s a.toNat) s.g
    ∃ t, exec (.sprw e n a) s = .next t ∧ OnlyGroup s t ∧ t.g.v = s.g.v ∧ LanesGo s.cur.mask s.nextPc s.g t.g ∧
      SameSpecials W t.g ∧ CopiesAre (kput W.copies s.cid (W.copyOf s.cid)) t.g := by
  intro W
  let u := s.modG (sprWrite s.cid n.toNat (rs s a.toNat))
  have hk := sprWrite_keepsLanes s.cid n.toNat (rs s a.toNat)
  have hu : CanIssue u := modG_canIssue s _ hk h
  have hW : u.g = W := State.g_modG s _ h.1
  have hw : Wrote (.sprw e n a) u (finishAt (.sprw e n a) {} s.nextPc u) {} s.nextPc :=
    finishAt_wrote _ {} s.nextPc u hu (fun n => absurd rfl n) (fun n => absurd rfl n)
  have hsp := wrote_sameSpecials hw rfl
  obtain ⟨⟨hog, -, hcop, hlan, -, -⟩, -⟩ := hw
  rw [copyAfter_nil, modG_cid s _ hk h.1] at hcop
  rw [hW] at hsp hcop hlan
  refine ⟨_, rfl, onlyGroup_trans (onlyGroup_modG s _) hog, ?_, fun l => ?_, hsp, hcop⟩
  · refine (finishAt_bank _ {} s.nextPc u hu rfl).trans ?_
    rw [hW]; simp only [W, sprWrite_eq]
  · rw [← (hk s.g).1]; exact hlan l

/-- The scalar identities in the order of their selectors (R188); 0 and 1 select vector identities. -/
def identities (s : State) : List Nat :=
  let T := s.teamOf s.cur.grp
  let L := s.launchOf s.cur.grp
  let c := s.contOf s.cur.grp
  [0, 0, s.g.idx, T.idx, T.idx % L.desc.clusterSize, T.idx / L.desc.clusterSize, L.nteams,
    (s.dev c.d).logOf (s.coreOf s.cur.grp % 256), s.bankOf s.cur.grp, s.g.slot, c.p, (s.dev c.d).asidVif c.asid, c.d,
    if (s.dev c.d).fit then 1 else 0, L.naddr.toNat, L.args.toNat]

theorem identity_eq (s : State) : ∀ n, identity s n = ((identities s)[n]?).getD 0
  | 0 | 1 | 2 | 3 | 4 | 5 | 6 | 7 | 8 | 9 | 10 | 11 | 12 | 13 | 14 | 15 => rfl
  | _ + 16 => rfl

theorem getid_scalar_simple (e : Pfx) (n : BitVec 9) (d : BitVec 6) :
    Simple (.getid e n 0#6 d) (fun s => { sws := [(d.toNat, BitVec.ofNat 64 (identity s n.toNat))] }) :=
  simple_of (fun _ => rfl) (fun _ h => absurd rfl h) (fun _ _ => by simp [sdst])

/-- GETID has no W bit, so this holds of every A field other than 0, also of those that R188 reserves. -/
theorem getid_vector_simple (e : Pfx) (n : BitVec 9) (a d : BitVec 6) (ha : a ≠ 0#6) :
    Simple (.getid e n a d) (fun s =>
      { vws := (lanesOf s.g.width s.cur.mask).map fun l =>
          (l, d.toNat, BitVec.ofNat 32 (if n = 0#9 then l else s.g.idx * s.g.width + l)) }) := by
  intro s h
  have hx : exec (.getid e n a d) s = issueS (.getid e n a d) (fun s =>
      { vws := (lanesOf s.g.width s.cur.mask).map fun l =>
          (l, d.toNat, BitVec.ofNat 32 (if n = 0#9 then l else s.g.idx * s.g.width + l)) }) s := by
    show execGetid e n a d s = _
    simp only [execGetid, issueS, if_neg ha, wordsAt, ← List.map_eq_flatMap]
  rw [hx]
  exact issueS_wrote _ _ s h
    (fun _ => ⟨destDesc_vector _ (by simp [sdst, ha]), fun hw => Bool.noConfusion hw⟩) (fun n => absurd rfl n)

end Sys2Proof.Machine

namespace Sys2Proof
open Sys2Proof.Machine

/-- Settles O44: SPRR and GETID are simple instructions with the tables' results, and SPRW completes on the written group. -/
theorem specialRegisterResults : Obligations.SpecialRegisterResults := by
  unfold Obligations.SpecialRegisterResults
  intro e n a d even watch
  have hn (c : BitVec 9) : n = c ↔ n.toNat = c.toNat := BitVec.toNat_inj.symm
  refine ⟨?_, ?_, fun ha => ?_, getid_vector_simple e n a d⟩
  · refine simple_congr (sprr_simple e n d) fun s => ?_
    simp only [hn]
    rw [sprRead_eq]
    rfl
  · intro s h x
    obtain ⟨t, ht, hog, hv, hlan, ⟨hframe, hthand, htsa, htsb, haflags, haen, hwatch⟩, hcop⟩ := sprw_next e n a s h
    have hown := sprWrite_copyIs s.cid n.toNat x s.g
    simp only [hn]
    refine ⟨t, ht, hog, hv, hlan, ?_, ?_, ?_, ?_, ?_, fun j => ?_, fun k hk => ?_, fun c hc => ?_, fun C hC => ?_⟩
    · rw [hframe, sprWrite_eq, evenPc_eq]; rfl
    · rw [hthand, sprWrite_eq, evenPc_eq]; rfl
    · rw [htsa, sprWrite_eq]; rfl
    · rw [htsb, sprWrite_eq]; rfl
    · rw [haflags, sprWrite_eq]; rfl
    · rw [haen]; exact sprWrite_aen _ _ _ _ j
    · rw [hwatch]; exact sprWrite_watch _ _ _ _ k hk
    · have hother := hcop c
      rw [kget_kput_ne _ _ _ _ (Ne.symm hc)] at hother
      exact hown.1 c hc ▸ hother
    · have hsame := hcop s.cid
      rw [hC, kget_kput_same, copyIs_copyOf hown] at hsame
      rcases hsame with hsame | hsame
      · cases hsame
        exact ⟨rfl, rfl, rfl⟩
      · cases hsame
  · subst ha
    refine simple_congr (getid_scalar_simple e n d) fun s => ?_
    rw [identity_eq]
    rfl

end Sys2Proof
end

section
/-! PROOFS. Number formats (O5, O6): reads of other lanes and floating-point arithmetic. -/

namespace Sys2Proof.Machine
open Sys2Proof

/-! ### The lanes of an issue

The lanes that act are those of the issue; a statement may name them in the state in which the older loads have landed. -/

theorem landFor_activeMask (rgs : List VReg) (e : Pfx) (p : BitVec 2) (s : State) :
    activeMask e p (landFor rgs s) = activeMask e p s := sameLanes_activeMask (landFor_sameLanes rgs s) e p
theorem landFor_width (rgs : List VReg) (s : State) : (landFor rgs s).g.width = s.g.width :=
  sameLanes_width (landFor_sameLanes rgs s)

/-- Reads and results of other lanes that take the mask and the width of the issue take those of after the landing. -/
theorem across_of_issueLanes {i : Instr} {e : Pfx} {p : BitVec 2} {rds : State → List (Nat × Nat × Nat × Nat)}
    {r : State → Res} {rd : State → State → List (Nat × Nat × Nat × Nat)} {g : State → State → Res}
    (hx : ∀ s, exec i s = issueAcross i (regs i) (rd s) (g s) s)
    (hl : ∀ s u, u.g.width = s.g.width → activeMask e p u = activeMask e p s → rd s u = rds u ∧ g s u = r u)
    (hv : sdst i = none) (hd : ((regs i).find? (·.dst)).isSome = true) (hs : ∀ s, (r s).sws = []) : Across i rds r :=
  have hland (s : State) := hl s (landFor (regs i) s) (landFor_width _ s) (landFor_activeMask _ e p s)
  across_of hx (fun s => (hland s).1) (fun s => (hland s).2) hv hd hs

/-! ### Format G with a vector destination -/

theorem regsG_find_dst (e : Pfx) (f : GForm) (n nb : Nat) : ((regsG e f n nb).find? (·.dst)).isSome = true := rfl
theorem regsG4_find_dst (e : Pfx) (f : GForm) (n nb : Nat) : ((regsG4 e f n nb).find? (·.dst)).isSome = true := rfl

/-- An instruction of two float operands in format G, with its own type throughout (R145). -/
theorem laneWise_fltOp_formG {i : Instr} {e : Pfx} {f : GForm} (g : Bool → Nat → Nat → Nat × Flags)
    (hx : ∀ s, exec i s = fltOp i e f.p (effTy i) f.d f.a (bOp e f.b) g s) (hs : sdst i = none)
    (hr : regs i = regsG e f (tyWords (effTy i)) (tyWords (effTy i))) :
    LaneWise i e f.p f.d (tyWords (effTy i)) fun G l => perElem (cWidth (effTy i)) (elems (effTy i)) fun k =>
      g G.fz (elemOf (cWidth (effTy i)) (G.rdWords l f.a.toNat (tyWords (effTy i))) k)
        (elemOf (cWidth (effTy i)) (opFloat G (bOp e f.b) (effTy i) l) k) :=
  laneWise_fltOp hx hs (hr ▸ regsG_find_dst e f _ _)

end Sys2Proof.Machine

namespace Sys2Proof
open Sys2Proof.Machine

/-- Settles O5: each instruction is an issue across lanes; its reads and its results take the lanes of the issue, which are
those of the state in which the older loads have landed. -/
theorem crossLaneResults : Obligations.CrossLaneResults := by
  unfold Obligations.CrossLaneResults
  intro e f
  refine ⟨?vshf, ?vbcast, ?vreduce, ?vscan⟩
  case vshf =>
    refine across_of_issueLanes (e := e) (p := f.p) (fun s => show execVshf e f s = _ by unfold execVshf; rfl)
      (fun s u hw hm => ?_) rfl rfl fun _ => rfl
    simp only [hw, hm, and_self]
  case vbcast =>
    refine across_of_issueLanes (e := e) (p := f.p) (fun s => show execVbcast e f s = _ by unfold execVbcast; rfl)
      (fun s u hw hm => ?_) rfl rfl fun _ => rfl
    simp only [hw, hm, and_self]
  case vreduce =>
    refine across_of_issueLanes (e := e) (p := f.p) (fun s => show execVreduce e f s = _ by unfold execVreduce; rfl)
      (fun s u hw hm => ?_) rfl rfl fun _ => rfl
    simp only [hw, hm, and_self]
  case vscan =>
    refine across_of_issueLanes (e := e) (p := f.p) (fun s => show execVscan e f s = _ by unfold execVscan; rfl)
      (fun s u hw hm => ?_) rfl rfl fun _ => rfl
    simp only [hw, hm, and_self]

/-- Settles O6: six instructions apply a function of two encodings to each element, FFMA one of three. -/
theorem vectorFloatArithmeticResults : Obligations.VectorFloatArithmeticResults := by
  unfold Obligations.VectorFloatArithmeticResults
  intro e f two arith
  exact ⟨laneWise_fltOp_formG (fArithBits _ e.rm 0) (fun _ => rfl) rfl rfl,
    laneWise_fltOp_formG (fArithBits _ e.rm 1) (fun _ => rfl) rfl rfl,
    laneWise_fltOp_formG (fArithBits _ e.rm 2) (fun _ => rfl) rfl rfl,
    laneWise_fltOp_formG (fMinMax _ false) (fun _ => rfl) rfl rfl,
    laneWise_fltOp_formG (fMinMax _ true) (fun _ => rfl) rfl rfl,
    laneWise_fltOp_formG (fun _ x y => (fsgnBits _ e.xo x y, 0#6)) (fun _ => rfl) rfl rfl,
    laneWise_of (fun _ => rfl) rfl (regsG4_find_dst e f _ _)⟩

end Sys2Proof
end

section
/-! PROOFS. Number formats (O7, O8): functions of one float operand, conversions and window arithmetic. -/

namespace Sys2Proof.Machine
open Sys2Proof

/-! ### Results that look at the state of the issue

FCVT, FPACK and FWCVT read scalar registers at issue (R22, R157, R162), vector registers after the older loads have
landed. -/

/-- A meaning that is a lane-wise operation of a function taken at the issue has the shape `LaneWiseAt`. -/
theorem laneWiseAt_of {i : Instr} {e : Pfx} {p : BitVec 2} {d : BitVec 7} {n : Nat} {h : State → Group → Nat → Nat × Flags}
    (hx : ∀ s, exec i s = vecOp i e p d n (h s) s) (hs : sdst i = none) (hr : ((regs i).find? (·.dst)).isSome = true) :
    LaneWiseAt i e p d n h := by
  intro s s' ls hc hn hz
  rw [hx]
  exact vecOp_done i e p d n (h s) s hc hn hz (destDesc_vector i hs) (destDesc_wb i hs hr)

/-! ### Registers with the destination first -/

theorem vdst_cons_find_dst (d : BitVec 7) (n : Nat) (xs : List VReg) :
    ((vdst d n :: xs).find? (·.dst)).isSome = true := rfl

/-- Both directions of FWCVT name a vector destination, a quad or a register of the type (R162). -/
theorem fwcvt_find_dst (e : Pfx) (f : GForm) : ((regs (.fwcvt e f)).find? (·.dst)).isSome = true := by
  simp only [regs]
  split
  · exact vdst_cons_find_dst f.d 4 _
  · exact vdst_cons_find_dst f.d _ _

/-! ### Functions of one float operand (R150, R152) -/

/-- An instruction that is a function of one float operand, with its own type throughout. -/
theorem laneWise_funOp {i : Instr} {e : Pfx} {u : UForm} (g : Nat → FV → Nat × Flags)
    (hx : ∀ s, exec i s = funOp i e u (effTy i) g s) (hs : sdst i = none)
    (hr : regs i = [vdst u.d (tyWords (effTy i)), vsrc u.a (tyWords (effTy i))]) :
    LaneWise i e u.p u.d (tyWords (effTy i)) fun G l => perElem (cWidth (effTy i)) (elems (effTy i)) fun k =>
      flushRes (effTy i) G.fz (g (elemOf (cWidth (effTy i)) (G.rdWords l u.a.toNat (tyWords (effTy i))) k)
        (fElem (effTy i) G.fz (G.rdWords l u.a.toNat (tyWords (effTy i))) k)) :=
  laneWise_of hx hs (hr ▸ vdst_cons_find_dst u.d _ _)

end Sys2Proof.Machine

namespace Sys2Proof
open Sys2Proof.Machine

/-- Settles O7: nine instructions apply a function of an encoding and its value to each element; FCLASS writes one
register of class masks, and FSCALE also reads a count. -/
theorem vectorFloatFunctionResults : Obligations.VectorFloatFunctionResults := by
  unfold Obligations.VectorFloatFunctionResults
  intro e u f fn
  refine ⟨?frcp, ?frsq, ?fsqrt, ?fexp2, ?flog2, ?fsin, ?fcos, ?ftanh, ?frnd, ?fclass, ?fscale⟩
  case frcp => exact laneWise_funOp (fun _ => fvRcp _ e.rm) (fun _ => rfl) rfl rfl
  case frsq => exact laneWise_funOp (fun _ => fvRsq _ e.rm) (fun _ => rfl) rfl rfl
  case fsqrt => exact laneWise_funOp (fun _ => fvSqrt _ e.rm) (fun _ => rfl) rfl rfl
  case fexp2 => exact laneWise_funOp (fun _ => fvExp2 _) (fun _ => rfl) rfl rfl
  case flog2 => exact laneWise_funOp (fun _ => fvLog2 _) (fun _ => rfl) rfl rfl
  case fsin => exact laneWise_funOp (fun _ => fvSinCos _ false) (fun _ => rfl) rfl rfl
  case fcos => exact laneWise_funOp (fun _ => fvSinCos _ true) (fun _ => rfl) rfl rfl
  case ftanh => exact laneWise_funOp (fun _ => fvTanh _) (fun _ => rfl) rfl rfl
  case frnd => exact laneWise_funOp (fun _ => fvRint _ e.rm (e.xo = 1)) (fun _ => rfl) rfl rfl
  case fclass => exact laneWise_of (fun _ => rfl) rfl (vdst_cons_find_dst u.d 1 _)
  case fscale => exact laneWise_of (fun _ => rfl) rfl (regsG_find_dst e f _ 1)

/-- Settles O8: each instruction is a lane-wise operation of a function taken at the issue; FWCVT is one in either
direction that XO names. -/
theorem vectorConversionResults : Obligations.VectorConversionResults := by
  unfold Obligations.VectorConversionResults
  intro e f nf sl w ty a d p done
  refine ⟨?fcvt, ?fmxs, ?fpack, ?funpack, ?fdot2, ?fwcvtToFw, ?fwcvtFromFw, ?fwadd⟩
  case fcvt => exact laneWiseAt_of (fun _ => rfl) rfl (vdst_cons_find_dst d _ _)
  case fmxs => exact laneWiseAt_of (fun _ => rfl) rfl (vdst_cons_find_dst d 1 _)
  case fpack => exact laneWiseAt_of (fun _ => rfl) rfl (vdst_cons_find_dst f.d 1 _)
  case funpack => exact laneWiseAt_of (fun _ => rfl) rfl rfl
  case fdot2 => exact laneWiseAt_of (fun _ => rfl) rfl (regsG4_find_dst e f 1 1)
  case fwcvtToFw => exact fun hxo => laneWiseAt_of (fun _ => if_pos hxo) rfl (fwcvt_find_dst e f)
  case fwcvtFromFw => exact fun hxo => laneWiseAt_of (fun _ => if_neg hxo) rfl (fwcvt_find_dst e f)
  case fwadd => exact laneWiseAt_of (fun _ => rfl) rfl (regsG_find_dst e f _ _)

end Sys2Proof
end
